-- ==== Sys2Proof/Word.lean ====
section
/-!
DEFINITION. The byte and word types of the LS240 and their plainest arithmetic.
-/
namespace Sys2Proof

/-- One byte of a riser frame, a crew port message or a plan store block. -/
abbrev Byte := BitVec 8

/-- A 16-bit word: the check word (R180), the NotifyVector (R155), a length field (R185). -/
abbrev Word16 := BitVec 16

/-- A count that rises by one and saturates at its limit (0.5, "saturates"). -/
def satSucc (limit n : Nat) : Nat := if n < limit then n + 1 else limit

/-- The saturating rise of the counts that run from 0 to 65535. -/
def sat16 (n : Nat) : Nat := satSucc 65535 n

end Sys2Proof
end

