-- ==== Sys2Proof/Syntax.lean ====
section
/-!
DEFINITION. The commands of the LS240: one constructor for each row of spec/opcode_table.json.
The table gives no operands, so the operands are what the row's rule says the event brings with it.
-/
namespace Sys2Proof

/-- The four settings of the BANKSIZE strap (R121). -/
inductive BankSize where
  | mb2 | mb4 | mb8 | mb16
  deriving DecidableEq, Repr

/-- The straps as sampled at a reset (R121, R172): the station number as it stands on its eight
inputs, BANKS less one, and BANKSIZE. -/
structure Straps where
  station : Byte
  banksLessOne : Fin 4
  bankSize : BankSize
  deriving DecidableEq, Repr

/-- The raw values of one scan of the 64 point channels (R3), channel 0 first. -/
abbrev Readings := { l : List Byte // l.length = 64 }

/-- The 256 bytes one plan store transfer delivers (R124). -/
abbrev BlockBytes := { l : List Byte // l.length = 256 }

/-- Which of two things of one tick is taken first, where the manual leaves the order open: the scan
of the tick, or the expiries the tick brings about (R36, R115; log 4). -/
inductive TickOrder where
  | scanFirst | expiriesFirst
  deriving DecidableEq, Repr

/-- The commands, in the table's order. A crew request carries the channel it names and its field
bytes as they stand in the message (R185, R186). A command of the crew port is the message's bytes on the
link, which the receiver reads behind those it holds (log 16). -/
inductive Instr where
  | coldStart (straps : Straps)
  | resetAssert
  | warmRestart (straps : Straps)
  | tick (readings : Readings) (order : TickOrder)
  | silenceExpiry (station : Nat)
  | holdExpiry
  | recoveryStart
  | incidentHoldExpiry
  | awaitTimerExpiry (station : Nat)
  | summaryCounterExpiry
  | stuckEvent
  | linkLoss
  | lineQuietEvent
  | mismatch (wholeBytes : Nat)
  | backoffExpiry
  | frameCompletion
  | riserFrameEnd (bytes : List Byte) (broken : Bool)
  | stateFrame
  | fullsetFrame
  | summaryFrame
  | resyncFrame
  | stateFrameBuild
  | fullsetFrameBuild
  | summaryFrameBuild
  | resyncFrameBuild
  | transferEnd (bytes : BlockBytes)
  | linkTransmitterTake
  | answerPlaced (ch : Fin 4)
  | noticePendingPlaced (ch : Fin 4)
  | listMessagePlaced (ch : Fin 4)
  | bundleMessagePlaced (ch : Fin 4)
  | idle (ch : Fin 4) (fields : List Byte)
  | attach (ch : Fin 4) (fields : List Byte)
  | detach (ch : Fin 4) (fields : List Byte)
  | sheet (ch : Fin 4) (fields : List Byte)
  | watch (ch : Fin 4) (fields : List Byte)
  | unwatch (ch : Fin 4) (fields : List Byte)
  | mark (ch : Fin 4) (fields : List Byte)
  | unmark (ch : Fin 4) (fields : List Byte)
  | isolate (ch : Fin 4) (fields : List Byte)
  | deisolate (ch : Fin 4) (fields : List Byte)
  | restore (ch : Fin 4) (fields : List Byte)
  | list (ch : Fin 4) (fields : List Byte)
  | stations (ch : Fin 4) (fields : List Byte)
  | collect (ch : Fin 4) (fields : List Byte)
  | lineBusy (afterEndGap : Bool)
  | badCheckMessage (bytes : List Byte)
  | lengthOutOfRange (len : Word16)
  | strayChannelMessage (channel : Byte) (typeAndFields : List Byte)
  | unknownTypeRequest (ch : Fin 4) (type : Byte) (fields : List Byte)
  deriving DecidableEq, Repr

end Sys2Proof
end

