-- ==== Sys2Proof/Config.lean ====
section
/-!
DEFINITION. What the manual fixes as limits and defaults, and the values it leaves free.
A free value is an opaque constant: nothing can be proved of what it is.
-/
namespace Sys2Proof.Config

/-- FREE VALUE (log 7). The number the random source of R75 gives, from its seed (the station number
and the tick of the reset) and the number of draws made since. R75 says it is drawn at random. -/
opaque backoffDraw (seedStation seedTick draws : Nat) : Nat

/-- FREE VALUE (log 9). What the 32-bit tick counter holds after a tick at its limit: the spec says
only that the limit is not reached in the life of the part (0.5, R172). -/
opaque tickPastLimit : Nat

/-- FREE VALUE (log 10). What a confirm count above 15 in the image is taken as: R2 gives the range
1 to 15 and says only what 0 becomes. -/
opaque confirmAbove (n : Nat) : Nat

/-- The limit of the tick counter (R172). -/
def tickLimit : Nat := 4294967295

/-- Places of the foreign pool (R17). -/
def poolPlaces : Nat := 560

/-- Free places that a recovery waits for (R38). -/
def recoveryRoom : Nat := 64

/-- Places of an outbound queue (R170). -/
def outboundPlaces : Nat := 24

/-- Above this many messages the condensed flag is set (R171). -/
def condensedAbove : Nat := 20

/-- At this many messages or fewer the condensed flag clears (R171). -/
def condensedClears : Nat := 8

/-- Free places a BLOCK message needs (R140, R170). -/
def blockRoom : Nat := 4

/-- Frames the receive queue holds (R48). -/
def receivePlaces : Nat := 4

/-- Ticks without a good message after which the crew port link is lost (R153). -/
def linkLossTicks : Nat := 50

/-- Ticks without a quiet line at which the stuck event takes place (R82). -/
def stuckTicks : Nat := 20

/-- Collisions at which a frame is given up (R76). -/
def giveUpCollisions : Nat := 10

/-- The await timer's load (R103). -/
def awaitTicks : Nat := 40

/-- Bytes of the longest frame (R182). -/
def longestFrame : Nat := 176

/-- Bytes of the shortest frame (R182). -/
def shortestFrame : Nat := 8

/-- Blocks of the plan store's address space (R121). -/
def storeBlocks : Nat := 262144

/-- Marks a snapshot keeps (R143). -/
def snapshotMarks : Nat := 96

/-- Addresses a late set holds (R145). -/
def lateSetSize : Nat := 32

/-- Items a LIST keeps (R165). -/
def listItems : Nat := 64

/-- The default SummarySeed (R176). -/
def defaultSeed : Nat := 193

/-- The summary interval that a seed gives (R86). -/
def summaryInterval (seed : Nat) : Nat := (255 - seed) + 2

/-- The default ClearHold (R176). -/
def defaultClearHold : Nat := 600

/-- The default IncidentHold (R107, R176). -/
def defaultIncidentHold : Nat := 3000

/-- The default SpreadFloors (R107, R176). -/
def defaultSpreadFloors : Nat := 2

end Sys2Proof.Config
end

