-- ==== Sys2Proof/Machine/State.lean ====
section
/-!
DEFINITION. Everything the spec gives the LS240 to hold, as plain data, and the machine after a cold start.
Fields marked MODEL are the model's own or are state the spec implies without naming it (log 23).
-/
namespace Sys2Proof.Machine

/-! ## Points and entries (chapters 1 and 2) -/

/-- The states of an entry (R18, R20), from the lowest rank to the highest. -/
inductive PointState where
  | cleared | isolated | fault | searched | prealarm | crewPresent | hazard | alarm
  deriving DecidableEq, Repr

/-- A point address: origin station and local index (0.5). -/
structure Address where
  station : Nat
  index : Nat
  deriving DecidableEq, Repr

/-- A sheet number with the position on it. NONE is written as the absence of a place (R18). -/
structure Place where
  sheet : Nat
  x : Nat
  y : Nat
  deriving DecidableEq, Repr

/-- A location code (0.5): floor 127 means unknown. -/
structure Location where
  floor : Nat
  compartment : Nat
  deriving DecidableEq, Repr

/-- What an entry carries beside its state: a level at a loop index, a crew id at a marker index (R18). -/
inductive Datum where
  | level (v : Nat)
  | crew (id : Nat)
  deriving DecidableEq, Repr

/-- One entry of the Picture Table (R18). -/
structure Entry where
  addr : Address
  state : PointState
  datum : Datum
  place : Option Place
  loc : Location
  localSince : Nat
  learned : Nat
  confirmed : Bool
  sweep : Bool
  deriving DecidableEq, Repr

/-- The kinds of picture change (R21), and LATE, the kind a late mark carries (R186 code table). -/
inductive ChangeKind where
  | admission | state | level | confirm | unconfirm | remove | evict | late
  deriving DecidableEq, Repr

/-- A picture change (R21). `prevSheet` is present when the event changed the entry's sheet; the sheet
before the event may itself be NONE. -/
structure PictureChange where
  kind : ChangeKind
  entry : Entry
  prevState : Option PointState
  prevSheet : Option (Option Nat)
  deriving DecidableEq, Repr

/-! ## Station conditions and notices -/

/-- The five station conditions (R178), in the order of their bits (R182). -/
inductive Condition where
  | supply | line | plan | config | duplicate
  deriving DecidableEq, Repr

/-- The eight notices (R167), in the order of their bits (R186 code table). -/
inductive Notice where
  | spreadVertical | spreadLateral | originMoved | originSilent
  | pictureChanged | sheetStale | revisionMismatch | stationFault
  deriving DecidableEq, Repr

/-- A set of station conditions, as the byte of a SUMMARY body holds it (R182). -/
abbrev ConditionSet := BitVec 8

/-- A set of notices, as the extra byte of a COLLECT answer holds it (R186 code table). -/
abbrev NoticeSet := BitVec 8

/-! ## Station Control (chapter 10) -/

/-- The load step (R172). `directory k` waits for the k-th directory block, counted from 0. -/
inductive LoadStep where
  | straps | header | config | directory (k : Nat) | held
  deriving DecidableEq, Repr

/-- The state of Station Control (R172). -/
structure StationControl where
  straps : Straps
  running : Bool
  step : LoadStep
  defaultsInUse : Bool
  revision : Option Nat
  loadedRecord : Option (List Byte)
  loadedDirectory : List (Option (List Byte))
  conditions : ConditionSet
  tick : Nat
  /-- MODEL: the reset input is asserted (R173). -/
  resetHeld : Bool
  deriving DecidableEq, Repr

/-! ## Point Scanner (chapter 1) -/

/-- The kinds of a channel (R1). -/
inductive ChannelKind where
  | unused | detector | callpoint | flow | supervisory
  deriving DecidableEq, Repr

/-- The bands of R3 and R4. -/
inductive Band where
  | fault | normal | prealarm | alarm
  deriving DecidableEq, Repr

/-- The scanner states (R5). -/
inductive ScanState where
  | normal | prealarm | alarm | fault | isolated
  deriving DecidableEq, Repr

/-- The configuration copy of one channel (R1). -/
structure ChannelConfig where
  kind : ChannelKind
  latched : Bool
  invert : Bool
  loc : Location
  place : Option Place
  deriving DecidableEq, Repr

/-- A threshold set (R1). -/
structure Thresholds where
  faultLow : Nat
  pre : Nat
  alarm : Nat
  deriving DecidableEq, Repr

/-- The scanner's configuration copy (R1). -/
structure ScanConfig where
  channels : List ChannelConfig
  detector : Thresholds
  callpoint : Thresholds
  flow : Thresholds
  supervisory : Thresholds
  prealarmConfirm : Nat
  alarmConfirm : Nat
  faultConfirm : Nat
  releaseCount : Nat
  levelDivider : Nat
  levelStep : Nat
  deriving DecidableEq, Repr

/-- The per-channel state of the scanner (R5). -/
structure ScanChannel where
  state : ScanState
  candidate : Option Band
  counter : Nat
  armed : Bool
  lastLevel : Nat
  deriving DecidableEq, Repr

/-- The Point Scanner: its configuration copy, its 64 channels and the level divider counter (R1, R5). -/
structure Scanner where
  cfg : ScanConfig
  channels : List ScanChannel
  divider : Nat
  deriving DecidableEq, Repr

/-! ## Picture Table (chapter 2) -/

/-- The status of an origin (R42). -/
inductive OriginStatus where
  | unknown | live | gapped | resyncing | silent
  deriving DecidableEq, Repr

/-- The resync state with the await timer, which runs only while AWAITING (R42). -/
inductive Resync where
  | none | wanted | awaiting (timer : Nat)
  deriving DecidableEq, Repr

/-- An origin record (R42). -/
structure OriginRecord where
  status : OriginStatus
  held : Option Nat
  interval : Nat
  silence : Nat
  overflow : Bool
  revision : Option Nat
  conditions : Option ConditionSet
  resync : Resync
  deriving DecidableEq, Repr

/-- The recovery slot when it holds an origin (R38). -/
structure Recovery where
  origin : Nat
  loss : Bool
  deriving DecidableEq, Repr

/-- The Picture Table. `entries` stands in strictly rising point address; `origins` holds the record of
station n at place n - 1 (R17, R38, R42). -/
structure PictureTable where
  entries : List Entry
  origins : List OriginRecord
  recovery : Option Recovery
  clearHold : Nat
  deriving DecidableEq, Repr

/-! ## Frames (chapters 3, 4 and 11) -/

/-- The kinds of frame (R181). -/
inductive FrameKind where
  | state | fullset | summary | resync
  deriving DecidableEq, Repr

/-- The kinds of record (R183). -/
inductive RecordKind where
  | point | marker | level
  deriving DecidableEq, Repr

/-- A record of a STATE or FULLSET frame (R183). `value` is the level or the crew id. -/
structure Record where
  kind : RecordKind
  index : Nat
  state : PointState
  value : Nat
  place : Option Place
  loc : Location
  age : Nat
  deriving DecidableEq, Repr

/-- The body of a frame as the Publisher builds it (R92, R95, R98, R102). -/
inductive FrameBody where
  | records (l : List Record)
  | summary (active : Nat) (revision : Option Nat) (conditions : ConditionSet)
  | names (l : List Nat)
  deriving DecidableEq, Repr

/-- A frame as the Publisher builds it: everything but the check word, which encodeFrame adds (R72). -/
structure TxFrame where
  kind : FrameKind
  first : Bool
  last : Bool
  start : Bool
  station : Nat
  seq : Nat
  seed : Nat
  body : FrameBody
  deriving DecidableEq, Repr

/-- A frame as received: the header's fields, and the body's bytes (R181). -/
structure RxFrame where
  kind : FrameKind
  first : Bool
  last : Bool
  start : Bool
  station : Nat
  seq : Nat
  seed : Nat
  count : Nat
  body : List Byte
  deriving DecidableEq, Repr

/-- The Merge Unit: the receive queue, oldest first, and its four counts (R48). -/
structure MergeUnit where
  queue : List RxFrame
  overrun : Nat
  rejected : Nat
  repeats : Nat
  old : Nat
  deriving DecidableEq, Repr

/-- The transmitter state with the slot, the collision count of the frame in it and the back-off timer
(R71): the count is 0 when the slot is empty and the timer runs only in BACKOFF. -/
inductive Transmitter where
  | empty
  | waiting (frame : TxFrame) (collisions : Nat)
  | sending (frame : TxFrame) (collisions : Nat)
  | backoff (frame : TxFrame) (collisions : Nat) (slots : Nat)
  deriving DecidableEq, Repr

/-- The receiver state with the receive buffer and the marks of a frame that is too long or broken
(R71, R79). -/
inductive Receiver where
  | idle
  | receiving (buffer : List Byte) (tooLong : Bool) (broken : Bool)
  deriving DecidableEq, Repr

/-- The Riser Line Interface (R71). -/
structure RiserLine where
  tx : Transmitter
  quiet : Bool
  /-- MODEL: the line was QUIET at some moment since the previous tick (R82). -/
  quietSeen : Bool
  stuckTimer : Nat
  rx : Receiver
  collisionTotal : Nat
  giveUps : Nat
  checkErrors : Nat
  lengthErrors : Nat
  stuckCount : Nat
  /-- The seed of the random source (R75, R174). -/
  seedStation : Nat
  seedTick : Nat
  /-- MODEL: the number of draws made since the seeding. -/
  draws : Nat
  deriving DecidableEq, Repr

/-! ## Publisher (chapter 5) -/

/-- A clearing copy (R89). -/
structure ClearingCopy where
  crew : Nat
  place : Option Place
  loc : Location
  deriving DecidableEq, Repr

/-- The Publisher (R86). The two sets hold own indices in rising order. -/
structure Publisher where
  change : List Nat
  level : List Nat
  copies : List (Option ClearingCopy)
  seq : Nat
  summaryCounter : Nat
  /-- MODEL: the counter has expired and was not loaded since (R94). -/
  summaryDue : Bool
  fullsetDue : Bool
  startPending : Bool
  cursor : Option Nat
  frameStart : Option Nat
  seed : Nat
  /-- MODEL: the marker slots whose present clearing copy gave a record of the frame in the slot (R89). -/
  copiesInFlight : List Nat
  deriving DecidableEq, Repr

/-! ## Incident Monitor (chapter 6) -/

/-- The incident origin record when it is not empty (R107). -/
structure IncidentOrigin where
  addr : Address
  loc : Location
  since : Nat
  deriving DecidableEq, Repr

/-- The Incident Monitor (R107). -/
structure IncidentMonitor where
  active : Bool
  alarmCount : Nat
  origin : Option IncidentOrigin
  vertical : Bool
  lateral : Bool
  hold : Option Nat
  incidentHold : Nat
  spreadFloors : Nat
  groups : List Nat
  deriving DecidableEq, Repr

/-! ## Plan Store Controller (chapter 7) -/

/-- The party a read is for (R125). -/
inductive Requester where
  | loader
  | channel (ch : Fin 4)
  deriving DecidableEq, Repr

/-- The kind of a read (R125). -/
inductive ReadKind where
  | block
  | handle (sheet : Nat)
  deriving DecidableEq, Repr

/-- A read request (R125). `demand` is the class DEMAND; a request that is not is AHEAD. -/
structure ReadRequest where
  who : Requester
  what : ReadKind
  block : Nat
  demand : Bool
  urgent : Bool
  deriving DecidableEq, Repr

/-- The read engine with the request in flight and the orphan flag (R127). -/
inductive ReadEngine where
  | idle
  | first (r : ReadRequest) (orphan : Bool)
  | second (r : ReadRequest) (orphan : Bool)
  deriving DecidableEq, Repr

/-- The image layout (R132). -/
structure Layout where
  configStart : Nat
  dirStart : Nat
  handleStart : Nat
  sheetCount : Nat
  deriving DecidableEq, Repr

/-- The completion codes of a read (R129). -/
inductive ReadCode where
  | intact | damaged | absent
  deriving DecidableEq, Repr

/-- The Plan Store Controller (R131). The bank geometry has its one home in the straps. -/
structure PlanStore where
  layout : Option Layout
  mainQueue : List ReadRequest
  promoteQueue : List ReadRequest
  engine : ReadEngine
  rereads : Nat
  damaged : Nat
  absent : Nat
  deriving DecidableEq, Repr

/-! ## Messages to the crew port (chapter 9 and R185) -/

/-- A mark: the group of 14 bytes of R186, and a mark of a snapshot (R143). -/
structure Mark where
  addr : Address
  state : PointState
  datum : Datum
  place : Option Place
  loc : Location
  confirmed : Bool
  age : Nat
  deriving DecidableEq, Repr

/-- The status of an ANSWER (R156). -/
inductive Status where
  | ok | starting | badRequest | notAttached | already | badRole | notPermitted
  | markersFull | notOwn | badPoint | notLatched
  deriving DecidableEq, Repr

/-- The completion codes of a bundle (R146, R148). -/
inductive Completion where
  | complete | absent | aborted
  deriving DecidableEq, Repr

/-- The origin status a list carries: that of the origin record, or OWN (R165, R166). -/
inductive ListStatus where
  | origin (s : OriginStatus)
  | own
  deriving DecidableEq, Repr

/-- The messages the part sends (R185). -/
inductive Message where
  | answer (request : Nat) (status : Status) (extra : Nat)
  | bundleHead (sheet floor blockCount : Nat) (revision : Option Nat) (absent urgent : Bool)
  | block (index : Nat) (damaged : Bool) (content : List Byte)
  | overlay (sheet : Nat) (marks : List Mark)
  | bundleEnd (sheet shown matching late damaged : Nat) (code : Completion)
  | markUpdate (kind : ChangeKind) (removal : Bool) (mark : Mark)
  | listItem (status : ListStatus) (mark : Mark)
  | stationItem (station : Nat) (status : ListStatus) (silence : Nat) (overflow : Bool)
      (conditions : Option ConditionSet) (revision : Option Nat) (counts : List Nat)
  | listEnd (stations : Bool) (shown total : Nat) (replaced : Bool)
  | noticePending
  | resume
  deriving DecidableEq, Repr

/-! ## Bundle Engine (chapter 8) -/

/-- The bundle states (R137). -/
inductive BundleState where
  | idle | lookup | stream | overlay | closing
  deriving DecidableEq, Repr

/-- The sheet handle as a bundle holds it (R137, R139). -/
structure Handle where
  firstBlock : Nat
  blockCount : Nat
  floor : Nat
  absent : Bool
  deriving DecidableEq, Repr

/-- A received block in the block buffer (R137). -/
structure BufferedBlock where
  index : Nat
  damaged : Bool
  content : List Byte
  deriving DecidableEq, Repr

/-- How far the BUNDLE HEAD has come (R139, R142). -/
inductive HeadState where
  | owed | waiting | placed
  deriving DecidableEq, Repr

/-- The bundle of one channel (R137). -/
structure Bundle where
  state : BundleState
  sheet : Option Nat
  handle : Option Handle
  urgent : Bool
  readCursor : Nat
  blockCursor : Nat
  outstanding : Nat
  buffer : List BufferedBlock
  pendingMsg : Option Message
  /-- MODEL: how far the BUNDLE HEAD has come. -/
  head : HeadState
  snapshot : List Mark
  matching : Nat
  overlayCursor : Nat
  late : List Address
  damagedCount : Nat
  pendingSheet : Option Nat
  deriving DecidableEq, Repr

/-! ## Crew Channel Unit (chapter 9) -/

/-- The roles (R155). -/
inductive Role where
  | command | search | supply | view
  deriving DecidableEq, Repr

/-- What an ATTACHED channel has: its role and its crew id (R155). -/
structure Attachment where
  role : Role
  crew : Nat
  deriving DecidableEq, Repr

/-- The modes of a watch with the fields each uses (R159). -/
inductive WatchMode where
  | point (addr : Address)
  | floor (floor : Nat)
  | floorBand (floor : Nat)
  | compartment (floor compartment : Nat)
  deriving DecidableEq, Repr

/-- A watch (R159). -/
structure Watch where
  mode : WatchMode
  rankMin : Nat
  deriving DecidableEq, Repr

/-- What a list in progress has still to place (R165, R166): the items of a LIST, composed when it was
taken, or the station numbers of a STATIONS, composed when they are placed. -/
inductive ListBody where
  | items (l : List Message)
  | stations (next high : Nat)
  deriving DecidableEq, Repr

/-- A LIST or STATIONS in progress (R165, R166). -/
structure ListProgress where
  body : ListBody
  shown : Nat
  total : Nat
  deriving DecidableEq, Repr

/-- The state of one crew channel (R155). -/
structure Channel where
  attached : Option Attachment
  currentSheet : Option Nat
  watch0 : Option Watch
  watch1 : Option Watch
  notices : NoticeSet
  noticePending : Bool
  pendingAnswer : Option Message
  queue : List Message
  condensed : Bool
  list : Option ListProgress
  /-- MODEL: the LIST ENDs of replaced lists that have not been placed (R166, log 20). -/
  listEnds : List Message
  deriving DecidableEq, Repr

/-- Four like things, one for each crew channel. -/
structure Four (α : Type) where
  c0 : α
  c1 : α
  c2 : α
  c3 : α
  deriving DecidableEq, Repr

/-- The Crew Channel Unit (R155). -/
structure CrewUnit where
  channels : Four Channel
  linkTimer : Nat
  lastServed : Fin 4
  /-- The message the link transmitter is sending, with its channel, as the bytes on the link (R154, R185). -/
  sending : Option (Fin 4 × List Byte)
  /-- MODEL: received bytes, from an opening byte on, that the hunt still holds (R186, log 16). -/
  receiver : List Byte
  badCheck : Nat
  stray : Nat
  busy : Nat
  notifyVector : Word16
  deriving DecidableEq, Repr

/-! ## The whole machine -/

/-- MODEL: which checks of the last tick are not yet made (log 2). `silence` names the origins that the
tick found past their silence limit (R67). -/
structure TickDue where
  silence : List Nat
  hold : Bool
  recovery : Bool
  incidentHold : Bool
  stuck : Bool
  linkLoss : Bool
  deriving DecidableEq, Repr

/-- The state of the part, block by block, and the queue of the commands that wait. -/
structure State where
  control : StationControl
  scanner : Scanner
  table : PictureTable
  merge : MergeUnit
  riser : RiserLine
  pub : Publisher
  incident : IncidentMonitor
  store : PlanStore
  bundles : Four Bundle
  crew : CrewUnit
  due : TickDue
  pending : List Instr
  deriving DecidableEq, Repr

/-- No event of the spec stops the part, so no meaning answers with a fault. -/
inductive Fault where
  deriving DecidableEq, Repr

/-- The one refusal is that of an arm without a meaning. -/
inductive Refusal where
  /-- Raised by `exec` for a command that has no meaning yet. Safe: the model stops where the part goes on. -/
  | notModelled (mnemonic : String)
  deriving DecidableEq, Repr

/-! ## The values after a cold start -/

/-- The unknown location (R1, R176). -/
def Location.unknown : Location := ⟨127, 0⟩

/-- The default configuration of a channel (R1, R176). -/
def ChannelConfig.default : ChannelConfig :=
  { kind := .detector, latched := false, invert := false, loc := .unknown, place := none }

/-- The default threshold set (R176). -/
def Thresholds.default : Thresholds := ⟨8, 96, 160⟩

/-- The built-in default configuration of the scanner (R1, R176). -/
def ScanConfig.default : ScanConfig :=
  { channels := List.replicate 64 ChannelConfig.default
    detector := .default, callpoint := .default, flow := .default, supervisory := .default
    prealarmConfirm := 3, alarmConfirm := 3, faultConfirm := 3, releaseCount := 3
    levelDivider := 8, levelStep := 16 }

/-- A channel after either reset; point 0 alone starts in FAULT (R5, R14). -/
def ScanChannel.reset (state : ScanState) : ScanChannel :=
  { state := state, candidate := none, counter := 0, armed := false, lastLevel := 0 }

/-- The Point Scanner after either reset (R5, R16). -/
def Scanner.reset : Scanner :=
  { cfg := .default
    channels := ScanChannel.reset .fault :: List.replicate 63 (ScanChannel.reset .normal)
    divider := 1 }

/-- An origin record after a cold start (R44). -/
def OriginRecord.cold : OriginRecord :=
  { status := .unknown, held := none, interval := 64, silence := 0, overflow := false,
    revision := none, conditions := none, resync := .none }

/-- The own entry of point 0 that every reset writes (R16). -/
def Entry.supplyFault (station tick : Nat) : Entry :=
  { addr := ⟨station, 0⟩, state := .fault, datum := .level 0, place := none, loc := .unknown,
    localSince := tick, learned := tick, confirmed := true, sweep := false }

/-- The Picture Table after a cold start, with the point-0 entry (R44, R46, R16). -/
def PictureTable.cold (station : Nat) : PictureTable :=
  { entries := [Entry.supplyFault station 0]
    origins := List.replicate 250 OriginRecord.cold
    recovery := none
    clearHold := Config.defaultClearHold }

/-- The Merge Unit after either reset (R48). -/
def MergeUnit.reset : MergeUnit :=
  { queue := [], overrun := 0, rejected := 0, repeats := 0, old := 0 }

/-- The Riser Line Interface after either reset (R71), its random source seeded (R75, R174). -/
def RiserLine.reset (station tick : Nat) : RiserLine :=
  { tx := .empty, quiet := false, quietSeen := false, stuckTimer := 0, rx := .idle,
    collisionTotal := 0, giveUps := 0, checkErrors := 0, lengthErrors := 0, stuckCount := 0,
    seedStation := station, seedTick := tick, draws := 0 }

/-- The Publisher after either reset (R86). -/
def Publisher.reset : Publisher :=
  { change := [], level := [], copies := List.replicate 16 none, seq := 0,
    summaryCounter := Config.summaryInterval Config.defaultSeed, summaryDue := false,
    fullsetDue := true, startPending := true, cursor := none, frameStart := none,
    seed := Config.defaultSeed, copiesInFlight := [] }

/-- The Incident Monitor after a cold start (R107). -/
def IncidentMonitor.cold : IncidentMonitor :=
  { active := false, alarmCount := 0, origin := none, vertical := false, lateral := false,
    hold := none, incidentHold := Config.defaultIncidentHold,
    spreadFloors := Config.defaultSpreadFloors, groups := List.replicate 16 0 }

/-- The Plan Store Controller after either reset (R131). -/
def PlanStore.reset : PlanStore :=
  { layout := none, mainQueue := [], promoteQueue := [], engine := .idle,
    rereads := 0, damaged := 0, absent := 0 }

/-- A bundle after either reset (R137). -/
def Bundle.reset : Bundle :=
  { state := .idle, sheet := none, handle := none, urgent := false, readCursor := 0,
    blockCursor := 0, outstanding := 0, buffer := [], pendingMsg := none, head := .owed,
    snapshot := [], matching := 0, overlayCursor := 0, late := [], damagedCount := 0,
    pendingSheet := none }

/-- A crew channel after either reset (R155). -/
def Channel.reset : Channel :=
  { attached := none, currentSheet := none, watch0 := none, watch1 := none, notices := 0,
    noticePending := false, pendingAnswer := none, queue := [], condensed := false,
    list := none, listEnds := [] }

/-- The same value for each of the four channels. -/
def Four.all {α : Type} (a : α) : Four α := ⟨a, a, a, a⟩

/-- The Crew Channel Unit after either reset (R152 to R155). -/
def CrewUnit.reset : CrewUnit :=
  { channels := .all .reset, linkTimer := 0, lastServed := 3, sending := none, receiver := [],
    badCheck := 0, stray := 0, busy := 0, notifyVector := 0xFFFF }

/-- No check of a tick is due. -/
def TickDue.none : TickDue :=
  { silence := [], hold := false, recovery := false, incidentHold := false, stuck := false, linkLoss := false }

/-- The loader's request for block 0 (R125, R174). -/
def ReadRequest.header : ReadRequest :=
  { who := .loader, what := .block, block := 0, demand := true, urgent := false }

/-- The straps that `State.reset` is taken under (log 6): DESIGN CHOICE, the spec samples them. -/
def resetStraps : Straps := { station := 1, banksLessOne := 0, bankSize := .mb2 }

/-- The machine right after the COLD_START step (R173, R174): every register at its cold-start value,
the point-0 entry written with SUPPLY set (R16, R178), and the load sequence begun, with the read of
block 0 in its first transfer. -/
def State.reset : State :=
  { control :=
      { straps := resetStraps, running := false, step := .header, defaultsInUse := false,
        revision := none, loadedRecord := none, loadedDirectory := [], conditions := 1,
        tick := 0, resetHeld := false }
    scanner := .reset
    table := .cold 1
    merge := .reset
    riser := .reset 1 0
    pub := .reset
    incident := .cold
    store := { PlanStore.reset with engine := .first .header false }
    bundles := .all .reset
    crew := .reset
    due := .none
    pending := [] }

end Sys2Proof.Machine
end

