-- ==== Sys2Proof/Machine/Formats.lean ====
section
/-!
DEFINITION. The byte layouts of the Formats chapter: the check word, riser frames and records, crew
port messages, and the records of the plan image.
-/
namespace Sys2Proof.Machine

/-! ## Byte order (R179) -/

/-- A number as one byte. -/
def byte (n : Nat) : Byte := BitVec.ofNat 8 n

/-- A two-byte field, high byte first (R179). -/
def be16 (n : Nat) : List Byte := [byte (n / 256), byte n]

/-- The value of a two-byte field (R179). -/
def ofBe16 (hi lo : Byte) : Nat := hi.toNat * 256 + lo.toNat

/-- Byte `i` of a run of bytes, as a number. -/
def byteAt (l : List Byte) (i : Nat) : Nat := (l.getD i 0).toNat

/-- The two-byte field at byte `i` (R179). -/
def fieldAt (l : List Byte) (i : Nat) : Nat := byteAt l i * 256 + byteAt l (i + 1)

/-- The four-byte field at byte `i` (R179). -/
def longAt (l : List Byte) (i : Nat) : Nat := fieldAt l i * 65536 + fieldAt l (i + 2)

/-! ## The check word (R180) -/

/-- One of the eight steps that each byte takes (R180). -/
def checkStep (r : Word16) : Word16 := (r <<< 1) ^^^ (if r.getLsbD 15 then 0x1021#16 else 0#16)

/-- The register after one byte (R180). -/
def checkByte (r : Word16) (b : Byte) : Word16 :=
  checkStep (checkStep (checkStep (checkStep (checkStep (checkStep (checkStep (checkStep
    (r ^^^ (b.zeroExtend 16 <<< 8)))))))))

/-- The register after a run of bytes, from a given register (R180). -/
def checkFrom : List Byte → Word16 → Word16
  | [], r => r
  | b :: l, r => checkFrom l (checkByte r b)

/-- The check word over a run of bytes (R180). -/
def checkWord (l : List Byte) : Word16 := checkFrom l 0xFFFF

/-- A run of bytes with its check word after it, high byte first (R179, R180). -/
def withCheck (l : List Byte) : List Byte := l ++ be16 (checkWord l).toNat

/-- The last two bytes are the check word of the bytes before them (R80, R180). -/
def checkHolds (l : List Byte) : Bool :=
  (checkWord (l.take (l.length - 2))).toNat == fieldAt l (l.length - 2)

/-! ## Code tables -/

/-- The rank of a state (R20). The state codes of records equal the ranks (R183). -/
def PointState.rank : PointState → Nat
  | .cleared => 0
  | .isolated => 1
  | .fault => 2
  | .searched => 3
  | .prealarm => 4
  | .crewPresent => 5
  | .hazard => 6
  | .alarm => 7

/-- The class of a state (R20). -/
def PointState.classCode : PointState → Nat
  | .alarm => 0
  | .prealarm => 0
  | .hazard => 1
  | .crewPresent => 1
  | .searched => 1
  | .fault => 2
  | .isolated => 2
  | .cleared => 3

/-- The state that a three-bit code names (R183). -/
def PointState.ofCode (n : Nat) : PointState :=
  match n % 8 with
  | 0 => .cleared
  | 1 => .isolated
  | 2 => .fault
  | 3 => .searched
  | 4 => .prealarm
  | 5 => .crewPresent
  | 6 => .hazard
  | _ => .alarm

/-- The state is one a loop point may have (R18, R19). -/
def PointState.suitsLoop : PointState → Bool
  | .prealarm | .alarm | .fault | .isolated | .cleared => true
  | .searched | .crewPresent | .hazard => false

/-- The state is one a marker may have (R18, R19). -/
def PointState.suitsMarker : PointState → Bool
  | .searched | .crewPresent | .hazard | .cleared => true
  | .prealarm | .alarm | .fault | .isolated => false

/-- The bit of a condition (R182). -/
def Condition.bit : Condition → Nat
  | .supply => 0
  | .line => 1
  | .plan => 2
  | .config => 3
  | .duplicate => 4

/-- The bit of a notice (R186). -/
def Notice.bit : Notice → Nat
  | .spreadVertical => 0
  | .spreadLateral => 1
  | .originMoved => 2
  | .originSilent => 3
  | .pictureChanged => 4
  | .sheetStale => 5
  | .revisionMismatch => 6
  | .stationFault => 7

/-- The code of a role (R186). -/
def Role.code : Role → Nat
  | .command => 0
  | .search => 1
  | .supply => 2
  | .view => 3

/-- The role a code names (R157, R186). -/
def Role.ofCode : Nat → Option Role
  | 0 => some .command
  | 1 => some .search
  | 2 => some .supply
  | 3 => some .view
  | _ => none

/-- The code of an answer's status (R186). -/
def Status.code : Status → Nat
  | .ok => 0
  | .starting => 1
  | .badRequest => 2
  | .notAttached => 3
  | .already => 4
  | .badRole => 5
  | .notPermitted => 6
  | .markersFull => 7
  | .notOwn => 8
  | .badPoint => 9
  | .notLatched => 10

/-- The code of a change kind (R186). -/
def ChangeKind.code : ChangeKind → Nat
  | .admission => 0
  | .state => 1
  | .level => 2
  | .confirm => 3
  | .unconfirm => 4
  | .remove => 5
  | .evict => 6
  | .late => 7

/-- The code of a completion (R186). -/
def Completion.code : Completion → Nat
  | .complete => 0
  | .absent => 1
  | .aborted => 2

/-- The code of an origin status in a list (R186). -/
def ListStatus.code : ListStatus → Nat
  | .origin .unknown => 0
  | .origin .live => 1
  | .origin .gapped => 2
  | .origin .resyncing => 3
  | .origin .silent => 4
  | .own => 5

/-- The kind code of a frame (R181). -/
def FrameKind.code : FrameKind → Nat
  | .state => 1
  | .fullset => 2
  | .summary => 3
  | .resync => 4

/-- The frame kind a code names; a code other than 1 to 4 is not a kind (R182). -/
def FrameKind.ofCode : Nat → Option FrameKind
  | 1 => some .state
  | 2 => some .fullset
  | 3 => some .summary
  | 4 => some .resync
  | _ => none

/-- The kind code of a record (R183). -/
def RecordKind.code : RecordKind → Nat
  | .point => 1
  | .marker => 2
  | .level => 3

/-- The request type codes of the hub's messages (R186). -/
def typeIdle : Nat := 0
def typeAttach : Nat := 1
def typeDetach : Nat := 2
def typeSheet : Nat := 3
def typeWatch : Nat := 4
def typeUnwatch : Nat := 5
def typeMark : Nat := 6
def typeUnmark : Nat := 7
def typeIsolate : Nat := 8
def typeDeisolate : Nat := 9
def typeRestore : Nat := 10
def typeList : Nat := 11
def typeStations : Nat := 12
def typeCollect : Nat := 13

/-- A type code is one of the hub's types, IDLE to COLLECT (R186). -/
def isHubType (t : Nat) : Bool := decide (t ≤ typeCollect)

/-- The number of a datum: its level or its crew id. -/
def Datum.value : Datum → Nat
  | .level v => v
  | .crew v => v

/-- The sheet number of a place; 1023 stands for NONE (R179). -/
def sheetField : Option Place → Nat
  | some p => p.sheet
  | none => 1023

/-- x of a place, sent as 0 when the sheet is NONE (R179). -/
def xField : Option Place → Nat
  | some p => p.x
  | none => 0

/-- y of a place, sent as 0 when the sheet is NONE (R179). -/
def yField : Option Place → Nat
  | some p => p.y
  | none => 0

/-- The sheet of a place as a number, or nothing for NONE. -/
def sheetOf (p : Option Place) : Option Nat := p.map Place.sheet

/-- 1 for set, 0 for clear. -/
def bit (b : Bool) : Nat := if b then 1 else 0

/-! ## Riser frames (R181, R182) and records (R183, R184) -/

/-- The 14 bytes of a record (R183). -/
def encodeRecord (r : Record) : List Byte :=
  match r.kind with
  | .level =>
    [byte 48, byte r.index, 0, byte r.value, 0, 0, 0, 0, 0, 0, 0, 0, 0, 0]
  | .point =>
    [byte (16 + r.state.rank), byte r.index, 0, byte r.value] ++ be16 (sheetField r.place)
      ++ be16 (xField r.place) ++ be16 (yField r.place)
      ++ [byte r.loc.floor, byte r.loc.compartment] ++ be16 r.age
  | .marker =>
    [byte (32 + r.state.rank), byte r.index] ++ be16 r.value ++ be16 (sheetField r.place)
      ++ be16 (xField r.place) ++ be16 (yField r.place)
      ++ [byte r.loc.floor, byte r.loc.compartment] ++ be16 r.age

/-- The place that sheet, x and y fields give; nothing for the sheet NONE, whose x and y are not read
(R179). -/
def placeOfFields (sheet x y : Nat) : Option Place :=
  if sheet = 1023 then none else some ⟨sheet, x, y⟩

/-- The sheet, position and location fields of a record are in range (R184). -/
def fieldsInRange (sheet x y floor compartment : Nat) : Bool :=
  decide (sheet ≤ 1023 ∧ floor ≤ 127 ∧ compartment ≤ 15 ∧
    (sheet = 1023 ∨ (x ≤ 4095 ∧ y ≤ 4095)))

/-- The record that 14 bytes carry, or none where R19 or R184 refuses it. -/
def decodeRecord (b : List Byte) : Option Record :=
  let index := byteAt b 1
  let state := PointState.ofCode (byteAt b 0)
  let place := placeOfFields (fieldAt b 4) (fieldAt b 6) (fieldAt b 8)
  let loc : Location := ⟨byteAt b 10, byteAt b 11⟩
  let ok := fieldsInRange (fieldAt b 4) (fieldAt b 6) (fieldAt b 8) (byteAt b 10) (byteAt b 11)
  match byteAt b 0 / 16 with
  | 1 =>
    if decide (index ≤ 63) && state.suitsLoop && ok then
      some ⟨.point, index, state, byteAt b 3, place, loc, fieldAt b 12⟩
    else none
  | 2 =>
    if decide (64 ≤ index ∧ index ≤ 79) && state.suitsMarker && ok
        && decide (1 ≤ fieldAt b 2 ∧ fieldAt b 2 ≤ 4095) then
      some ⟨.marker, index, state, fieldAt b 2, place, loc, fieldAt b 12⟩
    else none
  | 3 =>
    if decide (index ≤ 63) then some ⟨.level, index, .cleared, byteAt b 3, none, ⟨0, 0⟩, 0⟩
    else none
  | _ => none

/-- The first `n` runs of 14 bytes of a body. -/
def recordChunks : Nat → List Byte → List (List Byte)
  | 0, _ => []
  | n + 1, l => l.take 14 :: recordChunks n (l.drop 14)

/-- The body's bytes of a frame (R181 to R183). -/
def encodeBody : FrameBody → List Byte
  | .records l => (l.map encodeRecord).flatten
  | .summary active revision conditions =>
    [byte active, byte (bit revision.isSome)] ++ be16 (revision.getD 0) ++ [conditions]
  | .names l => l.map byte

/-- The count of the header: records, or names for RESYNC; a SUMMARY is built with no records (R181). -/
def bodyCount : FrameBody → Nat
  | .records l => l.length
  | .summary _ _ _ => 0
  | .names l => l.length

/-- The header's bytes (R181). -/
def encodeHeader (f : TxFrame) : List Byte :=
  [byte (f.kind.code * 16 + bit f.first * 4 + bit f.last * 2 + bit f.start), byte f.station]
    ++ be16 f.seq ++ [byte f.seed, byte (bodyCount f.body)]

/-- A frame's bytes on the line, check word included (R181, R180). -/
def encodeFrame (f : TxFrame) : List Byte := withCheck (encodeHeader f ++ encodeBody f.body)

/-- The length a frame must have, from its kind and its count (R182). -/
def requiredLength (k : FrameKind) (n : Nat) : Nat :=
  match k with
  | .state => 6 + 14 * n + 2
  | .fullset => 6 + 14 * n + 2
  | .summary => 6 + 5 + 14 * n + 2
  | .resync => 6 + n + 2

/-- The frame that a run of bytes with a good check carries, or none where its kind is no kind or its
length disagrees with its count (R80 case 3, R181, R182). -/
def parseFrame (b : List Byte) : Option RxFrame :=
  match FrameKind.ofCode (byteAt b 0 / 16) with
  | none => none
  | some k =>
    if b.length = requiredLength k (byteAt b 5) then
      some { kind := k
             first := (b.getD 0 0).getLsbD 2
             last := (b.getD 0 0).getLsbD 1
             start := (b.getD 0 0).getLsbD 0
             station := byteAt b 1
             seq := fieldAt b 2 % 4096
             seed := byteAt b 4
             count := byteAt b 5
             body := (b.drop 6).take (b.length - 8) }
    else none

/-- A run of records holds one whose kind is LEVEL (R52). -/
def hasLevelRecord (f : RxFrame) : Bool :=
  (recordChunks f.count f.body).any fun c => byteAt c 0 / 16 == 3

/-! ## Crew port messages (R185, R186) -/

/-- The 14 bytes of a mark (R186). -/
def encodeMark (m : Mark) : List Byte :=
  [byte m.addr.station, byte m.addr.index, byte m.state.rank] ++ be16 m.datum.value
    ++ be16 (xField m.place) ++ be16 (yField m.place)
    ++ [byte m.loc.floor, byte m.loc.compartment, byte (bit m.confirmed)] ++ be16 m.age

/-- The type code of a message of the part (R186). -/
def Message.type : Message → Nat
  | .answer .. => 64
  | .bundleHead .. => 65
  | .block .. => 66
  | .overlay .. => 67
  | .bundleEnd .. => 68
  | .markUpdate .. => 69
  | .listItem .. => 70
  | .stationItem .. => 71
  | .listEnd .. => 72
  | .noticePending => 73
  | .resume => 74

/-- A late mark for an address that is not held: every field but the address, the kind and the removal
flag is sent as 0, the sheet among them (R186). -/
def zeroMark (a : Address) : Mark :=
  { addr := a, state := .cleared, datum := .level 0, place := some ⟨0, 0, 0⟩, loc := ⟨0, 0⟩,
    confirmed := false, age := 0 }

/-- The field bytes of a message (R186). -/
def Message.fields : Message → List Byte
  | .answer request status extra => [byte request, byte status.code, byte extra]
  | .bundleHead sheet floor count revision absent urgent =>
    be16 sheet ++ [byte floor] ++ be16 count ++ be16 (revision.getD 0)
      ++ [byte (bit absent + 2 * bit urgent + 4 * bit revision.isSome)]
  | .block index damaged content => be16 index ++ [byte (bit damaged)] ++ content
  | .overlay sheet marks =>
    be16 sheet ++ [byte marks.length] ++ (marks.map encodeMark).flatten
  | .bundleEnd sheet shown matching late damaged code =>
    be16 sheet ++ [byte shown] ++ be16 matching ++ [byte late] ++ be16 damaged ++ [byte code.code]
  | .markUpdate kind removal mark =>
    [byte kind.code] ++ be16 (sheetField mark.place) ++ [byte (bit removal)] ++ encodeMark mark
  | .listItem status mark => be16 (sheetField mark.place) ++ [byte status.code] ++ encodeMark mark
  | .stationItem station status silence overflow conditions revision counts =>
    [byte station, byte status.code] ++ be16 silence
      ++ [byte (bit overflow + 2 * bit conditions.isSome + 4 * bit revision.isSome),
          conditions.getD 0]
      ++ be16 (revision.getD 0) ++ (counts.map be16).flatten
  | .listEnd stations shown total replaced =>
    [byte (bit stations), byte shown] ++ be16 total ++ [byte (bit replaced)]
  | .noticePending => []
  | .resume => []

/-- A message's bytes on the link for a channel: the opening byte, the length, the channel, the type,
the fields and the check word, which leaves the opening byte out (R180, R185). -/
def encodeMessage (ch : Fin 4) (m : Message) : List Byte :=
  0xA5 :: withCheck (be16 (m.fields.length + 2) ++ [byte ch.val, byte m.type] ++ m.fields)

/-! ## The crew port receiver (R185, R186) -/

/-- A message of the hub as bytes on the link (R185). -/
def messageBytes (channel type : Byte) (fields : List Byte) : List Byte :=
  0xA5 :: withCheck (be16 (fields.length + 2) ++ [channel, type] ++ fields)

/-- What the receiver finds in the bytes that arrive (R152, R186): a message that fails its check, a length
below 2 or above 259, or a message whose check holds. -/
inductive LinkEvent where
  | badCheck
  | badLength
  | message (channel type : Byte) (fields : List Byte)
  deriving DecidableEq, Repr

/-- The length L of a message, read behind its opening byte (R185, R186). -/
def lengthField (rest : List Byte) : Nat := fieldAt rest 0

/-- The length is one at which the message is discarded at once (R186). -/
def lengthOutOfRange (len : Nat) : Bool := decide (len < 2 ∨ 259 < len)

/-- The first `n` bytes behind an opening byte, its length, content and check bytes, read as a message that
ends there (R185). -/
def endedMessage (n : Nat) (rest : List Byte) : LinkEvent :=
  if checkHolds (rest.take n) then
    .message (rest.getD 2 0) (rest.getD 3 0) ((rest.take (n - 2)).drop 4)
  else .badCheck

/-- A thing found before the others that the receiver finds. -/
def LinkEvent.before (e : LinkEvent) : List LinkEvent × List Byte → List LinkEvent × List Byte
  | (es, left) => (e :: es, left)

/-- Where hunting goes on after a message that ends with the `n`-th of the bytes behind its opening byte: behind
it where its check holds, and at the byte after its opening byte otherwise (R186). -/
def LinkEvent.huntFrom (e : LinkEvent) (n : Nat) (rest : List Byte) : List Byte :=
  match e with
  | .message _ _ _ => rest.drop n
  | .badCheck => rest
  | .badLength => rest

/-- The receiver's reading of the bytes it holds (R186): it hunts for the opening byte, ends a message at its
last check byte, and hunts again behind a message whose check holds and at the byte after the opening byte
of any other. The answer is what it finds, in order, with the bytes of the message not yet ended. `fuel`
bounds the bytes read. -/
def readLink : Nat → List Byte → List LinkEvent × List Byte
  | 0, l => ([], l)
  | _ + 1, [] => ([], [])
  | fuel + 1, b :: rest =>
    if b ≠ 0xA5 then readLink fuel rest
    else if rest.length < 2 then ([], b :: rest)
    else if lengthOutOfRange (lengthField rest) then LinkEvent.badLength.before (readLink fuel rest)
    else
      let n := lengthField rest + 4
      if rest.length < n then ([], b :: rest)
      else (endedMessage n rest).before (readLink fuel ((endedMessage n rest).huntFrom n rest))

/-- The receiver's reading of a run of bytes (R186). -/
def linkEvents (l : List Byte) : List LinkEvent × List Byte := readLink l.length l

/-- The first thing that the receiver finds in a run of bytes. -/
def firstLinkEvent (l : List Byte) : Option LinkEvent := (linkEvents l).1.head?

/-! ## The plan image (R187, R188) -/

/-- A block of the store is intact: its check word covers content bytes 0 to 253 (R124, R180). -/
def blockIntact (b : BlockBytes) : Bool := checkHolds b.val

/-- The 254 content bytes of a block (R124). -/
def blockContent (b : BlockBytes) : List Byte := b.val.take 254

/-- The block carries the image mark (R187). -/
def hasImageMark (c : List Byte) : Bool := c.take 4 == [0x5A, 0x3C, 0xA5, 0xC3]

/-- The layout that a good header carries, its values taken as R188 and R132 give. -/
def layoutOf (c : List Byte) : Layout :=
  { configStart := longAt c 8 % Config.storeBlocks
    dirStart := longAt c 12 % Config.storeBlocks
    handleStart := longAt c 16 % Config.storeBlocks
    sheetCount := if fieldAt c 6 > 1023 then 1023 else fieldAt c 6 }

/-- The plan revision of a header (R187). -/
def revisionOf (c : List Byte) : Nat := fieldAt c 4

/-- The kind a channel byte carries; codes 5 to 7 are taken as UNUSED (R187, R188). -/
def kindOfCode (n : Nat) : ChannelKind :=
  match n % 8 with
  | 1 => .detector
  | 2 => .callpoint
  | 3 => .flow
  | 4 => .supervisory
  | _ => .unused

/-- A point directory entry's location and place, out of range values taken as R188 gives. -/
def directoryEntryOf (b : List Byte) : Location × Option Place :=
  (⟨if byteAt b 0 > 127 then 127 else byteAt b 0, byteAt b 1 % 16⟩,
   if fieldAt b 2 > 1022 then none
   else some ⟨fieldAt b 2, min (fieldAt b 4) 4095, min (fieldAt b 6) 4095⟩)

/-- The 8 bytes of slot `s` of a directory or handle block (R134). -/
def slotBytes (content : List Byte) (s : Nat) : List Byte := (content.drop (8 * s)).take 8

/-- The handle of an absent sheet (R139). R139 gives its block count, its floor and its flag; that its first
block is 0, whatever the entry carries, is a DESIGN CHOICE (log 33). No block of an absent sheet is read. -/
def Handle.ofAbsent : Handle := { firstBlock := 0, blockCount := 0, floor := 127, absent := true }

/-- The sheet handle that 8 bytes carry: absent when WITHDRAWN or when the block count is 0 or above
2048 (R139, R187, R188), with the first block of log 33. -/
def handleOf (b : List Byte) : Handle :=
  if (b.getD 7 0).getLsbD 0 || fieldAt b 4 == 0 || decide (fieldAt b 4 > 2048) then .ofAbsent
  else { firstBlock := longAt b 0 % Config.storeBlocks, blockCount := fieldAt b 4,
         floor := if byteAt b 6 > 127 then 127 else byteAt b 6, absent := false }

/-- A threshold set put in order (R2). -/
def orderThresholds (t : Thresholds) : Thresholds :=
  let alarm := if t.alarm > 254 then 254 else if t.alarm = 0 then 1 else t.alarm
  let pre := if t.pre > alarm then alarm else if t.pre = 0 then 1 else t.pre
  ⟨if t.faultLow ≥ pre then pre - 1 else t.faultLow, pre, alarm⟩

/-- A confirm count as taken (R2). Its range is 1 to 15: 0 is taken as 1, and what a count above 15 is
taken as is not stated, so it is a free value of the range (log 10). -/
def takeConfirm (n : Nat) : Nat :=
  if n = 0 then 1 else if n ≤ 15 then n else 1 + Config.confirmAbove n % 15

/-- LevelDivider as taken (R2). -/
def takeDivider (n : Nat) : Nat := if n = 0 then 1 else if n > 16 then 16 else n

/-- LevelStep as taken (R2). -/
def takeStep (n : Nat) : Nat := if n = 0 then 1 else n

/-- The threshold set at byte `i` of a configuration record, as taken (R2, R187). -/
def thresholdsAt (r : List Byte) (i : Nat) : Thresholds :=
  orderThresholds ⟨byteAt r i, byteAt r (i + 1), byteAt r (i + 2)⟩

/-- The configuration of channel `i` from the record and its directory entry; a damaged entry gives
the unknown location and the sheet NONE (R1, R134, R187). -/
def channelConfigOf (r : List Byte) (dir : List (Option (List Byte))) (i : Nat) : ChannelConfig :=
  let b := r.getD (1 + i) 0
  let where_ : Location × Option Place :=
    match dir.getD i none with
    | some e => directoryEntryOf e
    | none => (.unknown, none)
  { kind := kindOfCode b.toNat, latched := b.getLsbD 3, invert := b.getLsbD 4,
    loc := where_.1, place := where_.2 }

/-- The scanner's configuration copy from a loaded configuration (R1, R2, R187, R188). -/
def scanConfigOf (r : List Byte) (dir : List (Option (List Byte))) : ScanConfig :=
  { channels := (List.range 64).map (channelConfigOf r dir)
    detector := thresholdsAt r 65
    callpoint := thresholdsAt r 68
    flow := thresholdsAt r 71
    supervisory := thresholdsAt r 74
    prealarmConfirm := takeConfirm (byteAt r 77)
    alarmConfirm := takeConfirm (byteAt r 78)
    faultConfirm := takeConfirm (byteAt r 79)
    releaseCount := takeConfirm (byteAt r 80)
    levelDivider := takeDivider (byteAt r 81)
    levelStep := takeStep (byteAt r 82) }

end Sys2Proof.Machine
end

