-- ==== Sys2Proof/Machine/Ops.lean ====
section
/-!
DEFINITION. The named operations over the parts of the state: places of lists, the four channels, the
fields of the state block by block, the entries and origin records of the Picture Table, and the marks
of the Publisher.
-/
namespace Sys2Proof.Machine

/-! ## Lists and the four channels -/

/-- The list with its `n`-th member changed; unchanged where it has no such member. -/
def updAt {α : Type} : List α → Nat → (α → α) → List α
  | [], _, _ => []
  | a :: l, 0, f => f a :: l
  | a :: l, n + 1, f => a :: updAt l n f

/-- The thing that belongs to channel `ch`. -/
def Four.get {α : Type} (f : Four α) (ch : Fin 4) : α :=
  match ch with
  | 0 => f.c0
  | 1 => f.c1
  | 2 => f.c2
  | 3 => f.c3

/-- The four with that of channel `ch` replaced. -/
def Four.set {α : Type} (f : Four α) (ch : Fin 4) (a : α) : Four α :=
  match ch with
  | 0 => { f with c0 := a }
  | 1 => { f with c1 := a }
  | 2 => { f with c2 := a }
  | 3 => { f with c3 := a }

/-- An operation made for each channel in turn, 0 to 3. -/
def eachChannel {σ : Type} (f : Fin 4 → σ → σ) (s : σ) : σ := f 3 (f 2 (f 1 (f 0 s)))

/-! ## The state's blocks -/

def State.withControl (s : State) (v : StationControl) : State := { s with control := v }
def State.withScanner (s : State) (v : Scanner) : State := { s with scanner := v }
def State.withTable (s : State) (v : PictureTable) : State := { s with table := v }
def State.withMerge (s : State) (v : MergeUnit) : State := { s with merge := v }
def State.withRiser (s : State) (v : RiserLine) : State := { s with riser := v }
def State.withPub (s : State) (v : Publisher) : State := { s with pub := v }
def State.withIncident (s : State) (v : IncidentMonitor) : State := { s with incident := v }
def State.withStore (s : State) (v : PlanStore) : State := { s with store := v }
def State.withBundles (s : State) (v : Four Bundle) : State := { s with bundles := v }
def State.withCrew (s : State) (v : CrewUnit) : State := { s with crew := v }
def State.withDue (s : State) (v : TickDue) : State := { s with due := v }

/-- The crew channel `ch` (R155). -/
def State.channel (s : State) (ch : Fin 4) : Channel := s.crew.channels.get ch

/-- The state with crew channel `ch` replaced. -/
def State.setChannel (s : State) (ch : Fin 4) (c : Channel) : State :=
  s.withCrew { s.crew with channels := s.crew.channels.set ch c }

/-- The bundle of channel `ch` (R137). -/
def State.bundle (s : State) (ch : Fin 4) : Bundle := s.bundles.get ch

/-- The state with the bundle of channel `ch` replaced. -/
def State.setBundle (s : State) (ch : Fin 4) (b : Bundle) : State :=
  s.withBundles (s.bundles.set ch b)

/-- Now: the tick counter (0.5). -/
def State.now (s : State) : Nat := s.control.tick

/-- The station number sampled at the last reset (R172). -/
def State.own (s : State) : Nat := s.control.straps.station.toNat

/-- A station number from 1 to 250 (0.5). -/
def validStation (n : Nat) : Bool := decide (1 ≤ n ∧ n ≤ 250)

/-- The channel is ATTACHED (R155). -/
def State.isAttached (s : State) (ch : Fin 4) : Bool := (s.channel ch).attached.isSome

/-! ## Point addresses and entries -/

/-- The order of point addresses: station first, then index (0.5). -/
def Address.before (a b : Address) : Bool :=
  decide (a.station < b.station ∨ (a.station = b.station ∧ a.index < b.index))

/-- The loop indices (0.5). -/
def isLoopIndex (i : Nat) : Bool := decide (i < 64)

/-- The entry is one of this station's own (R18, R23). -/
def State.ownEntry (s : State) (e : Entry) : Bool := e.addr.station == s.own

/-- The entries in the Picture Table. -/
def State.entries (s : State) : List Entry := s.table.entries

/-- The entry at an address, where one is held. -/
def State.entryAt (s : State) (a : Address) : Option Entry :=
  s.table.entries.find? (fun e => e.addr == a)

/-- The own entry of an index. -/
def State.ownAt (s : State) (i : Nat) : Option Entry := s.entryAt ⟨s.own, i⟩

/-- The list with an entry placed at its address, replacing the one held there (R17). -/
def putEntry (e : Entry) : List Entry → List Entry
  | [] => [e]
  | x :: l =>
    if e.addr = x.addr then e :: l
    else if e.addr.before x.addr then e :: x :: l
    else x :: putEntry e l

/-- The list without the entry of an address. -/
def dropEntry (a : Address) (l : List Entry) : List Entry := l.filter (fun e => !(e.addr == a))

/-- The table with other entries. -/
def State.setEntries (s : State) (l : List Entry) : State :=
  s.withTable { s.table with entries := l }

/-- An entry written at its address, nothing announced. -/
def State.putEntry (s : State) (e : Entry) : State :=
  s.setEntries (Machine.putEntry e s.table.entries)

/-- The entry of an address taken out, nothing announced. -/
def State.dropEntry (s : State) (a : Address) : State :=
  s.setEntries (Machine.dropEntry a s.table.entries)

/-- The foreign entries (R17). -/
def State.foreign (s : State) : List Entry := s.entries.filter (fun e => !s.ownEntry e)

/-- The free entry count (R17). -/
def State.freeCount (s : State) : Nat := Config.poolPlaces - s.foreign.length

/-- The entries of one origin, in rising address. -/
def State.entriesOf (s : State) (x : Nat) : List Entry :=
  s.entries.filter (fun e => e.addr.station == x)

/-- The own active count (R45). -/
def State.ownActive (s : State) : Nat :=
  (s.entries.filter (fun e => s.ownEntry e && !(e.state == .cleared))).length

/-- The held count of an origin (R45). -/
def State.heldCount (s : State) (x : Nat) : Nat :=
  ((s.entriesOf x).filter (fun e => !(e.state == .cleared))).length

/-- The number of ALARM entries held (R107). -/
def State.alarmsHeld (s : State) : Nat :=
  (s.entries.filter (fun e => e.state == .alarm)).length

/-- now - local since, saturating at 65535 (R93, R143, R163, R165). -/
def State.ageOf (s : State) (e : Entry) : Nat := min (s.now - e.localSince) 65535

/-- The mark that describes an entry as it stands (R143, R147, R163, R165). -/
def State.markOf (s : State) (e : Entry) : Mark :=
  { addr := e.addr, state := e.state, datum := e.datum, place := e.place, loc := e.loc,
    confirmed := e.confirmed, age := s.ageOf e }

/-- Overlay order: rank highest first, then local since smallest first, then address lowest first
(R143, R165). -/
def overlayBefore (a b : Entry) : Bool :=
  decide (a.state.rank > b.state.rank ∨
    (a.state.rank = b.state.rank ∧
      (a.localSince < b.localSince ∨
        (a.localSince = b.localSince ∧ a.addr.before b.addr = true))))

/-- An entry put in its place of a list that stands in an order. -/
def insertBy (before : Entry → Entry → Bool) (e : Entry) : List Entry → List Entry
  | [] => [e]
  | x :: l => if before e x then e :: x :: l else x :: insertBy before e l

/-- A list of entries put in overlay order. -/
def overlayOrder : List Entry → List Entry
  | [] => []
  | e :: l => insertBy overlayBefore e (overlayOrder l)

/-- The first entry of a list in an order, where the list is not empty. -/
def firstBy (before : Entry → Entry → Bool) : List Entry → Option Entry
  | [] => none
  | e :: l =>
    match firstBy before l with
    | none => some e
    | some m => if before m e then some m else some e

/-! ## Origin records (R42) -/

/-- The origin record of a station; stations without a record read as never heard. -/
def State.origin (s : State) (x : Nat) : OriginRecord :=
  if x = 0 then .cold else s.table.origins.getD (x - 1) .cold

/-- An origin record changed; a number without a record changes nothing. -/
def State.modOrigin (s : State) (x : Nat) (f : OriginRecord → OriginRecord) : State :=
  if x = 0 then s
  else s.withTable { s.table with origins := updAt s.table.origins (x - 1) f }

/-- The numbers, counted from `n`, of the records of a list that pass a test. -/
def numbersWhere (p : OriginRecord → Bool) : Nat → List OriginRecord → List Nat
  | _, [] => []
  | n, o :: l => if p o then n :: numbersWhere p (n + 1) l else numbersWhere p (n + 1) l

/-- The stations whose origin records pass a test, in rising number (R42). -/
def State.stationsWhere (s : State) (p : OriginRecord → Bool) : List Nat :=
  numbersWhere p 1 s.table.origins

/-! ## The Publisher's marks (R86) -/

/-- A mark set in a set of own indices; one already set stays set (R87). -/
def setMark (i : Nat) : List Nat → List Nat
  | [] => [i]
  | x :: l => if i = x then x :: l else if i < x then i :: x :: l else x :: setMark i l

/-- A mark cleared. -/
def clearMark (i : Nat) (l : List Nat) : List Nat := l.filter (fun x => !(x == i))

/-- The change mark of an own index set (R87). -/
def State.setChange (s : State) (i : Nat) : State :=
  s.withPub { s.pub with change := setMark i s.pub.change }

/-- The level mark of a loop index set (R88). -/
def State.setLevelMark (s : State) (i : Nat) : State :=
  s.withPub { s.pub with level := setMark i s.pub.level }

/-- The clearing copy of a marker index (R89). -/
def Publisher.copyAt (p : Publisher) (i : Nat) : Option ClearingCopy :=
  if i < 64 then none else p.copies.getD (i - 64) none

/-- The clearing copy of a marker slot replaced or emptied; a frame in the slot no longer answers for
the copy that now stands (R89). -/
def State.setCopy (s : State) (i : Nat) (c : Option ClearingCopy) : State :=
  s.withPub { s.pub with copies := updAt s.pub.copies (i - 64) (fun _ => c)
                         copiesInFlight := clearMark i s.pub.copiesInFlight }

/-! ## The late set (R145) -/

/-- An address put in its place of a set that stands in rising order. -/
def insertAddress (a : Address) : List Address → List Address
  | [] => [a]
  | x :: l => if a = x then x :: l else if a.before x then a :: x :: l else x :: insertAddress a l

/-! ## The transmitter (R71) -/

/-- The transmitter state is EMPTY (R71). -/
def Transmitter.isEmpty : Transmitter → Bool
  | .empty => true
  | .waiting .. => false
  | .sending .. => false
  | .backoff .. => false

/-- The transmitter is SENDING (R71). -/
def Transmitter.isSending : Transmitter → Bool
  | .empty => false
  | .waiting .. => false
  | .sending .. => true
  | .backoff .. => false

/-- The frame in the slot (R71). -/
def Transmitter.frame : Transmitter → Option TxFrame
  | .empty => none
  | .waiting f _ => some f
  | .sending f _ => some f
  | .backoff f _ _ => some f

/-- The collision count of the frame in the slot, 0 when the slot is empty (R71). -/
def Transmitter.collisions : Transmitter → Nat
  | .empty => 0
  | .waiting _ c => c
  | .sending _ c => c
  | .backoff _ c _ => c

end Sys2Proof.Machine
end

