-- ==== Sys2Proof/Machine/Store.lean ====
section
/-!
DEFINITION. The Plan Store Controller (chapter 7): address decode, the two queues, the read in flight,
cancels, and where the records of the image lie.
-/
namespace Sys2Proof.Machine

/-! ## Geometry (R121 to R123) -/

/-- The bank size in blocks (R121). -/
def bankBlocks : BankSize → Nat
  | .mb2 => 8192
  | .mb4 => 16384
  | .mb8 => 32768
  | .mb16 => 65536

/-- The number of populated banks (R121). -/
def bankCount (st : Straps) : Nat := st.banksLessOne.val + 1

/-- A block number reduced to the address space (R122). -/
def reduceBlock (b : Nat) : Nat := b % Config.storeBlocks

/-- The bank of a block (R122). -/
def bankOf (st : Straps) (b : Nat) : Nat := reduceBlock b / bankBlocks st.bankSize % 4

/-- The block's place in its bank (R122). -/
def placeInBank (st : Straps) (b : Nat) : Nat := reduceBlock b % bankBlocks st.bankSize

/-- The block lies in a populated bank (R123). -/
def populated (st : Straps) (b : Nat) : Bool := decide (bankOf st b < bankCount st)

/-! ## Where records lie (R133, R134) -/

/-- The block of a station's configuration record (R133). -/
def configBlock (l : Layout) (station : Nat) : Nat := reduceBlock (l.configStart + (station - 1))

/-- The number of the first directory entry of a station (R134). -/
def firstDirEntry (station : Nat) : Nat := (station - 1) * 64

/-- The number of directory blocks that hold a station's entries: three, or four (R134). -/
def dirBlockCount (station : Nat) : Nat :=
  (firstDirEntry station + 63) / 31 - firstDirEntry station / 31 + 1

/-- The `k`-th directory block of a station (R134). -/
def dirBlock (l : Layout) (station k : Nat) : Nat :=
  reduceBlock (l.dirStart + (firstDirEntry station / 31 + k))

/-- The slots of the `k`-th directory block that hold a station's entries, in rising index (R134). -/
def dirSlots (station k : Nat) : List Nat :=
  (((List.range 64).map (· + firstDirEntry station)).filter
    (fun e => e / 31 == firstDirEntry station / 31 + k)).map (· % 31)

/-- The block of a sheet's handle (R134). -/
def handleBlock (l : Layout) (sheet : Nat) : Nat := reduceBlock (l.handleStart + sheet / 31)

/-- The slot of a sheet's handle in its block (R134). -/
def handleSlot (sheet : Nat) : Nat := sheet % 31

/-! ## What the controller hands on (R129, R130) -/

/-- What leaves the controller at the end of a read: the answer to its requester, or the end of an
orphaned read, reported without an answer. -/
inductive StoreReport where
  | answer (r : ReadRequest) (code : ReadCode) (data : List Byte)
  | orphanEnd (ch : Fin 4)
  deriving DecidableEq, Repr

/-- The bytes an answer carries: the content for BLOCK, the 8 bytes of the slot for HANDLE (R129). -/
def answerData (r : ReadRequest) (content : List Byte) : List Byte :=
  match r.what with
  | .block => content
  | .handle sheet => slotBytes content (handleSlot sheet)

/-- The answer to a completed read (R129). -/
def readAnswer (r : ReadRequest) (code : ReadCode) (content : List Byte) : StoreReport :=
  .answer r code (answerData r content)

/-- The report of a read that ends: the answer, or for an orphaned read its end alone (R129, R130). The
loader's reads are never orphaned. -/
def endReport (r : ReadRequest) (orphan : Bool) (code : ReadCode) (content : List Byte) : StoreReport :=
  match orphan, r.who with
  | true, .channel ch => .orphanEnd ch
  | _, _ => readAnswer r code content

/-! ## The read engine (R127) -/

/-- The engine is IDLE. -/
def ReadEngine.isIdle : ReadEngine → Bool
  | .idle => true
  | .first .. => false
  | .second .. => false

/-- The next request, from the promote queue first (R127), with the queues it leaves. -/
def PlanStore.pop (p : PlanStore) : Option (ReadRequest × PlanStore) :=
  match p.promoteQueue, p.mainQueue with
  | r :: l, _ => some (r, { p with promoteQueue := l })
  | [], r :: l => some (r, { p with mainQueue := l })
  | [], [] => none

/-- An IDLE engine takes requests until one starts a transfer or the queues are empty: a read of an
unpopulated bank completes ABSENT as soon as it is taken, and counts (R123, R127, R131). `fuel` is the
number of requests that may be taken. -/
def takeNext (st : Straps) : Nat → PlanStore → PlanStore × List StoreReport
  | 0, p => (p, [])
  | fuel + 1, p =>
    match p.pop with
    | none => (p, [])
    | some (r, q) =>
      if populated st r.block then ({ q with engine := .first r false }, [])
      else
        let rest := takeNext st fuel { q with absent := sat16 q.absent }
        (rest.1, .answer r .absent [] :: rest.2)

/-- The engine takes its next request if it is IDLE (R127). -/
def PlanStore.advance (p : PlanStore) (st : Straps) : PlanStore × List StoreReport :=
  if p.engine.isIdle then takeNext st (p.promoteQueue.length + p.mainQueue.length) p else (p, [])

/-- A promotable request enters the promote queue where it has room and overtakes nothing of its own
channel in the main queue; any other enters the main queue (R126). -/
def PlanStore.enter (p : PlanStore) (r : ReadRequest) : PlanStore :=
  if r.demand && r.urgent && decide (p.promoteQueue.length < 2)
      && !(p.mainQueue.any fun q => q.who == r.who) then
    { p with promoteQueue := p.promoteQueue ++ [r] }
  else { p with mainQueue := p.mainQueue ++ [r] }

/-- A request is offered to the controller (R126, R127). A HANDLE request is located first, and answered
ABSENT at once while the layout is absent or the sheet is at or above the sheet count (R134). -/
def PlanStore.request (p : PlanStore) (st : Straps) (r : ReadRequest) : PlanStore × List StoreReport :=
  match r.what, p.layout with
  | .handle _, none => (p, [.answer r .absent []])
  | .handle sheet, some l =>
    if l.sheetCount ≤ sheet then (p, [.answer r .absent []])
    else (p.enter { r with block := handleBlock l sheet }).advance st
  | .block, _ => (p.enter { r with block := reduceBlock r.block }).advance st

/-- A channel's reads cancelled: its queued requests are removed and its read in flight is orphaned
(R130). -/
def PlanStore.cancel (p : PlanStore) (ch : Fin 4) : PlanStore :=
  { p with
    mainQueue := p.mainQueue.filter (fun r => !(r.who == .channel ch))
    promoteQueue := p.promoteQueue.filter (fun r => !(r.who == .channel ch))
    engine :=
      match p.engine with
      | .idle => .idle
      | .first r o => .first r (o || r.who == .channel ch)
      | .second r o => .second r (o || r.who == .channel ch) }

/-- The number of a channel's requests that wait in the two queues (R130, R148). -/
def PlanStore.queuedFor (p : PlanStore) (ch : Fin 4) : Nat :=
  (p.mainQueue.filter (fun r => r.who == .channel ch)).length +
    (p.promoteQueue.filter (fun r => r.who == .channel ch)).length

/-- The end of a transfer: the read completes, is made once more, or ends as an orphan; then the engine
takes its next request (R127, R128, R130). No effect while no transfer is in progress (log 3). -/
def PlanStore.transferEnd (p : PlanStore) (st : Straps) (b : BlockBytes) :
    PlanStore × List StoreReport :=
  let finish (q : PlanStore) (rep : StoreReport) : PlanStore × List StoreReport :=
    let next := PlanStore.advance { q with engine := .idle } st
    (next.1, rep :: next.2)
  match p.engine with
  | .idle => (p, [])
  | .first r orphan =>
    if blockIntact b then finish p (endReport r orphan .intact (blockContent b))
    else if orphan then finish p (endReport r orphan .damaged (blockContent b))
    else ({ p with engine := .second r orphan, rereads := sat16 p.rereads }, [])
  | .second r orphan =>
    if blockIntact b then finish p (endReport r orphan .intact (blockContent b))
    else finish { p with damaged := sat16 p.damaged } (endReport r orphan .damaged (blockContent b))

end Sys2Proof.Machine
end

