-- ==== Sys2Proof/Machine/Flags.lean ====
section
/-!
DEFINITION. The flags the part raises: the condensed flag of an outbound queue (R171), the notices of
a channel (R167, R168), and the station conditions (R178).
-/
namespace Sys2Proof.Machine

/-- The set with bit `n` set. -/
def setBit (v : BitVec 8) (n : Nat) : BitVec 8 := v ||| BitVec.twoPow 8 n

/-- The set with bit `n` cleared. -/
def clearBit (v : BitVec 8) (n : Nat) : BitVec 8 := v &&& ~~~(BitVec.twoPow 8 n)

/-! ## The outbound queue (R170, R171) -/

/-- The free places of a channel's outbound queue (R170). -/
def Channel.room (c : Channel) : Nat := Config.outboundPlaces - c.queue.length

/-- A message enters the tail of the queue; one that brings it above 20 sets the condensed flag (R171). -/
def Channel.push (c : Channel) (m : Message) : Channel :=
  { c with queue := c.queue ++ [m]
           condensed := c.condensed || decide (c.queue.length + 1 > Config.condensedAbove) }

/-- A message enters the outbound queue of channel `ch` (R170). -/
def State.enqueue (s : State) (ch : Fin 4) (m : Message) : State :=
  s.setChannel ch ((s.channel ch).push m)

/-! ## Notices (R167) -/

/-- The set holds the notice. -/
def NoticeSet.has (v : NoticeSet) (n : Notice) : Bool := v.getLsbD n.bit

/-- A NOTICE PENDING composed for a channel: it enters the queue at once when its room is free and no
answer, which comes before it, waits; otherwise it waits (R167, R170). -/
def Channel.composeNoticePending (c : Channel) : Channel :=
  if c.pendingAnswer.isNone && decide (1 ≤ c.room) then c.push .noticePending
  else { c with noticePending := true }

/-- A notice raised on a channel (R167): not kept while FREE, no effect when already in the set, and a
NOTICE PENDING when it joins an empty set. -/
def Channel.raise (c : Channel) (n : Notice) : Channel :=
  if c.attached.isNone then c
  else if NoticeSet.has c.notices n then c
  else
    let joined : Channel := { c with notices := setBit c.notices n.bit }
    if c.notices = 0 then joined.composeNoticePending else joined

/-- A notice raised on channel `ch` (R167). -/
def State.raise (s : State) (n : Notice) (ch : Fin 4) : State :=
  s.setChannel ch ((s.channel ch).raise n)

/-- A notice raised on every attached channel (R167). -/
def State.raiseAll (s : State) (n : Notice) : State := eachChannel (fun ch t => t.raise n ch) s

/-! ## Station conditions (R178) -/

/-- The station holds the condition. -/
def State.hasCondition (s : State) (c : Condition) : Bool := s.control.conditions.getLsbD c.bit

/-- A condition set. One that was clear is reported, and STATION_FAULT raised on every attached
channel; one already set is not (R169, R178). -/
def State.setCondition (s : State) (c : Condition) : State :=
  if s.hasCondition c then s
  else (s.withControl { s.control with conditions := setBit s.control.conditions c.bit }).raiseAll
    .stationFault

/-- A condition cleared; nothing is reported (R178). -/
def State.clearCondition (s : State) (c : Condition) : State :=
  s.withControl { s.control with conditions := clearBit s.control.conditions c.bit }

/-- The plan revision the station reports: absent while PLAN is set (R95, R139, R166). -/
def State.ownRevision (s : State) : Option Nat :=
  if s.hasCondition .plan then none else s.control.revision

end Sys2Proof.Machine
end

