-- ==== Sys2Proof/Machine/Incident.lean ====
section
/-!
DEFINITION. The Incident Monitor (chapter 6): the alarm count, the incident state, the incident origin,
the hold, the spread checks, and the notices it raises.
-/
namespace Sys2Proof.Machine

/-- The change brings its entry into ALARM (R109, R116). -/
def PictureChange.entersAlarm (pc : PictureChange) : Bool :=
  (pc.kind == .admission || pc.kind == .state) && pc.entry.state == .alarm

/-- The change takes its entry out of ALARM (R109). -/
def PictureChange.leavesAlarm (pc : PictureChange) : Bool :=
  (pc.kind == .state && pc.prevState == some .alarm) ||
  ((pc.kind == .remove || pc.kind == .evict) && pc.entry.state == .alarm)

/-- The record that names an entry (R110, R111). -/
def IncidentOrigin.ofEntry (e : Entry) : IncidentOrigin := ⟨e.addr, e.loc, e.localSince⟩

/-- The ALARM entry with the smallest local since, ties going to the lowest point address (R110,
R112, R120): a list in rising address keeps the first of equals. -/
def oldestAlarm (l : List Entry) : Option Entry :=
  firstBy (fun a b => decide (a.localSince < b.localSince ∨
      (a.localSince = b.localSince ∧ a.addr.before b.addr = true)))
    (l.filter (fun e => e.state == .alarm))

/-- ORIGIN_MOVED is raised where the record names another address than before the change (R113). -/
def noteMove (before : Option IncidentOrigin) (s : State) : State :=
  match before, s.incident.origin with
  | some a, some b => if a.addr = b.addr then s else s.raiseAll .originMoved
  | _, _ => s

/-- The end of an incident (R114). -/
def IncidentMonitor.ended (m : IncidentMonitor) : IncidentMonitor :=
  { m with active := false, origin := none, vertical := false, lateral := false, hold := none }

/-- An entry has come into ALARM: the count rises, and the incident state, the hold timer and the
origin record move (R110, R111, R115). -/
def alarmRises (e : Entry) (s : State) : State :=
  let m := s.incident
  let counted : IncidentMonitor := { m with alarmCount := m.alarmCount + 1 }
  let named : IncidentMonitor := { counted with origin := some (.ofEntry e), hold := none }
  if m.active = false then s.withIncident { named with active := true }
  else
    match m.hold, m.origin with
    | none, some o =>
      if decide (e.localSince < o.since) ||
          (decide (e.localSince = o.since) && e.addr.before o.addr) then
        noteMove m.origin (s.withIncident named)
      else s.withIncident counted
    | _, _ => noteMove m.origin (s.withIncident named)

/-- An entry has left ALARM: the count falls, and either the hold starts or the origin is chosen again
where the entry was the one named (R112, R114). -/
def alarmFalls (e : Entry) (s : State) : State :=
  let m := s.incident
  let counted : IncidentMonitor := { m with alarmCount := m.alarmCount - 1 }
  if counted.alarmCount = 0 then
    if m.active then
      if m.incidentHold = 0 then s.withIncident counted.ended
      else s.withIncident { counted with hold := some 0 }
    else s.withIncident counted
  else if (m.origin.map IncidentOrigin.addr) = some e.addr then
    match oldestAlarm s.entries with
    | some o => noteMove m.origin (s.withIncident { counted with origin := some (.ofEntry o) })
    | none => s.withIncident counted
  else s.withIncident counted

/-- While the named entry stays in ALARM, the record's copy of its location follows it (R113). -/
def followLocation (e : Entry) (s : State) : State :=
  match s.incident.origin with
  | some o =>
    if o.addr = e.addr ∧ e.state = .alarm then
      s.withIncident { s.incident with origin := some { o with loc := e.loc } }
    else s
  | none => s

/-- The difference of two floors without sign (R117). -/
def floorDistance (a b : Nat) : Nat := (a - b) + (b - a)

/-- The floor is known (R117, R164). -/
def Location.known (l : Location) : Bool := !(l.floor == 127)

/-- The vertical condition (R117). -/
def verticalMet (m : IncidentMonitor) (e o : Location) : Bool :=
  !(m.spreadFloors == 0) && e.known && o.known && decide (m.spreadFloors ≤ floorDistance e.floor o.floor)

/-- The lateral condition (R118). -/
def lateralMet (m : IncidentMonitor) (e o : Location) : Bool :=
  e.known && o.known && e.floor == o.floor &&
    !(m.groups.getD e.compartment 0 == m.groups.getD o.compartment 0)

/-- SPREAD_VERTICAL, once per incident (R117). -/
def checkVertical (e : Entry) (s : State) : State :=
  match s.incident.origin with
  | some o =>
    if verticalMet s.incident e.loc o.loc && !s.incident.vertical then
      (s.withIncident { s.incident with vertical := true }).raiseAll .spreadVertical
    else s
  | none => s

/-- SPREAD_LATERAL, once per incident (R118). -/
def checkLateral (e : Entry) (s : State) : State :=
  match s.incident.origin with
  | some o =>
    if lateralMet s.incident e.loc o.loc && !s.incident.lateral then
      (s.withIncident { s.incident with lateral := true }).raiseAll .spreadLateral
    else s
  | none => s

/-- The Incident Monitor takes one picture change whole: the count with the state, timer and origin
first, the spread check last (R109, R116). -/
def monitorTakes (pc : PictureChange) (s : State) : State :=
  if pc.entersAlarm then checkLateral pc.entry (checkVertical pc.entry (alarmRises pc.entry s))
  else if pc.leavesAlarm then alarmFalls pc.entry s
  else if pc.kind = .level then followLocation pc.entry s
  else s

/-- The Incident Monitor is told that an origin has become SILENT (R119). -/
def monitorHearsSilent (x : Nat) (s : State) : State :=
  if (s.entriesOf x).any (fun e => e.state == .alarm) then s.raiseAll .originSilent else s

/-- The incident as a warm restart finds it in the table (R120). -/
def IncidentMonitor.recomputed (entries : List Entry) : IncidentMonitor :=
  let n := (entries.filter (fun e => e.state == .alarm)).length
  { IncidentMonitor.cold with
    active := decide (0 < n), alarmCount := n
    origin := (oldestAlarm entries).map IncidentOrigin.ofEntry }

end Sys2Proof.Machine
end

