-- ==== Sys2Proof/Machine/Route.lean ====
section
/-!
DEFINITION. The routing of picture changes to the crew channels (R163, R164), the late set (R145), and
the delivery of a picture change to the blocks that follow the picture (R21).
-/
namespace Sys2Proof.Machine

/-- The change's entry has the sheet, or the change carries it as its previous sheet (R145, R163). -/
def PictureChange.touches (pc : PictureChange) (sheet : Nat) : Bool :=
  sheetOf pc.entry.place == some sheet || pc.prevSheet == some (some sheet)

/-- The rank of a change: for STATE the higher of the ranks of its new and previous state (R164). -/
def PictureChange.rank (pc : PictureChange) : Nat :=
  match pc.kind, pc.prevState with
  | .state, some p => max pc.entry.state.rank p.rank
  | _, _ => pc.entry.state.rank

/-- The entry meets the mode of a watch (R164). -/
def WatchMode.met (m : WatchMode) (e : Entry) : Bool :=
  match m with
  | .point a => e.addr == a
  | .floor f => e.loc.known && e.loc.floor == f
  | .floorBand f => e.loc.known && e.loc.floor / 8 == f / 8
  | .compartment f c => e.loc.known && e.loc.floor == f && e.loc.compartment == c

/-- The change matches the watch (R164). -/
def Watch.matches (w : Watch) (pc : PictureChange) : Bool :=
  w.mode.met pc.entry && decide (w.rankMin ≤ pc.rank)

/-- The change matches a watch of the channel (R163). -/
def Channel.watches (c : Channel) (pc : PictureChange) : Bool :=
  (c.watch0.map (·.matches pc)).getD false || (c.watch1.map (·.matches pc)).getD false

/-- The NotifyVector bit for a change and a role is set (R20, R164). -/
def notifies (v : Word16) (pc : PictureChange) (r : Role) : Bool :=
  v.getLsbD (pc.entry.state.classCode * 4 + r.code)

/-- The removal flag of a MARK UPDATE: set for REMOVE and EVICT, and where the mark has left the
current sheet for which the update is queued (R163). -/
def removalFlag (pc : PictureChange) (forSheet : Option Nat) : Bool :=
  pc.kind == .remove || pc.kind == .evict ||
  match forSheet with
  | some n => pc.prevSheet == some (some n) && !(sheetOf pc.entry.place == some n)
  | none => false

/-- A MARK UPDATE queued on a channel (R163): placed at once, or held back with PICTURE_CHANGED while the
channel is CONDENSED (R171). -/
def queueUpdate (pc : PictureChange) (forSheet : Option Nat) (ch : Fin 4) (s : State) : State :=
  if (s.channel ch).condensed then s.raise .pictureChanged ch
  else s.enqueue ch (.markUpdate pc.kind (removalFlag pc forSheet) (s.markOf pc.entry))

/-- An address offered to the late set of a channel's bundle (R145). -/
def offerLate (a : Address) (ch : Fin 4) (s : State) : State :=
  let b := s.bundle ch
  if b.late.contains a then s
  else if b.late.length < Config.lateSetSize then
    s.setBundle ch { b with late := insertAddress a b.late }
  else s.raise .sheetStale ch

/-- The bundle of a channel is in OVERLAY for a sheet that the change touches (R145, R163 step 1). -/
def Bundle.takesLate (b : Bundle) (pc : PictureChange) : Bool :=
  b.state == .overlay && (b.sheet.map pc.touches).getD false

/-- A picture change routed on one channel by the first step of R163 that applies. -/
def routeOn (pc : PictureChange) (ch : Fin 4) (s : State) : State :=
  let c := s.channel ch
  let onCurrent := (c.currentSheet.map pc.touches).getD false
  match c.attached with
  | none => s
  | some att =>
    if (s.bundle ch).takesLate pc then
      let offered := offerLate pc.entry.addr ch s
      if onCurrent && !(c.currentSheet == (s.bundle ch).sheet) then
        queueUpdate pc c.currentSheet ch offered
      else offered
    else if onCurrent then queueUpdate pc c.currentSheet ch s
    else if c.watches pc && notifies s.crew.notifyVector pc att.role then
      queueUpdate pc none ch s
    else s

/-- A picture change routed on every channel (R163). -/
def routeChange (pc : PictureChange) (s : State) : State := eachChannel (routeOn pc) s

/-- The Picture Table emits a picture change: the Incident Monitor takes it, then the Crew Channel Unit
(R21; that order is log 5). -/
def emit (pc : PictureChange) (s : State) : State := routeChange pc (monitorTakes pc s)

end Sys2Proof.Machine
end

