-- ==== Sys2Proof/Machine/Table.lean ====
section
/-!
DEFINITION. The Picture Table's operations on entries (chapter 2): writes with their picture changes, the
CLEARED hold, confirmation, sweep marks, placing a new entry, eviction, overflow and recovery.
-/
namespace Sys2Proof.Machine

/-! ## Picture changes of a write (R22) -/

/-- A change that carries no previous state or sheet. -/
def plainChange (kind : ChangeKind) (e : Entry) : PictureChange :=
  { kind := kind, entry := e, prevState := none, prevSheet := none }

/-- The previous sheet a change carries: the old sheet where the event changed the sheet (R21). -/
def prevSheetOf (old new : Entry) : Option (Option Nat) :=
  if sheetOf old.place = sheetOf new.place then none else some (sheetOf old.place)

/-- The picture change that a write of a held entry produces, if any (R22). -/
def writeChange (old new : Entry) : Option PictureChange :=
  if old.state ≠ new.state then
    some { kind := .state, entry := new, prevState := some old.state, prevSheet := prevSheetOf old new }
  else if old.datum ≠ new.datum ∨ old.loc ≠ new.loc ∨ old.place ≠ new.place then
    some { kind := .level, entry := new, prevState := none, prevSheet := prevSheetOf old new }
  else if old.confirmed = false ∧ new.confirmed = true then some (plainChange .confirm new)
  else none

/-! ## Taking entries out -/

/-- The clearing copy that the removal of an own marker hands to the Publisher (R89). -/
def handCopy (e : Entry) (s : State) : State :=
  if s.ownEntry e && decide (64 ≤ e.addr.index) then
    s.setCopy e.addr.index (some ⟨e.datum.value, e.place, e.loc⟩)
  else s

/-- An entry taken out by its CLEARED hold (R26, R27). -/
def removeByHold (e : Entry) (s : State) : State :=
  emit (plainChange .remove e) (handCopy e (s.dropEntry e.addr))

/-- The CLEARED hold of an entry is met (R26). -/
def holdMet (s : State) (e : Entry) : Bool :=
  e.state == .cleared && decide (s.table.clearHold ≤ s.now - e.localSince)

/-- Every CLEARED entry whose hold is met is removed, in rising address (R22, R26). -/
def removeHeldOut (s : State) : State :=
  (s.entries.filter (holdMet s)).foldl (fun t e => removeByHold e t) s

/-! ## Writing entries -/

/-- An entry placed in a free place, with ADMIT (R22). -/
def placeEntry (e : Entry) (s : State) : State := emit (plainChange .admission e) (s.putEntry e)

/-- A held entry rewritten, with the picture change of R22. One that becomes CLEARED with its hold
already met is removed at once (R27). -/
def rewriteEntry (old new : Entry) (s : State) : State :=
  let written := s.putEntry new
  let told :=
    match writeChange old new with
    | some pc => emit pc written
    | none => written
  if old.state ≠ .cleared ∧ holdMet told new = true then removeByHold new told else told

/-! ## Confirmation and sweep marks (2.5) -/

/-- The sweep mark of every entry of an origin set or cleared; nothing is announced (R30). -/
def setSweep (x : Nat) (b : Bool) (s : State) : State :=
  s.setEntries (s.entries.map (fun e => if e.addr.station = x then { e with sweep := b } else e))

/-- A CONFIRMED entry becomes UNCONFIRMED, with UNCONFIRM (R29). -/
def unconfirmEntry (e : Entry) (s : State) : State :=
  if e.confirmed then
    emit (plainChange .unconfirm { e with confirmed := false }) (s.putEntry { e with confirmed := false })
  else s

/-- The entries of an origin unconfirmed in rising address, and their sweep marks cleared (R29). -/
def unconfirmOrigin (x : Nat) (s : State) : State :=
  let cleared := setSweep x false s
  (cleared.entriesOf x).foldl (fun t e => unconfirmEntry e t) cleared

/-- An entry taken out by a sweep (R31). -/
def removeBySweep (e : Entry) (s : State) : State := emit (plainChange .remove e) (s.dropEntry e.addr)

/-- The sweep: every entry of the origin that still carries its mark is removed, in rising address (R31). -/
def sweepOrigin (x : Nat) (s : State) : State :=
  ((s.entriesOf x).filter Entry.sweep).foldl (fun t e => removeBySweep e t) s

/-! ## Overflow and recovery (2.6, 2.7) -/

/-- News of an origin was dropped or evicted: its overflow flag is set, and the loss flag where the
recovery slot holds it (R37, R39). -/
def noteLoss (x : Nat) (s : State) : State :=
  let flagged := s.modOrigin x (fun o => { o with overflow := true })
  match flagged.table.recovery with
  | some r =>
    if r.origin = x then
      flagged.withTable { flagged.table with recovery := some { r with loss := true } }
    else flagged
  | none => flagged

/-- The recovery slot emptied, with its loss flag (R38). -/
def emptyRecovery (s : State) : State := s.withTable { s.table with recovery := none }

/-- A recovery of the origin ends without success (R41). -/
def failRecovery (x : Nat) (s : State) : State :=
  match s.table.recovery with
  | some r => if r.origin = x then emptyRecovery s else s
  | none => s

/-- The sweep was performed: a recovery of the origin ends, and its overflow flag clears where nothing
was lost (R40). -/
def endRecovery (x : Nat) (s : State) : State :=
  match s.table.recovery with
  | some r =>
    if r.origin = x then
      let emptied := emptyRecovery s
      if r.loss then emptied else emptied.modOrigin x (fun o => { o with overflow := false })
    else s
  | none => s

/-- A series of the origin begins: the loss flag clears where the slot holds it (R39). -/
def clearLoss (x : Nat) (s : State) : State :=
  match s.table.recovery with
  | some r =>
    if r.origin = x then s.withTable { s.table with recovery := some { r with loss := false } } else s
  | none => s

/-- A resync state made WANTED where it was NONE; WANTED and AWAITING are left (R38, R58). -/
def Resync.want : Resync → Resync
  | .none => .wanted
  | r => r

/-- The origin's resync state becomes WANTED if it was NONE (R58). -/
def wantSeries (x : Nat) (s : State) : State :=
  s.modOrigin x (fun o => { o with resync := o.resync.want })

/-- The origin may be recovered: its overflow flag is set and it is heard (R38). -/
def OriginRecord.recoverable (o : OriginRecord) : Bool :=
  o.overflow && !(o.status == .silent) && !(o.status == .unknown)

/-- The check of R38: a recovery starts when the slot is empty, the pool has room, and an origin that is
heard has its overflow flag set; the lowest-numbered one is taken. -/
def startRecovery (s : State) : State :=
  if s.table.recovery.isNone && decide (Config.recoveryRoom ≤ s.freeCount) then
    match s.stationsWhere OriginRecord.recoverable with
    | x :: _ => wantSeries x (s.withTable { s.table with recovery := some ⟨x, false⟩ })
    | [] => s
  else s

/-! ## Records of peers (R32 to R35, R62 to R64) -/

/-- The victim order: lowest rank, then smallest learned, then highest address (R33). -/
def victimBefore (a b : Entry) : Bool :=
  decide (a.state.rank < b.state.rank ∨
    (a.state.rank = b.state.rank ∧
      (a.learned < b.learned ∨ (a.learned = b.learned ∧ b.addr.before a.addr = true))))

/-- The victim: the foreign entry that comes first in the order of R33. -/
def State.victim (s : State) : Option Entry := firstBy victimBefore s.foreign

/-- The datum a record gives an entry: a level at a loop index, a crew id at a marker index (R35). -/
def Record.datum (r : Record) : Datum := if isLoopIndex r.index then .level r.value else .crew r.value

/-- now - age, and 0 where the age reaches further back than the counter (R35, R62). -/
def sinceOfAge (now age : Nat) : Nat := now - age

/-- The entry a record gives at its placing (R35). -/
def entryOfRecord (x : Nat) (r : Record) (now : Nat) : Entry :=
  { addr := ⟨x, r.index⟩, state := r.state, datum := r.datum, place := r.place, loc := r.loc,
    localSince := sinceOfAge now r.age, learned := now, confirmed := true, sweep := false }

/-- A victim is taken out with EVICT and its origin has lost news (R34, R37, R39). -/
def evictEntry (v : Entry) (s : State) : State :=
  noteLoss v.addr.station (emit (plainChange .evict v) (s.dropEntry v.addr))

/-- A POINT or MARKER record for an address that is not held: placed, placed by eviction, or dropped;
a CLEARED one is discarded (R32, R34). -/
def presentRecord (x : Nat) (r : Record) (s : State) : State :=
  if r.state = .cleared then s
  else if 0 < s.freeCount then placeEntry (entryOfRecord x r s.now) s
  else
    match s.victim with
    | some v =>
      if r.state.rank > v.state.rank then placeEntry (entryOfRecord x r s.now) (evictEntry v s)
      else noteLoss x s
    | none => noteLoss x s

/-- The held entry as a POINT or MARKER record rewrites it (R62). -/
def updateByRecord (e : Entry) (r : Record) (now : Nat) : Entry :=
  { e with
    state := r.state, datum := r.datum, place := r.place, loc := r.loc
    localSince := if r.state = e.state then e.localSince else sinceOfAge now r.age
    learned := now, confirmed := true, sweep := false }

/-- A LEVEL record applied to the entry it names (R64). -/
def applyLevel (e : Entry) (r : Record) (s : State) : State :=
  let new : Entry := { e with datum := .level r.value, learned := s.now }
  let written := s.putEntry new
  if e.datum = new.datum then written else emit (plainChange .level new) written

/-- One record of an accepted frame of origin `x` applied (R61 to R64). -/
def applyRecord (x : Nat) (r : Record) (s : State) : State :=
  match s.entryAt ⟨x, r.index⟩, r.kind with
  | some e, .level => applyLevel e r s
  | none, .level => s
  | some e, _ => rewriteEntry e (updateByRecord e r s.now) s
  | none, _ => presentRecord x r s

/-- The bytes of one record applied, or refused without effect (R19, R61, R184). -/
def applyRecordBytes (x : Nat) (s : State) (b : List Byte) : State :=
  match decodeRecord b with
  | some r => applyRecord x r s
  | none => s

/-! ## Markers (R24, R25) -/

/-- The lowest-numbered free marker slot (R24). -/
def State.freeSlot (s : State) : Option Nat :=
  ((List.range 16).map (· + 64)).find? (fun i => (s.ownAt i).isNone)

/-- A marker created in a slot, with ADMIT and the slot's change mark; its clearing copy is emptied
(R24, R89). -/
def createMarker (i : Nat) (state : PointState) (crew : Nat) (place : Option Place) (loc : Location)
    (s : State) : State :=
  let e : Entry :=
    { addr := ⟨s.own, i⟩, state := state, datum := .crew crew, place := place, loc := loc,
      localSince := s.now, learned := s.now, confirmed := true, sweep := false }
  (placeEntry e (s.setCopy i none)).setChange i

/-- A marker cleared (R25): STATE and the slot's change mark; one already CLEARED is left as it stands. -/
def clearMarker (e : Entry) (s : State) : State :=
  if e.state = .cleared then s
  else
    rewriteEntry e { e with state := .cleared, localSince := s.now, learned := s.now, confirmed := true }
      (s.setChange e.addr.index)

end Sys2Proof.Machine
end

