-- ==== Sys2Proof/Machine/Bundle.lean ====
section
/-!
DEFINITION. The Bundle Engine (chapter 8): the beginning of a bundle, the handle and the blocks, the
messages it composes and what their placing does, the snapshot, the late marks, and aborts.
-/
namespace Sys2Proof.Machine

/-! ## Reads (R141) -/

/-- A request of a channel offered to the Plan Store Controller, with what leaves it at once. -/
def askStore (r : ReadRequest) (s : State) : State × List StoreReport :=
  let out := s.store.request s.control.straps r
  (s.withStore out.1, out.2)

/-- The bundle may issue a block read (R141). -/
def Bundle.mayRead (b : Bundle) : Bool :=
  match b.handle with
  | some h =>
    b.state == .stream && !h.absent && decide (b.readCursor < h.blockCount)
      && decide (b.outstanding + b.buffer.length < 2)
  | none => false

/-- The block read a bundle issues next (R141): AHEAD for block 1 while no BLOCK message has been
placed, DEMAND otherwise. -/
def Bundle.nextRead (b : Bundle) (ch : Fin 4) : ReadRequest :=
  { who := .channel ch, what := .block,
    block := ((b.handle.map Handle.firstBlock).getD 0) + b.readCursor
    demand := !(b.readCursor == 1 && b.blockCursor == 0), urgent := b.urgent }

/-- One block read issued where R141 allows it. -/
def issueRead (ch : Fin 4) (s : State) : State × List StoreReport :=
  let b := s.bundle ch
  if b.mayRead then
    askStore (b.nextRead ch)
      (s.setBundle ch { b with readCursor := b.readCursor + 1, outstanding := b.outstanding + 1 })
  else (s, [])

/-- The block reads issued that R141 allows: the budget of 2 allows at most two. -/
def issueReads (ch : Fin 4) (s : State) : State × List StoreReport :=
  let one := issueRead ch s
  let two := issueRead ch one.1
  (two.1, one.2 ++ two.2)

/-! ## Composing messages (R139, R142 to R147) -/

/-- The BUNDLE HEAD (R139). -/
def headMessage (s : State) (b : Bundle) : Message :=
  let h := b.handle.getD .ofAbsent
  .bundleHead (b.sheet.getD 0) h.floor h.blockCount s.ownRevision h.absent b.urgent

/-- The marks of a snapshot of a sheet and their matching count (R143). -/
def snapshotOf (s : State) (sheet : Nat) : List Mark × Nat :=
  let on := overlayOrder (s.entries.filter (fun e => sheetOf e.place == some sheet))
  ((on.take Config.snapshotMarks).map s.markOf, on.length)

/-- The bundle enters OVERLAY and takes its snapshot (R143). -/
def enterOverlay (s : State) (b : Bundle) : Bundle :=
  let snap := snapshotOf s (b.sheet.getD 0)
  { b with state := .overlay, snapshot := snap.1, matching := snap.2, overlayCursor := 0 }

/-- The BUNDLE END of a bundle that was not aborted. Its late count is the set's size when it is placed,
so it is filled in then (R146). -/
def endMessage (b : Bundle) : Message :=
  .bundleEnd (b.sheet.getD 0) b.snapshot.length b.matching b.late.length b.damagedCount
    (if (b.handle.getD .ofAbsent).absent then .absent else .complete)

/-- The next message of a bundle in OVERLAY: an OVERLAY of up to 8 marks, or the END (R144, R146). -/
def overlayNext (b : Bundle) : Message :=
  match b.snapshot.drop b.overlayCursor with
  | [] => endMessage b
  | l => .overlay (b.sheet.getD 0) (l.take 8)

/-- The late mark of an address as the table stands (R147, R186; log 31). -/
def lateMark (s : State) (sheet : Nat) (a : Address) : Message :=
  match s.entryAt a with
  | some e =>
    if sheetOf e.place = some sheet then .markUpdate .late false (s.markOf e)
    else .markUpdate .late true (s.markOf e)
  | none => .markUpdate .late true (zeroMark a)

/-- The bundle with a message composed, waiting for room. -/
def Bundle.awaiting (b : Bundle) (m : Message) : Bundle := { b with pendingMsg := some m }

/-- The bundle with its next message composed, where it has one and none waits (R139, R142, R144, R146,
R147). Entering OVERLAY happens here, at the moment the block cursor reaches the count (R142). -/
def composeNext (s : State) (b : Bundle) : Bundle :=
  if b.pendingMsg.isSome then b
  else
    match b.state with
    | .idle => b
    | .lookup => b
    | .stream =>
      match b.head with
      | .owed => { b.awaiting (headMessage s b) with head := .waiting }
      | .waiting => b
      | .placed =>
        if b.blockCursor = (b.handle.getD .ofAbsent).blockCount then
          let o := enterOverlay s b
          o.awaiting (overlayNext o)
        else
          match b.buffer with
          | k :: _ =>
            if k.index = b.blockCursor then b.awaiting (.block k.index k.damaged k.content) else b
          | [] => b
    | .overlay => b.awaiting (overlayNext b)
    | .closing =>
      match b.late with
      | a :: l => { b.awaiting (lateMark s (b.sheet.getD 0) a) with late := l }
      | [] => b

/-- The next message of a channel's bundle composed, where it has one. -/
def composeBundle (ch : Fin 4) (s : State) : State := s.setBundle ch (composeNext s (s.bundle ch))

/-! ## Beginning a bundle (R138) -/

/-- The sheet holds an entry in ALARM, HAZARD or CREW_PRESENT (R138). -/
def sheetUrgent (s : State) (sheet : Nat) : Bool :=
  s.entries.any fun e => sheetOf e.place == some sheet && decide (5 ≤ e.state.rank)

/-- The bundle of a channel as it begins for a sheet; an END ABORTED that waits is kept (R138, R148). -/
def Bundle.begun (b : Bundle) (sheet : Nat) (urgent : Bool) : Bundle :=
  { b with
    state := .lookup, sheet := some sheet, handle := none, urgent := urgent
    readCursor := 0, blockCursor := 0, overlayCursor := 0, damagedCount := 0
    buffer := [], snapshot := [], matching := 0, head := .owed
    outstanding := b.outstanding + 1 }

/-- A bundle begins for a sheet, with its HANDLE request (R138). -/
def beginBundle (ch : Fin 4) (sheet : Nat) (s : State) : State × List StoreReport :=
  let urgent := sheetUrgent s sheet
  askStore { who := .channel ch, what := .handle sheet, block := 0, demand := true, urgent := urgent }
    (s.setBundle ch ((s.bundle ch).begun sheet urgent))

/-! ## Answers (R139, R142, R150) -/

/-- The handle that an answer gives (R139). -/
def handleFrom (code : ReadCode) (data : List Byte) : Handle :=
  match code with
  | .intact => handleOf data
  | .damaged => .ofAbsent
  | .absent => .ofAbsent

/-- The block that an answer puts in the buffer (R142). -/
def blockFrom (index : Nat) (code : ReadCode) (data : List Byte) : BufferedBlock :=
  match code with
  | .intact => ⟨index, false, data⟩
  | .damaged => ⟨index, true, data⟩
  | .absent => ⟨index, true, List.replicate 254 0⟩

/-- The answer to a HANDLE request in LOOKUP: the bundle moves to STREAM with its handle (R139). -/
def takeHandle (b : Bundle) (h : Handle) : Bundle :=
  { b with state := .stream, handle := some h, outstanding := b.outstanding - 1 }

/-- A block enters the buffer behind those that wait there (R142): answers come in the order of the
channel's requests, so its index is the next one. -/
def takeBlock (b : Bundle) (code : ReadCode) (data : List Byte) : Bundle :=
  { b with outstanding := b.outstanding - 1
           buffer := b.buffer ++ [blockFrom (b.blockCursor + b.buffer.length) code data] }

/-- What a report of the controller does at the Bundle Engine (R139, R142, R150): the handle or block is
taken, the reads it makes room for are issued, and the next message is composed. An answer that finds
no bundle waiting for it is discarded (R150). -/
def bundleHears (rep : StoreReport) (s : State) : State × List StoreReport :=
  match rep with
  | .orphanEnd ch =>
    let b := s.bundle ch
    issueReads ch (s.setBundle ch { b with outstanding := b.outstanding - 1 })
  | .answer r code data =>
    match r.who with
    | .loader => (s, [])
    | .channel ch =>
      let b := s.bundle ch
      match r.what, b.state with
      | .handle _, .lookup =>
        let out := issueReads ch (s.setBundle ch (takeHandle b (handleFrom code data)))
        (composeBundle ch out.1, out.2)
      | .block, .stream => (composeBundle ch (s.setBundle ch (takeBlock b code data)), [])
      | _, _ => (s, [])

/-! ## What placing a message does (R140 to R147) -/

/-- The message as it is placed: the END takes its late count then (R146). -/
def finalMessage (b : Bundle) (m : Message) : Message :=
  match m with
  | .bundleEnd sheet shown matching _ damaged .complete =>
    .bundleEnd sheet shown matching b.late.length damaged .complete
  | .bundleEnd sheet shown matching _ damaged .absent =>
    .bundleEnd sheet shown matching b.late.length damaged .absent
  | _ => m

/-- The bundle after its END is placed: CLOSING while late addresses are owed, IDLE otherwise (R146). -/
def Bundle.ended (b : Bundle) : Bundle :=
  if b.late.isEmpty then { b with state := .idle } else { b with state := .closing }

/-- The bundle of a channel after its pending message was placed; for an END that was not aborted the
channel's current sheet becomes the sheet (R146). -/
def afterPlacing (ch : Fin 4) (m : Message) (s : State) : State × List StoreReport :=
  let b := { s.bundle ch with pendingMsg := none }
  match m with
  | .bundleHead .. => (s.setBundle ch { b with head := .placed }, [])
  | .block _ damaged _ =>
    issueReads ch (s.setBundle ch
      { b with buffer := b.buffer.drop 1, blockCursor := b.blockCursor + 1
               damagedCount := if damaged then b.damagedCount + 1 else b.damagedCount })
  | .overlay _ marks =>
    (s.setBundle ch { b with overlayCursor := b.overlayCursor + marks.length }, [])
  | .bundleEnd _ _ _ _ _ .aborted => (s.setBundle ch b, [])
  | .bundleEnd sheet _ _ _ _ _ =>
    ((s.setChannel ch { s.channel ch with currentSheet := some sheet }).setBundle ch b.ended, [])
  | _ =>
    if b.state = .closing ∧ b.late = [] then
      match b.pendingSheet with
      | some n => beginBundle ch n (s.setBundle ch { b with state := .idle, pendingSheet := none })
      | none => (s.setBundle ch { b with state := .idle }, [])
    else (s.setBundle ch b, [])

/-! ## Aborts (R148, R149) -/

/-- A channel's reads cancelled at the controller, the removed ones no longer outstanding (R130, R148). -/
def cancelReads (ch : Fin 4) (s : State) : State :=
  let b := s.bundle ch
  (s.setBundle ch { b with outstanding := b.outstanding - s.store.queuedFor ch }).withStore
    (s.store.cancel ch)

/-- The END ABORTED of a bundle as it stands (R148). -/
def abortedEnd (b : Bundle) : Message :=
  let shown := if b.state = .overlay then b.overlayCursor else 0
  let matching := if b.state = .overlay then b.matching else 0
  .bundleEnd (b.sheet.getD 0) shown matching b.late.length b.damagedCount .aborted

/-- A SHEET request aborts the bundle in progress and the new one begins (R148). -/
def abortForSheet (ch : Fin 4) (sheet : Nat) (s : State) : State × List StoreReport :=
  let cancelled := cancelReads ch s
  let b := cancelled.bundle ch
  beginBundle ch sheet (cancelled.setBundle ch
    { b with pendingMsg := some (abortedEnd b), buffer := [], snapshot := [], matching := 0, late := [] })

/-- A detach aborts the channel's bundle without an END (R149). -/
def abortForDetach (ch : Fin 4) (s : State) : State :=
  if (s.bundle ch).state = .idle then s
  else
    let cancelled := cancelReads ch s
    let b := cancelled.bundle ch
    cancelled.setBundle ch
      { b with state := .idle, sheet := none, handle := none, buffer := [], pendingMsg := none,
               snapshot := [], matching := 0, late := [], pendingSheet := none }

/-- A SHEET request that is carried out (R138). -/
def sheetRequest (ch : Fin 4) (sheet : Nat) (s : State) : State × List StoreReport :=
  let b := s.bundle ch
  match b.state with
  | .idle => beginBundle ch sheet s
  | .closing => (s.setBundle ch { b with pendingSheet := some sheet }, [])
  | .lookup => abortForSheet ch sheet s
  | .stream => abortForSheet ch sheet s
  | .overlay => abortForSheet ch sheet s

end Sys2Proof.Machine
end

