-- ==== Sys2Proof/Machine/Scanner.lean ====
section
/-!
DEFINITION. The Point Scanner (chapter 1): bands, confirmation, the scan, the level check, the three crew
requests it decides, and the own entries it writes.
-/
namespace Sys2Proof.Machine

/-! ## Configuration and bands -/

/-- The configuration copy of a channel (R1). -/
def Scanner.config (n : Scanner) (i : Nat) : ChannelConfig := n.cfg.channels.getD i .default

/-- The kind of a channel: point 0 is SUPERVISORY whatever its record gives (R14). -/
def Scanner.kind (n : Scanner) (i : Nat) : ChannelKind :=
  if i = 0 then .supervisory else (n.config i).kind

/-- The channel is LATCHED: point 0 is FOLLOW whatever its record gives (R14). -/
def Scanner.latched (n : Scanner) (i : Nat) : Bool := !(i == 0) && (n.config i).latched

/-- The state of a channel (R5). -/
def Scanner.chan (n : Scanner) (i : Nat) : ScanChannel := n.channels.getD i (.reset .normal)

/-- The scanner with a channel's state changed. -/
def State.modChan (s : State) (i : Nat) (f : ScanChannel → ScanChannel) : State :=
  s.withScanner { s.scanner with channels := updAt s.scanner.channels i f }

/-- The threshold set of a kind (R1, R3). An UNUSED channel is not classified (R4). -/
def ScanConfig.thresholds (c : ScanConfig) : ChannelKind → Thresholds
  | .detector => c.detector
  | .callpoint => c.callpoint
  | .flow => c.flow
  | .supervisory => c.supervisory
  | .unused => c.detector

/-- The reading that a raw value gives (R3). -/
def readingOf (invert : Bool) (raw : Byte) : Nat := if invert then 255 - raw.toNat else raw.toNat

/-- The band of a reading; the open and the short fault band are one (R3). -/
def bandOf (t : Thresholds) (reading : Nat) : Band :=
  if reading ≤ t.faultLow ∨ reading = 255 then .fault
  else if reading < t.pre then .normal
  else if reading < t.alarm then .prealarm
  else .alarm

/-- The effective band (R4). -/
def effectiveBand (k : ChannelKind) (b : Band) : Band :=
  match k, b with
  | .callpoint, .prealarm => .normal
  | .flow, .prealarm => .normal
  | .supervisory, .prealarm => .normal
  | .supervisory, .alarm => .fault
  | _, b => b

/-- The target state of an effective band (R4). -/
def Band.target : Band → ScanState
  | .normal => .normal
  | .prealarm => .prealarm
  | .alarm => .alarm
  | .fault => .fault

/-- The confirm count of an effective band's target state (R4). -/
def ScanConfig.confirmCount (c : ScanConfig) : Band → Nat
  | .normal => c.releaseCount
  | .prealarm => c.prealarmConfirm
  | .alarm => c.alarmConfirm
  | .fault => c.faultConfirm

/-- The reading of channel `i` in a scan (R3). -/
def State.reading (s : State) (r : Readings) (i : Nat) : Nat :=
  readingOf (s.scanner.config i).invert (r.val.getD i 0)

/-! ## Confirmation (R6 to R8) -/

/-- The candidate band and the confirm counter after a reading in an effective band (R6). -/
def ScanChannel.count (c : ScanChannel) (b : Band) : ScanChannel :=
  if c.candidate = some b then { c with counter := satSucc 15 c.counter }
  else { c with candidate := some b, counter := 1 }

/-- What one classified reading does to a channel: its state after counting, and the scanner state the
change rule gives, if it changes (R6, R7, R8). -/
def classify (cfg : ScanConfig) (latched : Bool) (c : ScanChannel) (b : Band) :
    ScanChannel × Option ScanState :=
  if latched && c.state == .alarm then
    if b = .fault then (c, none)
    else
      let n := c.count b
      if n.armed && n.candidate == some .normal && decide (cfg.releaseCount ≤ n.counter) then
        ({ n with armed := false }, some .normal)
      else (n, none)
  else
    let n := c.count b
    if cfg.confirmCount b ≤ n.counter ∧ b.target ≠ c.state then (n, some b.target) else (n, none)

/-! ## Writing the own entry (R13) -/

/-- The state an entry shows for a scanner state: NORMAL is written as CLEARED (R13). -/
def ScanState.entryState : ScanState → PointState
  | .normal => .cleared
  | .prealarm => .prealarm
  | .alarm => .alarm
  | .fault => .fault
  | .isolated => .isolated

/-- The own entry a change of a loop point writes (R13). The level is the reading of a scan; for a
request it is that of the entry held, or else the last published level. -/
def ownEntryFor (s : State) (i : Nat) (state : PointState) (reading : Option Nat) : Entry :=
  let c := s.scanner.config i
  let level : Datum :=
    match reading, s.ownAt i with
    | some v, _ => .level v
    | none, some e => e.datum
    | none, none => .level (s.scanner.chan i).lastLevel
  { addr := ⟨s.own, i⟩, state := state, datum := level, place := c.place, loc := c.loc,
    localSince := s.now, learned := s.now, confirmed := true, sweep := false }

/-- The last published level becomes the reading of the scan that wrote the entry (R13). -/
def publishLevel (i : Nat) (reading : Option Nat) (s : State) : State :=
  match reading with
  | some v => s.modChan i (fun c => { c with lastLevel := v })
  | none => s

/-- A change of the scanner state written to the own entry, with the channel's change mark (R13). -/
def writeOwn (i : Nat) (state : PointState) (reading : Option Nat) (s : State) : State :=
  let e := ownEntryFor s i state reading
  let marked := s.setChange i
  match s.ownAt i with
  | some old => rewriteEntry old e (publishLevel i reading marked)
  | none =>
    if state = .cleared then marked else placeEntry e (publishLevel i reading marked)

/-- Point 0 entering FAULT sets SUPPLY, and leaving FAULT clears it (R14, R178). -/
def noteSupply (i : Nat) (old new : ScanState) (s : State) : State :=
  if i = 0 then
    if new = .fault then s.setCondition .supply
    else if old = .fault then s.clearCondition .supply
    else s
  else s

/-- A change of a channel's scanner state made by a scan or a request (R7, R11, R12, R13). -/
def changeScanState (i : Nat) (new : ScanState) (reading : Option Nat) (s : State) : State :=
  let old := (s.scanner.chan i).state
  noteSupply i old new
    (writeOwn i new.entryState reading (s.modChan i (fun c => { c with state := new })))

/-! ## The scan (R5, R15) -/

/-- The scan at one channel (R5). -/
def scanChannel (r : Readings) (s : State) (i : Nat) : State :=
  let c := s.scanner.chan i
  if s.scanner.kind i = .unused ∨ c.state = .isolated then s
  else
    let v := s.reading r i
    let band := effectiveBand (s.scanner.kind i)
      (bandOf (s.scanner.cfg.thresholds (s.scanner.kind i)) v)
    let out := classify s.scanner.cfg (s.scanner.latched i) c band
    let counted := s.modChan i (fun _ => out.1)
    match out.2 with
    | some new => changeScanState i new (some v) counted
    | none => counted

/-- The level written to the held entry of a point, with LEVEL (R15). -/
def writeLevel (i v : Nat) (s : State) : State :=
  match s.ownAt i with
  | some e =>
    emit (plainChange .level { e with datum := .level v, learned := s.now })
      (s.putEntry { e with datum := .level v, learned := s.now })
  | none => s

/-- The level check at one channel (R15). -/
def checkLevel (r : Readings) (s : State) (i : Nat) : State :=
  let c := s.scanner.chan i
  let v := s.reading r i
  if (c.state = .prealarm ∨ c.state = .alarm) ∧
      s.scanner.cfg.levelStep ≤ floorDistance v c.lastLevel then
    (publishLevel i (some v) (writeLevel i v s)).setLevelMark i
  else s

/-- The level check, when the divider counter calls for it, and the counter's advance (R15). -/
def levelCheck (r : Readings) (s : State) : State :=
  if s.scanner.divider < s.scanner.cfg.levelDivider then
    s.withScanner { s.scanner with divider := s.scanner.divider + 1 }
  else
    let checked := (List.range 64).foldl (checkLevel r) s
    checked.withScanner { checked.scanner with divider := 1 }

/-- One scan: the channels in ascending index, then the level check (R5). -/
def scan (r : Readings) (s : State) : State := levelCheck r ((List.range 64).foldl (scanChannel r) s)

/-! ## Crew requests at the scanner (R9 to R12) -/

/-- The three requests the scanner decides (R9). -/
inductive ScanRequest where
  | isolate | deisolate | restore
  deriving DecidableEq, Repr

/-- The scanner's answer (R9). -/
def scanAnswer (q : ScanRequest) (i : Nat) (s : State) : Status :=
  if 64 ≤ i ∨ s.scanner.kind i = .unused then .badPoint
  else if q = .isolate ∧ i = 0 then .badPoint
  else if q = .restore ∧ s.scanner.latched i = false then .notLatched
  else .ok

/-- ISOLATE's effect (R11). -/
def isolatePoint (i : Nat) (s : State) : State :=
  if (s.scanner.chan i).state = .isolated then s
  else changeScanState i .isolated none
    (s.modChan i (fun c => { c with candidate := none, counter := 0, armed := false }))

/-- DEISOLATE's effect (R12). -/
def deisolatePoint (i : Nat) (s : State) : State :=
  if (s.scanner.chan i).state = .isolated then
    changeScanState i .normal none
      (s.modChan i (fun c => { c with candidate := none, counter := 0, armed := false }))
  else s

/-- RESTORE's effect (R10). -/
def restorePoint (i : Nat) (s : State) : State :=
  if (s.scanner.chan i).state = .alarm then
    s.modChan i (fun c => { c with armed := true, candidate := none, counter := 0 })
  else s

/-! ## Taking the configuration copy (R1, R16) -/

/-- The location, sheet and position of the point-0 entry rewritten from the configuration copy;
nothing is announced (R16). -/
def rewriteSupplyPlace (s : State) : State :=
  match s.ownAt 0 with
  | some e =>
    s.putEntry { e with loc := (s.scanner.config 0).loc, place := (s.scanner.config 0).place }
  | none => s

end Sys2Proof.Machine
end

