-- ==== Sys2Proof/Machine/Control.lean ====
section
/-!
DEFINITION. Station Control (chapter 10): the load sequence, the entry to RUNNING, the two resets, and the
delivery of what leaves the Plan Store Controller.
-/
namespace Sys2Proof.Machine

/-! ## The entry to RUNNING (R176) -/

/-- The configuration that the blocks take: the loaded record, unless the defaults are in use (R176). -/
def State.configuration (s : State) : Option (List Byte) :=
  if s.control.defaultsInUse then none else s.control.loadedRecord

/-- The scanner's new configuration copy (R1, R2). -/
def State.newScanConfig (s : State) : ScanConfig :=
  match s.configuration with
  | some r => scanConfigOf r s.control.loadedDirectory
  | none => .default

/-- ClearHold as taken (R26, R187). -/
def State.newClearHold (s : State) : Nat :=
  match s.configuration with
  | some r => fieldAt r 84
  | none => Config.defaultClearHold

/-- SummarySeed as taken (R86, R187). -/
def State.newSeed (s : State) : Nat :=
  match s.configuration with
  | some r => byteAt r 83
  | none => Config.defaultSeed

/-- The Incident Monitor with its configuration values as taken (R108, R187, R188). -/
def State.newIncident (s : State) : IncidentMonitor :=
  match s.configuration with
  | some r =>
    { s.incident with
      incidentHold := fieldAt r 86
      spreadFloors := min (byteAt r 88) 7
      groups := (List.range 16).map (fun c => byteAt r (89 + c) % 4) }
  | none =>
    { s.incident with
      incidentHold := Config.defaultIncidentHold
      spreadFloors := Config.defaultSpreadFloors
      groups := List.replicate 16 0 }

/-- The NotifyVector as taken (R155, R187). -/
def State.newNotifyVector (s : State) : Word16 :=
  match s.configuration with
  | some r => BitVec.ofNat 16 (fieldAt r 105)
  | none => 0xFFFF

/-- The station enters RUNNING and every block takes its configuration values (R176, R16). -/
def enterRunning (s : State) : State :=
  let running := s.withControl { s.control with running := true }
  let scanner := running.withScanner { running.scanner with cfg := s.newScanConfig }
  let placed := rewriteSupplyPlace scanner
  let held := placed.withTable { placed.table with clearHold := s.newClearHold }
  let seeded := held.withPub
    { held.pub with seed := s.newSeed, summaryCounter := Config.summaryInterval s.newSeed,
                    summaryDue := false }
  let watched := seeded.withIncident s.newIncident
  watched.withCrew { watched.crew with notifyVector := s.newNotifyVector }

/-! ## The load sequence (R174, R175) -/

/-- A block the loader asks for (R125). -/
def loaderRequest (block : Nat) : ReadRequest :=
  { who := .loader, what := .block, block := block, demand := true, urgent := false }

/-- The load step moved. -/
def State.atStep (s : State) (k : LoadStep) : State := s.withControl { s.control with step := k }

/-- The built-in defaults are taken and the station enters RUNNING; CONFIG is set (R174, R175, R178). -/
def runOnDefaults (s : State) : State :=
  let flagged := s.setCondition .config
  enterRunning (flagged.withControl { flagged.control with defaultsInUse := true })

/-- The loader takes the header (R174). -/
def takeHeader (code : ReadCode) (c : List Byte) (s : State) : State × List StoreReport :=
  if code = .intact ∧ hasImageMark c = true then
    let laid := s.withStore { s.store with layout := some (layoutOf c) }
    let told := laid.withControl { laid.control with revision := some (revisionOf c) }
    askStore (loaderRequest (configBlock (layoutOf c) s.own)) (told.atStep .config)
  else (runOnDefaults (s.setCondition .plan), [])

/-- The loader takes the configuration record (R175). -/
def takeConfig (code : ReadCode) (c : List Byte) (s : State) : State × List StoreReport :=
  match s.store.layout with
  | some l =>
    if code = .intact ∧ byteAt c 0 = s.own then
      let kept := s.withControl { s.control with loadedRecord := some c }
      askStore (loaderRequest (dirBlock l s.own 0)) (kept.atStep (.directory 0))
    else (runOnDefaults s, [])
  | none => (runOnDefaults s, [])

/-- The entries that the `k`-th directory block gives, each damaged where the block is (R134, R175). -/
def dirEntries (code : ReadCode) (c : List Byte) (station k : Nat) : List (Option (List Byte)) :=
  (dirSlots station k).map fun slot =>
    match code with
    | .intact => some (slotBytes c slot)
    | .damaged => none
    | .absent => none

/-- The loader takes the `k`-th directory block (R175). -/
def takeDirectory (k : Nat) (code : ReadCode) (c : List Byte) (s : State) :
    State × List StoreReport :=
  let kept := s.withControl
    { s.control with loadedDirectory := s.control.loadedDirectory ++ dirEntries code c s.own k }
  match s.store.layout with
  | some l =>
    if k + 1 < dirBlockCount s.own then
      askStore (loaderRequest (dirBlock l s.own (k + 1))) (kept.atStep (.directory (k + 1)))
    else (enterRunning kept, [])
  | none => (enterRunning kept, [])

/-- The loader takes an answer at its load step (R174, R175). -/
def loaderHears (code : ReadCode) (data : List Byte) (s : State) : State × List StoreReport :=
  if s.control.running then (s, [])
  else
    match s.control.step with
    | .header => takeHeader code data s
    | .config => takeConfig code data s
    | .directory k => takeDirectory k code data s
    | .straps => (s, [])
    | .held => (s, [])

/-- A report of the controller goes to the party it is for (R129, R130). -/
def hears (rep : StoreReport) (s : State) : State × List StoreReport :=
  match rep with
  | .orphanEnd _ => bundleHears rep s
  | .answer r code data =>
    match r.who with
    | .loader => loaderHears code data s
    | .channel _ => bundleHears rep s

/-- Reports delivered in the order in which they left the controller, those that a delivery brings about
last (R129). `fuel` bounds the number delivered. -/
def deliver : Nat → List StoreReport → State → State
  | 0, _, s => s
  | _ + 1, [], s => s
  | fuel + 1, rep :: l, s =>
    let out := hears rep s
    deliver fuel (l ++ out.2) out.1

/-- More reports than one step can bring about: at most 11 reads can end in a step, a handle among them
brings two more, and the loader reads at most six blocks. -/
def deliverFuel : Nat := 64

/-- A step's change of the state with the reports it brought about delivered. -/
def settleReports (out : State × List StoreReport) : State := deliver deliverFuel out.2 out.1

/-! ## The resets (R173) -/

/-- Station Control after a reset, before the point-0 entry sets SUPPLY (R172). -/
def StationControl.afterReset (st : Straps) (tick : Nat) : StationControl :=
  { straps := st, running := false, step := .straps, defaultsInUse := false, revision := none,
    loadedRecord := none, loadedDirectory := [], conditions := 0, tick := tick, resetHeld := false }

/-- The STRAPS step: a valid station number moves the load step to HEADER with the read of block 0
asked for, any other to HELD (R174, R177). -/
def strapsStep (s : State) : State :=
  if validStation s.own then settleReports (askStore (loaderRequest 0) (s.atStep .header))
  else s.atStep .held

/-- The blocks that take the same values at both resets, over a Picture Table and an Incident Monitor
that a reset leaves (R173). -/
def State.afterReset (st : Straps) (tick : Nat) (table : PictureTable) (incident : IncidentMonitor)
    (pending : List Instr) : State :=
  { control := .afterReset st tick
    scanner := .reset
    table := table
    merge := .reset
    riser := .reset st.station.toNat tick
    pub := .reset
    incident := incident
    store := .reset
    bundles := .all .reset
    crew := .reset
    due := .none
    pending := pending }

/-- The scanner's own entry of point 0 written at a reset, with ADMIT and SUPPLY (R16). -/
def writeSupplyFault (s : State) : State :=
  (placeEntry (Entry.supplyFault s.own s.now) s).setCondition .supply

/-- A cold start (R173): every block at its cold-start values under the sampled straps, tick 0. No check of
the last tick is made first (DESIGN CHOICE, log 32). -/
def coldStart (st : Straps) (s : State) : State :=
  strapsStep (writeSupplyFault (.afterReset st 0
    { PictureTable.cold st.station.toNat with entries := [] } .cold s.pending))

/-- The entry is kept over a warm restart that samples `new` where the number was `old` (R47). -/
def keptOverRestart (old new : Nat) (e : Entry) : Bool :=
  if e.addr.station = old then decide (old = new ∧ 64 ≤ e.addr.index)
  else !(e.addr.station == new)

/-- A kept entry: a foreign one becomes UNCONFIRMED, and its sweep mark is cleared (R47). -/
def entryAfterRestart (old : Nat) (e : Entry) : Entry :=
  if e.addr.station = old then e else { e with confirmed := false, sweep := false }

/-- The entries after a warm restart (R47). -/
def entriesAfterRestart (old new : Nat) (l : List Entry) : List Entry :=
  (l.filter (keptOverRestart old new)).map (entryAfterRestart old)

/-- An origin record after a warm restart (R44). -/
def OriginRecord.afterRestart (o : OriginRecord) (holds : Bool) : OriginRecord :=
  { o with status := if holds then .silent else .unknown, held := none, silence := 0, resync := .none }

/-- The origin records after a warm restart, from the entries kept (R44). The record of the own number
is unused: own markers do not make it SILENT (R42; log 30). -/
def originsAfterRestart (own : Nat) (kept : List Entry) (l : List OriginRecord) : List OriginRecord :=
  l.mapIdx fun k o =>
    o.afterRestart (!(k + 1 == own) && kept.any fun e => e.addr.station == k + 1)

/-- The Picture Table after a warm restart (R44, R47). -/
def tableAfterRestart (old new : Nat) (t : PictureTable) : PictureTable :=
  let kept := entriesAfterRestart old new t.entries
  { entries := kept, origins := originsAfterRestart new kept t.origins, recovery := none,
    clearHold := Config.defaultClearHold }

/-- A warm restart (R173), its steps in the stated order. The checks of the last tick that no command named,
such as the removal of CLEARED entries held out (R26), are dropped, not made first (DESIGN CHOICE, log 32). -/
def warmRestart (st : Straps) (s : State) : State :=
  let table := tableAfterRestart s.own st.station.toNat s.table
  strapsStep (writeSupplyFault (.afterReset st s.now table (.recomputed table.entries) s.pending))

/-- The reset input is asserted: the riser driver, the crew port transmitter and the plan store transfer
stop at once, what they were sending or reading is lost, and the part is held (R173). The checks of the
last tick that no command named, such as the hold removals of R26, are not made first: a moment of both a
tick and a reset takes the reset at once, unless the queue names the checks before it (DESIGN CHOICE,
log 32). -/
def assertReset (s : State) : State :=
  let held := s.withControl { s.control with resetHeld := true }
  let silenced :=
    if held.riser.tx.isSending then held.withRiser { held.riser with tx := .empty } else held
  let stopped := silenced.withCrew { silenced.crew with sending := none }
  stopped.withStore { stopped.store with engine := .idle }

end Sys2Proof.Machine
end

