-- ==== Sys2Proof/Machine/Operands.lean ====
section
/-!
DEFINITION. The field bytes of the hub's requests (R157 to R168, R186). A reader answers none where the
length differs from the type's or a field lies outside its range: the request is malformed (R156, R186).
-/
namespace Sys2Proof.Machine

/-- A request without fields: DETACH, COLLECT (R168, R186). -/
def noFields : List Byte → Option Unit
  | [] => some ()
  | _ => none

/-- ATTACH: a role of any value and a crew id from 1 to 4095 (R157). -/
def attachFields : List Byte → Option (Nat × Nat)
  | [r, hi, lo] =>
    if decide (1 ≤ ofBe16 hi lo ∧ ofBe16 hi lo ≤ 4095) then some (r.toNat, ofBe16 hi lo) else none
  | _ => none

/-- SHEET: a sheet from 0 to 1022 (R162). -/
def sheetFields : List Byte → Option Nat
  | [hi, lo] => if ofBe16 hi lo ≤ 1022 then some (ofBe16 hi lo) else none
  | _ => none

/-- The mode of a watch with the fields it uses, each in its range (R159). -/
def watchMode (mode floor comp station index : Nat) : Option WatchMode :=
  match mode with
  | 0 =>
    if decide (1 ≤ station ∧ station ≤ 250 ∧ index ≤ 79) then some (.point ⟨station, index⟩) else none
  | 1 => if floor ≤ 126 then some (.floor floor) else none
  | 2 => if floor ≤ 126 then some (.floorBand floor) else none
  | 3 => if decide (floor ≤ 126 ∧ comp ≤ 15) then some (.compartment floor comp) else none
  | _ => none

/-- The two watch slots (R155). -/
inductive WatchSlot where
  | slot0 | slot1
  deriving DecidableEq, Repr

/-- A slot field (R159). -/
def watchSlot (b : Byte) : Option WatchSlot :=
  match b.toNat with
  | 0 => some .slot0
  | 1 => some .slot1
  | _ => none

/-- WATCH: slot, mode, floor, compartment, station, index and rank minimum (R159, R186). -/
def watchFields : List Byte → Option (WatchSlot × Watch)
  | [slot, mode, floor, comp, station, index, rank] =>
    match watchSlot slot, watchMode mode.toNat floor.toNat comp.toNat station.toNat index.toNat with
    | some k, some m => if rank.toNat ≤ 7 then some (k, ⟨m, rank.toNat⟩) else none
    | _, _ => none
  | _ => none

/-- UNWATCH: a slot (R159). -/
def unwatchFields : List Byte → Option WatchSlot
  | [slot] => watchSlot slot
  | _ => none

/-- The kind of a MARK (R160, R186). -/
def markKind : Nat → Option PointState
  | 3 => some .searched
  | 5 => some .crewPresent
  | 6 => some .hazard
  | _ => none

/-- What a MARK asks for (R160). -/
structure MarkRequest where
  kind : PointState
  place : Option Place
  loc : Location
  deriving DecidableEq, Repr

/-- MARK: kind, sheet, x, y, floor and compartment; x and y are checked only when the sheet is not NONE
(R160). -/
def markFields : List Byte → Option MarkRequest
  | [kind, s1, s0, x1, x0, y1, y0, floor, comp] =>
    match markKind kind.toNat with
    | some k =>
      if fieldsInRange (ofBe16 s1 s0) (ofBe16 x1 x0) (ofBe16 y1 y0) floor.toNat comp.toNat then
        some ⟨k, placeOfFields (ofBe16 s1 s0) (ofBe16 x1 x0) (ofBe16 y1 y0), ⟨floor.toNat, comp.toNat⟩⟩
      else none
    | none => none
  | _ => none

/-- UNMARK: an index from 0 to 79 (R161). -/
def unmarkFields : List Byte → Option Nat
  | [i] => if i.toNat ≤ 79 then some i.toNat else none
  | _ => none

/-- ISOLATE, DEISOLATE and RESTORE: an index of one byte (R162, R186). -/
def pointFields : List Byte → Option Nat
  | [i] => some i.toNat
  | _ => none

/-- What a LIST asks for (R165). -/
structure ListRequest where
  low : Nat
  high : Nat
  rankMin : Nat
  deriving DecidableEq, Repr

/-- LIST: a floor range and a rank minimum, the ends of the range put in order (R156, R165). -/
def listFields : List Byte → Option ListRequest
  | [low, high, rank] =>
    if decide (low.toNat ≤ 127 ∧ high.toNat ≤ 127 ∧ rank.toNat ≤ 7) then
      some ⟨min low.toNat high.toNat, max low.toNat high.toNat, rank.toNat⟩
    else none
  | _ => none

/-- STATIONS: a station range, its ends put in order (R156, R166). -/
def stationsFields : List Byte → Option (Nat × Nat)
  | [low, high] =>
    if validStation low.toNat && validStation high.toNat then
      some (min low.toNat high.toNat, max low.toNat high.toNat)
    else none
  | _ => none

end Sys2Proof.Machine
end

