-- ==== Sys2Proof/Machine/Crew.lean ====
section
/-!
DEFINITION. The Crew Channel Unit (chapter 9): the receiver, the taking of a request and its answer, what
each request does, detach and link loss, lists, and the link transmitter.
-/
namespace Sys2Proof.Machine

/-! ## Counts and timer of the receiver (R152, R153) -/

/-- A message whose check holds sets the link silence timer to 0 (R152, R153). -/
def linkAlive (s : State) : State := s.withCrew { s.crew with linkTimer := 0 }

/-- A message is discarded as one that fails its check (R152 case 1, R186). -/
def countBad (s : State) : State := s.withCrew { s.crew with badCheck := sat16 s.crew.badCheck }

/-- A message naming a channel above 3 (R152 case 2). -/
def countStray (s : State) : State := s.withCrew { s.crew with stray := sat16 s.crew.stray }

/-! ## Answers (R156, R170) -/

/-- The channel with its answer composed: it enters the queue at once if its room is free, and waits as
the pending answer otherwise (R156, R170). -/
def Channel.answer (c : Channel) (m : Message) : Channel :=
  if 1 ≤ c.room then c.push m else { c with pendingAnswer := some m }

/-- An ANSWER composed on a channel (R156). -/
def answerWith (type : Nat) (status : Status) (extra : Nat) (ch : Fin 4) (s : State) : State :=
  s.setChannel ch ((s.channel ch).answer (.answer type status extra))

/-- An ANSWER that carries nothing more than its status (R156, R186). -/
def answer (type : Nat) (status : Status) (ch : Fin 4) (s : State) : State :=
  answerWith type status 0 ch s

/-- A request taken on a channel (R156): discarded while an answer is pending, and otherwise answered or
carried out by the first case that applies. `parsed` is none where the request is malformed. -/
def takeRequest {α : Type} (type : Nat) (parsed : Option α) (isAttach : Bool) (ch : Fin 4)
    (carry : α → State → State) (s : State) : State :=
  if (s.channel ch).pendingAnswer.isSome then s.withCrew { s.crew with busy := sat16 s.crew.busy }
  else if s.control.running = false then answer type .starting ch s
  else
    match parsed with
    | none => answer type .badRequest ch s
    | some a =>
      if s.isAttached ch = false ∧ isAttach = false then answer type .notAttached ch s
      else carry a s

/-! ## Attach and detach (R157, R158) -/

/-- ATTACH carried out (R157). -/
def attachRequest (ch : Fin 4) (r : Nat × Nat) (s : State) : State :=
  if s.isAttached ch then answer typeAttach .already ch s
  else
    match Role.ofCode r.1 with
    | none => answer typeAttach .badRole ch s
    | some role =>
      answer typeAttach .ok ch
        (s.setChannel ch
          { s.channel ch with
            attached := some ⟨role, r.2⟩, currentSheet := none, watch0 := none, watch1 := none,
            notices := 0, list := none })

/-- The channel after a detach: FREE, its queue emptied, its list ended, nothing pending (R158). -/
def Channel.detached (_ : Channel) : Channel := Channel.reset

/-- A detach (R158): the Bundle Engine aborts the bundle first (R149). -/
def detachChannel (ch : Fin 4) (s : State) : State :=
  let told := abortForDetach ch s
  told.setChannel ch (told.channel ch).detached

/-- DETACH carried out (R158). -/
def detachRequest (ch : Fin 4) (_ : Unit) (s : State) : State :=
  answer typeDetach .ok ch (detachChannel ch s)

/-- A channel at a link loss (R153). A FREE channel loses its queue and its pending answer too. -/
def loseChannel (ch : Fin 4) (s : State) : State := detachChannel ch s

/-- The link is lost (R153); the message being sent is finished. -/
def linkLost (s : State) : State := eachChannel loseChannel s

/-! ## Watches (R159) -/

/-- The channel with a watch slot replaced. -/
def Channel.setWatch (c : Channel) (k : WatchSlot) (w : Option Watch) : Channel :=
  match k with
  | .slot0 => { c with watch0 := w }
  | .slot1 => { c with watch1 := w }

/-- WATCH carried out (R159). -/
def watchRequest (ch : Fin 4) (r : WatchSlot × Watch) (s : State) : State :=
  answer typeWatch .ok ch (s.setChannel ch ((s.channel ch).setWatch r.1 (some r.2)))

/-- UNWATCH carried out (R159). -/
def unwatchRequest (ch : Fin 4) (k : WatchSlot) (s : State) : State :=
  answer typeUnwatch .ok ch (s.setChannel ch ((s.channel ch).setWatch k none))

/-! ## Markers (R160, R161) -/

/-- MARK carried out (R160). -/
def markRequest (ch : Fin 4) (r : MarkRequest) (s : State) : State :=
  match (s.channel ch).attached with
  | none => answer typeMark .notAttached ch s
  | some att =>
    if att.role = .view then answer typeMark .notPermitted ch s
    else
      match s.freeSlot with
      | none => answer typeMark .markersFull ch s
      | some i => answerWith typeMark .ok i ch (createMarker i r.kind att.crew r.place r.loc s)

/-- The channel may clear the marker (R161 case 2). -/
def mayClear (att : Attachment) (e : Entry) : Bool :=
  att.role == .command || (!(att.role == .view) && e.datum == .crew att.crew)

/-- UNMARK carried out (R161). -/
def unmarkRequest (ch : Fin 4) (i : Nat) (s : State) : State :=
  match (s.channel ch).attached with
  | none => answer typeUnmark .notAttached ch s
  | some att =>
    if i < 64 then answer typeUnmark .badPoint ch s
    else
      match s.ownAt i with
      | none => answer typeUnmark .badPoint ch s
      | some e =>
        if mayClear att e then answer typeUnmark .ok ch (clearMarker e s)
        else answer typeUnmark .notOwn ch s

/-! ## Requests of other blocks (R162) -/

/-- SHEET carried out: the bundle answers it (R138, R162). -/
def sheetCarried (ch : Fin 4) (sheet : Nat) (s : State) : State :=
  settleReports (sheetRequest ch sheet s)

/-- The channel's role is COMMAND (R162). -/
def State.isCommand (s : State) (ch : Fin 4) : Bool :=
  match (s.channel ch).attached with
  | some att => att.role == .command
  | none => false

/-- A request the scanner decides, carried out (R9, R162): its effect is made where the answer is OK. -/
def scannerRequest (type : Nat) (q : ScanRequest) (effect : Nat → State → State) (ch : Fin 4) (i : Nat)
    (s : State) : State :=
  if s.isCommand ch = false then answer type .notPermitted ch s
  else
    match scanAnswer q i s with
    | .ok => answer type .ok ch (effect i s)
    | status => answer type status ch s

/-! ## Lists (R165, R166) -/

/-- The LIST END of a list, with the counts as they stand (R165, R166). -/
def ListProgress.endMessage (l : ListProgress) (replaced : Bool) : Message :=
  match l.body with
  | .items _ => .listEnd false l.shown l.total replaced
  | .stations _ _ => .listEnd true l.shown l.total replaced

/-- A list in progress is ended by a new one: its items are dropped and its LIST END waits (R166). -/
def Channel.replaceList (c : Channel) (new : ListProgress) : Channel :=
  match c.list with
  | some l => { c with list := some new, listEnds := c.listEnds ++ [l.endMessage true] }
  | none => { c with list := some new }

/-- The status of an entry's origin as a list carries it (R165). -/
def State.listStatus (s : State) (e : Entry) : ListStatus :=
  if s.ownEntry e then .own else .origin (s.origin e.addr.station).status

/-- The entry is in the floor range and has the rank of a LIST (R45, R165). -/
def ListRequest.takes (r : ListRequest) (e : Entry) : Bool :=
  decide (r.low ≤ e.loc.floor ∧ e.loc.floor ≤ r.high ∧ r.rankMin ≤ e.state.rank)

/-- The list that a LIST takes from the Picture Table (R165). -/
def takeList (r : ListRequest) (s : State) : ListProgress :=
  let on := overlayOrder (s.entries.filter r.takes)
  { body := .items ((on.take Config.listItems).map fun e => .listItem (s.listStatus e) (s.markOf e))
    shown := 0, total := on.length }

/-- LIST carried out (R165). -/
def listRequest (ch : Fin 4) (r : ListRequest) (s : State) : State :=
  s.setChannel ch ((s.channel ch).replaceList (takeList r s))

/-- STATIONS carried out (R166). -/
def stationsRequest (ch : Fin 4) (r : Nat × Nat) (s : State) : State :=
  s.setChannel ch ((s.channel ch).replaceList
    { body := .stations r.1 r.2, shown := 0, total := r.2 - r.1 + 1 })

/-- The 15 counts of the own STATION ITEM in their order (R166, R186). -/
def ownCounts (s : State) : List Nat :=
  [s.merge.overrun, s.merge.rejected, s.merge.repeats, s.merge.old,
   s.riser.collisionTotal, s.riser.giveUps, s.riser.checkErrors, s.riser.lengthErrors,
   s.riser.stuckCount,
   s.store.rereads, s.store.damaged, s.store.absent,
   s.crew.badCheck, s.crew.stray, s.crew.busy]

/-- The STATION ITEM of a station number as the state stands (R166, R186). -/
def stationItem (x : Nat) (s : State) : Message :=
  if x = s.own then
    .stationItem x (.origin .unknown) 0 false (some s.control.conditions) s.ownRevision (ownCounts s)
  else
    let o := s.origin x
    .stationItem x (.origin o.status) o.silence o.overflow o.conditions o.revision
      (List.replicate 15 0)

/-- The next list message of a channel with the channel as its placing leaves it (R165, R166). -/
def nextListMessage (s : State) (c : Channel) : Option (Message × Channel) :=
  match c.listEnds, c.list with
  | e :: l, _ => some (e, { c with listEnds := l })
  | [], none => none
  | [], some p =>
    match p.body with
    | .items (m :: l) =>
      some (m, { c with list := some { p with body := .items l, shown := p.shown + 1 } })
    | .items [] => some (p.endMessage false, { c with list := none })
    | .stations next high =>
      if next ≤ high then
        some (stationItem next s,
          { c with list := some { p with body := .stations (next + 1) high, shown := p.shown + 1 } })
      else some (p.endMessage false, { c with list := none })

/-! ## COLLECT (R168) -/

/-- COLLECT carried out (R168). -/
def collectRequest (ch : Fin 4) (_ : Unit) (s : State) : State :=
  let c := s.channel ch
  answerWith typeCollect .ok c.notices.toNat ch
    (s.setChannel ch { c with notices := 0, noticePending := false })

/-! ## The hand-out of free places (R170) -/

/-- The waiters of a channel's outbound queue (R170). -/
inductive Waiter where
  | answer | notice | list | bundle
  deriving DecidableEq, Repr

/-- The free places a message needs (R140, R170). -/
def Message.room : Message → Nat
  | .block .. => Config.blockRoom
  | _ => 1

/-- The bundle's pending message has the room it needs (R140). -/
def bundleFits (c : Channel) (b : Bundle) : Bool :=
  match b.pendingMsg with
  | some m => decide (m.room ≤ c.room)
  | none => false

/-- The first waiter, in the order of R170, whose room is free. -/
def nextWaiter (s : State) (ch : Fin 4) : Option Waiter :=
  let c := s.channel ch
  if c.pendingAnswer.isSome && decide (1 ≤ c.room) then some .answer
  else if c.noticePending && decide (1 ≤ c.room) then some .notice
  else if (nextListMessage s c).isSome && decide (1 ≤ c.room) then some .list
  else if bundleFits c (s.bundle ch) then some .bundle
  else none

/-- The pending answer is placed (R170). -/
def placeAnswer (ch : Fin 4) (s : State) : State :=
  match (s.channel ch).pendingAnswer with
  | some m => s.setChannel ch ({ s.channel ch with pendingAnswer := none }.push m)
  | none => s

/-- The NOTICE PENDING is placed, and the flag clears (R167). -/
def placeNotice (ch : Fin 4) (s : State) : State :=
  s.setChannel ch ({ s.channel ch with noticePending := false }.push .noticePending)

/-- The next list message is placed (R165, R166). -/
def placeListMessage (ch : Fin 4) (s : State) : State :=
  match nextListMessage s (s.channel ch) with
  | some out => s.setChannel ch (out.2.push out.1)
  | none => s

/-- The bundle's pending message is placed, and the bundle advances to its next message or state (R140). -/
def placeBundleMessage (ch : Fin 4) (s : State) : State :=
  match (s.bundle ch).pendingMsg with
  | some m =>
    let placed := finalMessage (s.bundle ch) m
    composeBundle ch (settleReports (afterPlacing ch placed (s.enqueue ch placed)))
  | none => s

/-- A waiter's message is placed (R170). -/
def place (w : Waiter) (ch : Fin 4) (s : State) : State :=
  match w with
  | .answer => placeAnswer ch s
  | .notice => placeNotice ch s
  | .list => placeListMessage ch s
  | .bundle => placeBundleMessage ch s

/-- A waiter's message is placed where it is the one that R170 hands the next places to. -/
def placeIfNext (w : Waiter) (ch : Fin 4) (s : State) : State :=
  if nextWaiter s ch = some w then place w ch s else s

/-! ## The link transmitter (R154) -/

/-- The channels in the order of the rotation, beginning after the one served last (R154). -/
def serveOrder (last : Fin 4) : List (Fin 4) := [last + 1, last + 2, last + 3, last]

/-- The channel when the head of its queue is taken; the condensed flag clears with RESUME when 8 messages
or fewer are left (R171). -/
def Channel.takeHead (c : Channel) (rest : List Message) : Channel :=
  if c.condensed && decide (rest.length ≤ Config.condensedClears) then
    { c with queue := rest ++ [.resume], condensed := false }
  else { c with queue := rest }

/-- The free link transmitter takes the head message of the first non-empty queue in rotation (R154). -/
def linkTake (s : State) : State :=
  match (serveOrder s.crew.lastServed).find? (fun ch => !(s.channel ch).queue.isEmpty) with
  | some ch =>
    match (s.channel ch).queue with
    | m :: rest =>
      let taken := s.setChannel ch ((s.channel ch).takeHead rest)
      taken.withCrew { taken.crew with lastServed := ch, sending := some (ch, encodeMessage ch m) }
    | [] => s
  | none => s.withCrew { s.crew with sending := none }

end Sys2Proof.Machine
end

