-- ==== Sys2Proof/Machine/Riser.lean ====
section
/-!
DEFINITION. The Riser Line Interface (chapter 4): taking the line, collisions and back-off, giving a frame
up, completion, and the receiver.
-/
namespace Sys2Proof.Machine

/-! ## Sending (R72, R73) -/

/-- The transmitter begins to send the frame (R73). Its driving makes the line BUSY at once (R70), and
the receiver collects what it reads back (R81). -/
def startSending (f : TxFrame) (collisions : Nat) (s : State) : State :=
  s.withRiser { s.riser with tx := .sending f collisions, quiet := false,
                             rx := .receiving [] false false }

/-- A frame with its collision count goes out at once if the line is QUIET, and waits otherwise (R72,
R73, R75). -/
def sendOrWait (f : TxFrame) (collisions : Nat) (s : State) : State :=
  if s.riser.quiet then startSending f collisions s
  else s.withRiser { s.riser with tx := .waiting f collisions }

/-- The Publisher places a frame in the empty slot (R72). -/
def placeFrame (f : TxFrame) (s : State) : State := sendOrWait f 0 s

/-- The line-quiet event: BUSY goes to QUIET, and a WAITING transmitter begins to send (R70, R73). -/
def lineQuiet (s : State) : State :=
  let quiet := s.withRiser { s.riser with quiet := true, quietSeen := true }
  match s.riser.tx with
  | .waiting f c => startSending f c quiet
  | .empty => quiet
  | .sending _ _ => quiet
  | .backoff _ _ _ => quiet

/-- The first active unit after a rest: BUSY at once (R70), and after a rest of at least the end gap the
receiver begins a frame (R79). A QUIET line has rested for longer than the end gap (R69). -/
def lineActive (afterEndGap : Bool) (s : State) : State :=
  let starts := s.riser.rx == .idle && (afterEndGap || s.riser.quiet)
  s.withRiser { s.riser with quiet := false
                             rx := if starts then .receiving [] false false else s.riser.rx }

/-! ## Giving up and completion (R76, R77, R100, R103) -/

/-- The marks of a record's index set again (R76). -/
def remarkRecord (s : State) (r : Record) : State :=
  match r.kind with
  | .point => s.setChange r.index
  | .marker => s.setChange r.index
  | .level => s.setLevelMark r.index

/-- The marks of a frame's records set again (R76). -/
def remarkFrame (f : TxFrame) (s : State) : State :=
  match f.body with
  | .records l => l.foldl remarkRecord s
  | .summary _ _ _ => s
  | .names _ => s

/-- A FULLSET frame given up rolls its series back (R100). -/
def rollBack (f : TxFrame) (s : State) : State :=
  if f.kind = .fullset then
    if f.first then
      s.withPub { s.pub with cursor := none, frameStart := none, fullsetDue := true }
    else s.withPub { s.pub with cursor := s.pub.frameStart, frameStart := none }
  else s

/-- A frame is given up: its marks are set again, its series is rolled back, the slot empties, the
give-up count rises and LINE is set (R76). -/
def giveUp (f : TxFrame) (s : State) : State :=
  let rolled := rollBack f (remarkFrame f s)
  let freed := rolled.withPub { rolled.pub with copiesInFlight := [] }
  let emptied := freed.withRiser { freed.riser with tx := .empty, giveUps := sat16 freed.riser.giveUps }
  emptied.setCondition .line

/-- A named origin at the completion of the RESYNC that names it, or at another station's (R103, R104). -/
def Resync.await : Resync → Resync
  | .none => .none
  | .wanted => .awaiting Config.awaitTicks
  | .awaiting _ => .awaiting Config.awaitTicks

/-- The resync state of a named origin moved to AWAITING, unless it is NONE (R103, R104). -/
def awaitOrigin (s : State) (x : Nat) : State :=
  s.modOrigin x (fun o => { o with resync := o.resync.await })

/-- What completion requires of the Publisher for the frame's kind (R77 step 4, R100, R103). -/
def publisherCompletes (f : TxFrame) (s : State) : State :=
  match f.kind, f.body with
  | .fullset, _ =>
    s.withPub { s.pub with
      frameStart := none
      startPending := if f.start then false else s.pub.startPending
      cursor := if f.last then none else s.pub.cursor }
  | .resync, .names l => l.foldl awaitOrigin s
  | _, _ => s

/-- The clearing copies from which the completed frame's records were built are emptied (R89). -/
def emptySentCopies (s : State) : State :=
  s.withPub { s.pub with
    copies := s.pub.copiesInFlight.foldl (fun l i => updAt l (i - 64) (fun _ => none)) s.pub.copies
    copiesInFlight := [] }

/-- The completion of the frame in the slot, in the order of R77. The receiver discards what it read of
the own frame (R81). -/
def completeFrame (f : TxFrame) (s : State) : State :=
  let numbered := s.withPub
    { s.pub with seq := (s.pub.seq + 1) % 4096
                 summaryCounter := Config.summaryInterval s.pub.seed, summaryDue := false }
  let told := emptySentCopies (publisherCompletes f (numbered.clearCondition .line))
  told.withRiser { told.riser with tx := .empty, rx := .idle }

/-! ## Collisions (R74, R75) -/

/-- The bound of the draw: 2^m with m the smaller of the collision count and 6 (R75). -/
def drawBound (collisions : Nat) : Nat := 2 ^ min collisions 6

/-- The number of slots drawn: a free value within the range of R75 (log 7). -/
def drawSlots (r : RiserLine) (collisions : Nat) : Nat :=
  Config.backoffDraw r.seedStation r.seedTick r.draws % drawBound collisions

/-- A frame enters BACKOFF with its draw; a draw of 0 expires at once (R75). -/
def enterBackoff (f : TxFrame) (collisions : Nat) (s : State) : State :=
  let slots := drawSlots s.riser collisions
  let drawn := s.withRiser { s.riser with draws := s.riser.draws + 1 }
  if slots = 0 then sendOrWait f collisions drawn
  else drawn.withRiser { drawn.riser with tx := .backoff f collisions slots }

/-- A read-back mismatch, in the order of R74. `wholeBytes` bytes had been read back whole: the receiver
keeps them as the beginning of a received frame (R81). -/
def mismatchAt (f : TxFrame) (collisions wholeBytes : Nat) (s : State) : State :=
  let counted := s.withRiser { s.riser with collisionTotal := sat16 s.riser.collisionTotal }
  let moved :=
    if Config.giveUpCollisions ≤ collisions + 1 then giveUp f counted
    else enterBackoff f (collisions + 1) counted
  moved.withRiser { moved.riser with rx := .receiving ((encodeFrame f).take wholeBytes) false false }

/-- The back-off timer expires (R75). -/
def backoffExpires (s : State) : State :=
  match s.riser.tx with
  | .backoff f c _ => sendOrWait f c s
  | .empty => s
  | .waiting _ _ => s
  | .sending _ _ => s

/-! ## Receiving (R49 to R51, R79 to R81, R84) -/

/-- The bytes a receive buffer keeps, and whether it would have grown beyond the longest frame (R79). -/
def keepBytes (buffer more : List Byte) : List Byte × Bool :=
  ((buffer ++ more).take Config.longestFrame, decide (Config.longestFrame < (buffer ++ more).length))

/-- What the receiver finds at the end of a frame (R80). -/
inductive FrameFate where
  | lengthError
  | checkError
  | good (f : RxFrame)
  deriving DecidableEq, Repr

/-- A frame's fate: the first case of R80 that applies. -/
def frameFate (bytes : List Byte) (tooLong broken : Bool) : FrameFate :=
  if tooLong || decide (bytes.length < Config.shortestFrame) then .lengthError
  else if broken || !checkHolds bytes then .checkError
  else
    match parseFrame bytes with
    | some f => .good f
    | none => .lengthError

/-- A frame offered to the receive queue: one that finds it full is dropped (R50). -/
def offerFrame (f : RxFrame) (s : State) : State :=
  if s.merge.queue.length < Config.receivePlaces then
    s.withMerge { s.merge with queue := s.merge.queue ++ [f] }
  else s.withMerge { s.merge with overrun := sat16 s.merge.overrun }

/-- The arrival of a good frame at the Merge Unit (R49, R51). -/
def frameArrives (f : RxFrame) (s : State) : State :=
  if f.station = s.own then s.setCondition .duplicate
  else if validStation f.station = false then
    s.withMerge { s.merge with rejected := sat16 s.merge.rejected }
  else
    offerFrame f (s.modOrigin f.station
      (fun o => { o with silence := 0, interval := Config.summaryInterval f.seed }))

/-- The received frame ends: it is checked, counted or handed on, and the receiver is IDLE again (R79,
R80). Nothing is handed on while an invalid station number holds the station (R84). -/
def frameEnds (more : List Byte) (nowBroken : Bool) (s : State) : State :=
  match s.riser.rx with
  | .idle => s
  | .receiving buffer tooLong broken =>
    let kept := keepBytes buffer more
    let rested := s.withRiser { s.riser with rx := .idle }
    match frameFate kept.1 (tooLong || kept.2) (broken || nowBroken) with
    | .lengthError =>
      rested.withRiser { rested.riser with lengthErrors := sat16 rested.riser.lengthErrors }
    | .checkError =>
      rested.withRiser { rested.riser with checkErrors := sat16 rested.riser.checkErrors }
    | .good f => if s.control.step = .held then rested else frameArrives f rested

/-! ## The stuck line (R82) -/

/-- The stuck event: LINE is set and the stuck count rises (R82). -/
def stuckEvent (s : State) : State :=
  (s.withRiser { s.riser with stuckCount := sat16 s.riser.stuckCount }).setCondition .line

end Sys2Proof.Machine
end

