-- ==== Sys2Proof/Machine/Publisher.lean ====
section
/-!
DEFINITION. The Publisher (chapter 5): the choice of the next frame, the building of the four kinds of
frame, and what it hears of other stations' requests.
-/
namespace Sys2Proof.Machine

/-! ## Choosing the next frame (R90) -/

/-- The items of R90 in their order. -/
inductive FrameItem where
  | start | resync | urgent | series | state | summary
  deriving DecidableEq, Repr

/-- The origins whose resync state is WANTED, in rising number (R102). -/
def State.wanted (s : State) : List Nat := s.stationsWhere (fun o => o.resync == .wanted)

/-- The own entry of the index is held in ALARM or HAZARD (R90, R91). -/
def State.isUrgent (s : State) (i : Nat) : Bool :=
  match s.ownAt i with
  | some e => e.state == .alarm || e.state == .hazard
  | none => false

/-- The first item of R90 that applies, whether or not the slot is empty. -/
def firstItem (s : State) : Option FrameItem :=
  if s.pub.startPending then some .start
  else if !s.wanted.isEmpty then some .resync
  else if s.pub.change.any s.isUrgent then some .urgent
  else if s.pub.cursor.isSome || s.pub.fullsetDue then some .series
  else if !s.pub.change.isEmpty || !s.pub.level.isEmpty then some .state
  else if s.pub.summaryDue then some .summary
  else none

/-- The Publisher builds only while the station is RUNNING and the slot is EMPTY (R90). -/
def State.mayBuild (s : State) : Bool := s.control.running && s.riser.tx.isEmpty

/-- The item for which a frame is built next, if any (R90). -/
def nextItem (s : State) : Option FrameItem := if s.mayBuild then firstItem s else none

/-! ## Records (R93) -/

/-- The record of a held own entry (R93). -/
def recordOfEntry (s : State) (e : Entry) : Record :=
  { kind := if isLoopIndex e.addr.index then .point else .marker
    index := e.addr.index, state := e.state, value := e.datum.value, place := e.place, loc := e.loc,
    age := s.ageOf e }

/-- The CLEARED record of a loop point whose entry is not held (R93). -/
def recordOfGonePoint (s : State) (i : Nat) : Record :=
  { kind := .point, index := i, state := .cleared, value := (s.scanner.chan i).lastLevel,
    place := (s.scanner.config i).place, loc := (s.scanner.config i).loc, age := 65535 }

/-- The CLEARED record of a marker built from its clearing copy (R93). -/
def recordOfCopy (i : Nat) (c : ClearingCopy) : Record :=
  { kind := .marker, index := i, state := .cleared, value := c.crew, place := c.place, loc := c.loc,
    age := 65535 }

/-- The LEVEL record of a held own entry (R93). -/
def levelRecordOf (e : Entry) : Record :=
  { kind := .level, index := e.addr.index, state := .cleared, value := e.datum.value, place := none,
    loc := ⟨0, 0⟩, age := 0 }

/-- The record that a change mark gives, if any, and whether it is built from a clearing copy (R93). -/
def recordForMark (s : State) (i : Nat) : Option (Record × Bool) :=
  match s.ownAt i with
  | some e => some (recordOfEntry s e, false)
  | none =>
    if isLoopIndex i then some (recordOfGonePoint s i, false)
    else (s.pub.copyAt i).map (fun c => (recordOfCopy i c, true))

/-! ## STATE frames (R91, R92) -/

/-- A STATE frame in the building: the records copied so far, and the marks and copies as they stand. -/
structure Building where
  records : List Record
  change : List Nat
  level : List Nat
  copied : List Nat
  deriving DecidableEq, Repr

/-- Records a frame holds at most (R91, R98). -/
def frameRecords : Nat := 12

/-- One change mark taken (R91): its record is copied and its marks cleared; a mark that gives no record
is cleared without one (R93). Nothing is taken once the frame is full. -/
def takeChange (s : State) (b : Building) (i : Nat) : Building :=
  if frameRecords ≤ b.records.length then b
  else
    match recordForMark s i with
    | some (r, fromCopy) =>
      { records := b.records ++ [r], change := clearMark i b.change, level := clearMark i b.level,
        copied := if fromCopy then b.copied ++ [i] else b.copied }
    | none => { b with change := clearMark i b.change }

/-- One level mark taken (R91): a LEVEL record for an entry held, no record for one that is not (R88). -/
def takeLevel (s : State) (b : Building) (i : Nat) : Building :=
  if frameRecords ≤ b.records.length then b
  else
    match s.ownAt i with
    | some e =>
      { b with records := b.records ++ [levelRecordOf e], level := clearMark i b.level }
    | none => { b with level := clearMark i b.level }

/-- The three passes of R91. -/
def fillState (s : State) : Building :=
  let first := (s.pub.change.filter s.isUrgent).foldl (takeChange s) ⟨[], s.pub.change, s.pub.level, []⟩
  let second := first.change.foldl (takeChange s) first
  second.level.foldl (takeLevel s) second

/-- The header fields every frame takes (R92, R78). -/
def frameOf (s : State) (kind : FrameKind) (first last start : Bool) (body : FrameBody) : TxFrame :=
  { kind := kind, first := first, last := last, start := start, station := s.own, seq := s.pub.seq,
    seed := s.pub.seed, body := body }

/-- A STATE frame built from the marks and placed; where the passes copy no record, the marks they
cleared stay cleared and no frame is built (R91, R92). -/
def buildState (s : State) : State :=
  let b := fillState s
  let marked := s.withPub { s.pub with change := b.change, level := b.level, copiesInFlight := b.copied }
  if b.records.isEmpty then marked
  else placeFrame (frameOf s .state false false false (.records b.records)) marked

/-! ## FULLSET frames (R98) -/

/-- The own entries of a series from an index upward: held with a state other than CLEARED (R98). -/
def seriesEntries (s : State) (start : Nat) : List Entry :=
  ((List.range 80).filterMap s.ownAt).filter
    (fun e => decide (start ≤ e.addr.index) && !(e.state == .cleared))

/-- The next FULLSET frame of a series, or the FIRST of a new one, built and placed (R98). -/
def buildFullset (s : State) : State :=
  let begins := s.pub.cursor.isNone
  let start := s.pub.cursor.getD 0
  let taken := (seriesEntries s start).take frameRecords
  let next := match taken.getLast? with
    | some e => e.addr.index + 1
    | none => 80
  let last := (seriesEntries s next).isEmpty
  let indices := taken.map (fun e => e.addr.index)
  let marked := s.withPub { s.pub with
    change := s.pub.change.filter (fun i => !indices.contains i)
    level := s.pub.level.filter (fun i => !indices.contains i)
    copiesInFlight := []
    fullsetDue := if begins then false else s.pub.fullsetDue
    frameStart := some start
    cursor := some (if last then 80 else next) }
  placeFrame
    (frameOf s .fullset begins last (begins && s.pub.startPending)
      (.records (taken.map (recordOfEntry s)))) marked

/-! ## SUMMARY and RESYNC frames (R95, R102) -/

/-- A SUMMARY frame built and placed (R95). -/
def buildSummary (s : State) : State :=
  placeFrame (frameOf s .summary false false false
    (.summary s.ownActive s.ownRevision s.control.conditions))
    (s.withPub { s.pub with copiesInFlight := [] })

/-- A RESYNC frame naming up to 8 WANTED origins, built and placed (R102). -/
def buildResync (s : State) : State :=
  placeFrame (frameOf s .resync false false false (.names (s.wanted.take 8)))
    (s.withPub { s.pub with copiesInFlight := [] })

/-- The frame of an item built (R90). -/
def buildItem (i : FrameItem) (s : State) : State :=
  match i with
  | .start => buildFullset s
  | .resync => buildResync s
  | .urgent => buildState s
  | .series => buildFullset s
  | .state => buildState s
  | .summary => buildSummary s

/-- The Publisher builds the frame of the first item that applies; where the passes of a STATE frame
copied no record it looks at the next item (R90, R91). -/
def publish : Nat → State → State
  | 0, s => s
  | fuel + 1, s =>
    match nextItem s with
    | some i => publish fuel (buildItem i s)
    | none => s

/-- Looks the Publisher takes at the list: one that builds nothing, the item after it, and one that finds
the slot full. -/
def publishFuel : Nat := 3

/-! ## Hearing other stations (R101, R104, R105) -/

/-- One name of an accepted RESYNC frame: the own number sets full-set due (R101), another origin's
request is taken as made (R104). -/
def hearName (s : State) (x : Nat) : State :=
  if x = s.own then s.withPub { s.pub with fullsetDue := true }
  else if validStation x then awaitOrigin s x
  else s

/-- The names of an accepted RESYNC frame, in the order the frame carries them (R58, R101, R104). -/
def hearNames (names : List Nat) (s : State) : State := names.foldl hearName s

/-- An accepted FIRST ends the asking (R105). -/
def hearFirst (x : Nat) (s : State) : State := s.modOrigin x (fun o => { o with resync := .none })

end Sys2Proof.Machine
end

