-- ==== Sys2Proof/Machine/Merge.lean ====
section
/-!
DEFINITION. The Merge Unit's take of a frame (chapter 3): the body checks, the sequence window, the
origin's status, the records, the series, the SUMMARY check, and silence.
-/
namespace Sys2Proof.Machine

/-! ## The checks at the take (R52) -/

/-- The frame's flags suit its kind (R52). -/
def flagsAgree (f : RxFrame) : Bool :=
  match f.kind with
  | .fullset => !f.start || f.first
  | .state => !(f.first || f.last || f.start)
  | .summary => !(f.first || f.last || f.start)
  | .resync => !(f.first || f.last || f.start)

/-- The frame's count and records suit its kind (R52). -/
def bodyAgrees (f : RxFrame) : Bool :=
  match f.kind with
  | .state => decide (1 ≤ f.count ∧ f.count ≤ 12)
  | .fullset => decide (f.count ≤ 12) && !hasLevelRecord f
  | .summary => f.count == 0
  | .resync => decide (1 ≤ f.count ∧ f.count ≤ 8)

/-! ## The sequence window (R53, R54) -/

/-- The distance of a frame's number from the held sequence (R53). -/
def seqDistance (held seq : Nat) : Nat := if held ≤ seq then seq - held else seq + 4096 - held

/-- How the window classes a frame (R53, R54, R56). -/
inductive FrameClass where
  | duplicate | inOrder | ahead | old | first | absentHeld
  deriving DecidableEq, Repr

/-- The class a distance gives a frame without START of an origin whose held sequence is present (R53). -/
def classOfDistance (d : Nat) (first : Bool) : FrameClass :=
  if d = 0 then .duplicate
  else if 2048 ≤ d then .old
  else if first then .first
  else if d = 1 then .inOrder
  else .ahead

/-- The class of a frame: START and an absent held sequence set the window aside (R54). -/
def classFrame (held : Option Nat) (f : RxFrame) : FrameClass :=
  if f.start then .first
  else
    match held with
    | none => if f.first then .first else .absentHeld
    | some h => classOfDistance (seqDistance h f.seq) f.first

/-- The frame is accepted in order with d = 1 (R60). -/
def acceptedInOrder (held : Option Nat) (f : RxFrame) : Bool :=
  match held with
  | some h => seqDistance h f.seq == 1
  | none => false

/-! ## Origin status (R56) -/

/-- The status an accepted frame gives, and whether the origin becomes WANTED (R56). The cells the spec
marks "does not arise" are taken as GAPPED and WANTED (log 18). -/
def statusMove (st : OriginStatus) (c : FrameClass) : OriginStatus × Bool :=
  match c, st with
  | .first, _ => (.resyncing, false)
  | .inOrder, .live => (.live, false)
  | .inOrder, .gapped => (.gapped, false)
  | .inOrder, .resyncing => (.resyncing, false)
  | _, _ => (.gapped, true)

/-- Step 1 of R57: the status moves; a move from RESYNCING to GAPPED clears the origin's sweep marks and
ends its recovery (R30, R41, R56). -/
def moveStatus (x : Nat) (c : FrameClass) (s : State) : State :=
  let before := (s.origin x).status
  let out := statusMove before c
  let moved := s.modOrigin x (fun o => { o with status := out.1 })
  let asked := if out.2 then wantSeries x moved else moved
  if before = .resyncing ∧ out.1 = .gapped then failRecovery x (setSweep x false asked) else asked

/-- Step 3 of R57 for a FIRST frame: the sweep marks, the loss flag, and the report to the Publisher
(R58, R59, R105). -/
def beginSeries (x : Nat) (s : State) : State := hearFirst x (clearLoss x (setSweep x true s))

/-- Step 5 of R57 for a LAST that completes its series: the sweep, LIVE, and the end of a recovery (R31,
R40, R60). -/
def finishSeries (x : Nat) (s : State) : State :=
  endRecovery x ((sweepOrigin x s).modOrigin x (fun o => { o with status := .live }))

/-- The frame flagged LAST completes its series (R60); `status` is the origin's after step 1. -/
def completesSeries (held : Option Nat) (status : OriginStatus) (f : RxFrame) : Bool :=
  f.last && (f.first || (acceptedInOrder held f && status == .resyncing))

/-! ## SUMMARY (R65, R66) -/

/-- The Crew Channel Unit compares a newly learned revision with the own one (R169). -/
def hearRevision (rev : Nat) (s : State) : State :=
  if s.ownRevision = some rev then s else s.raiseAll .revisionMismatch

/-- The body of a SUMMARY: the revision and the conditions, and a revision newly learned handed to the
Crew Channel Unit (R65, R182). Bits 5 to 7 of the conditions are not read. -/
def applySummary (x : Nat) (body : List Byte) (s : State) : State :=
  let rev : Option Nat := if (body.getD 1 0).getLsbD 0 then some (fieldAt body 2) else none
  let before := (s.origin x).revision
  let kept := s.modOrigin x
    (fun o => { o with revision := rev, conditions := some ((body.getD 4 0) &&& 0x1F) })
  match rev with
  | some r => if before = some r then kept else hearRevision r kept
  | none => kept

/-- The count check (R66). -/
def checkCount (x : Nat) (active : Nat) (s : State) : State :=
  let o := s.origin x
  if o.status = .live ∧ o.overflow = false ∧ active ≠ s.heldCount x then
    wantSeries x (s.modOrigin x (fun o => { o with status := .gapped }))
  else s

/-! ## The application of an accepted frame (R57) -/

/-- The records of a body applied one at a time in order (R61). -/
def applyRecords (x : Nat) (f : RxFrame) (s : State) : State :=
  (recordChunks f.count f.body).foldl (applyRecordBytes x) s

/-- Step 4 of R57: the body. -/
def applyBody (x : Nat) (f : RxFrame) (s : State) : State :=
  match f.kind with
  | .state => applyRecords x f s
  | .fullset => applyRecords x f s
  | .summary => applySummary x f.body s
  | .resync => hearNames (f.body.map BitVec.toNat) s

/-- An accepted frame applied in the six steps of R57. -/
def applyFrame (f : RxFrame) (c : FrameClass) (s : State) : State :=
  let x := f.station
  let held := (s.origin x).held
  let moved := moveStatus x c s
  let status := (moved.origin x).status
  let numbered := moved.modOrigin x (fun o => { o with held := some f.seq })
  let begun := if f.first then beginSeries x numbered else numbered
  let applied := applyBody x f begun
  let ended := if completesSeries held status f then finishSeries x applied else applied
  if f.kind = .summary then checkCount x (byteAt f.body 0) ended else ended

/-- A frame taken from the head of the queue: rejected, discarded or applied (R52 to R57). -/
def takeFrame (f : RxFrame) (s : State) : State :=
  if !(flagsAgree f && bodyAgrees f) then
    s.withMerge { s.merge with rejected := sat16 s.merge.rejected }
  else
    match classFrame (s.origin f.station).held f with
    | .duplicate => s.withMerge { s.merge with repeats := sat16 s.merge.repeats }
    | .old => s.withMerge { s.merge with old := sat16 s.merge.old }
    | .inOrder => applyFrame f .inOrder s
    | .ahead => applyFrame f .ahead s
    | .first => applyFrame f .first s
    | .absentHeld => applyFrame f .absentHeld s

/-- The take of the frame at the head of the queue, where it is of the given kind (R50). The Merge Unit is
stopped while an invalid station number holds the station (R48). -/
def takeHead (k : FrameKind) (s : State) : State :=
  match s.merge.queue with
  | f :: l =>
    if f.kind = k ∧ s.control.step ≠ .held then
      takeFrame f (s.withMerge { s.merge with queue := l })
    else s
  | [] => s

/-! ## Silence (R67, R68) -/

/-- The silence limit of an origin (R67). -/
def OriginRecord.silenceLimit (o : OriginRecord) : Nat := 3 * o.interval + 2

/-- The origin is past its silence limit and not yet SILENT (R67). -/
def OriginRecord.pastLimit (o : OriginRecord) : Bool :=
  (o.status == .live || o.status == .gapped || o.status == .resyncing)
    && decide (o.silenceLimit < o.silence)

/-- An origin becomes SILENT, in the order of R68. -/
def becomeSilent (x : Nat) (s : State) : State :=
  let silent := s.modOrigin x (fun o => { o with status := .silent })
  let ended := failRecovery x (unconfirmOrigin x silent)
  monitorHearsSilent x (ended.modOrigin x (fun o => { o with resync := .none }))

/-- The silence count of one origin at a tick (R67). -/
def OriginRecord.countSilence (o : OriginRecord) : OriginRecord :=
  if o.status = .unknown then o else { o with silence := sat16 o.silence }

/-- The await timer of one origin at a tick (R106). -/
def OriginRecord.countAwait (o : OriginRecord) : OriginRecord :=
  match o.resync with
  | .awaiting t => { o with resync := .awaiting (t - 1) }
  | .none => o
  | .wanted => o

/-- The await timer has reached 0 (R106). -/
def OriginRecord.awaitOver (o : OriginRecord) : Bool := o.resync == .awaiting 0

/-- The await timer expires (R106). -/
def expireAwait (x : Nat) (s : State) : State :=
  if (s.origin x).awaitOver then s.modOrigin x (fun o => { o with resync := .wanted }) else s

end Sys2Proof.Machine
end

