-- ==== Sys2Proof/Machine/Settle.lean ====
section
/-!
DEFINITION. The steps the part takes of itself: the checks that a tick makes due, the hand-out of free
places and the building of frames (log 2), and the two ways in which a command comes to its effect.
-/
namespace Sys2Proof.Machine

/-! ## The checks that a tick makes due -/

/-- An origin that the last tick found past its silence limit becomes SILENT (R67, R68). -/
def takeSilence (x : Nat) (s : State) : State :=
  if x ∈ s.due.silence then
    let seen := s.withDue { s.due with silence := s.due.silence.erase x }
    if (seen.origin x).pastLimit then becomeSilent x seen else seen
  else s

/-- The holds that have run out by the last tick remove their entries (R26). -/
def takeHolds (s : State) : State :=
  if s.due.hold then removeHeldOut (s.withDue { s.due with hold := false }) else s

/-- The recovery check of the last tick (R38). -/
def takeRecovery (s : State) : State :=
  if s.due.recovery then startRecovery (s.withDue { s.due with recovery := false }) else s

/-- The hold timer is at or above IncidentHold (R114). -/
def IncidentMonitor.holdOver (m : IncidentMonitor) : Bool :=
  match m.hold with
  | some t => decide (m.incidentHold ≤ t)
  | none => false

/-- The check of the hold timer after the last tick (R114). -/
def takeIncidentHold (s : State) : State :=
  if s.due.incidentHold then
    let seen := s.withDue { s.due with incidentHold := false }
    if seen.incident.holdOver then seen.withIncident seen.incident.ended else seen
  else s

/-- The summary counter has reached 0 and this has not been taken yet (R94). -/
def State.summaryOver (s : State) : Bool :=
  s.control.running && s.pub.summaryCounter == 0 && !s.pub.summaryDue

/-- The summary counter's expiry (R94). -/
def takeSummary (s : State) : State :=
  if s.summaryOver then s.withPub { s.pub with summaryDue := true } else s

/-- The stuck event, where the stuck timer has just reached 20 (R82). -/
def takeStuck (s : State) : State :=
  if s.due.stuck then stuckEvent (s.withDue { s.due with stuck := false }) else s

/-- The loss of the link, where the link silence timer has just reached 50 (R153). -/
def takeLinkLoss (s : State) : State :=
  if s.due.linkLoss then linkLost (s.withDue { s.due with linkLoss := false }) else s

/-- Every origin that the last tick found past its silence limit becomes SILENT, in rising number. -/
def takeSilences (s : State) : State := s.due.silence.foldl (fun t x => takeSilence x t) s

/-- Every await timer at 0 expires, in rising number (R106). -/
def takeAwaits (s : State) : State :=
  (s.stationsWhere OriginRecord.awaitOver).foldl (fun t x => expireAwait x t) s

/-- The checks of the last tick that are not yet made, in the order of the opcode table (log 2). -/
def takeDue (s : State) : State :=
  takeLinkLoss (takeStuck (takeSummary (takeAwaits (takeIncidentHold (takeRecovery
    (takeHolds (takeSilences s)))))))

/-! ## The hand-out of free places (R170) -/

/-- The waiters of one channel placed while room remains, each looked for from the head of the list
(R170). `fuel` bounds the placements. -/
def placeOn : Nat → Fin 4 → State → State
  | 0, _, s => s
  | fuel + 1, ch, s =>
    match nextWaiter s ch with
    | some w => placeOn fuel ch (place w ch s)
    | none => s

/-- The hand-out on every channel; a queue has 24 places, so 24 placements fill it (R170). -/
def placeAll (s : State) : State := eachChannel (placeOn Config.outboundPlaces) s

/-! ## The part at rest -/

/-- What the part does as soon as it can, whatever checks of a tick are due: the hand-out of free places
and the next frame (R90, R170; log 2). -/
def atOnce (s : State) : State := publish publishFuel (placeAll s)

/-- Everything the part does of itself is done: the checks of the last tick, the hand-out of free places,
and the next frame (log 2). -/
def settle (s : State) : State := atOnce (takeDue s)

/-- A command from outside: while the reset input is asserted no block takes it (R173); otherwise what
the part does of itself comes first (log 2). -/
def external (f : State → State) (s : State) : State :=
  if s.control.resetHeld then s else f (settle s)

/-- The take of a received frame. It and a check of the same tick may come in either order (R36, R67), so
the checks still due wait for the queue to name them, or for the next command from outside (log 2). -/
def framed (f : State → State) (s : State) : State :=
  if s.control.resetHeld then s else f (atOnce s)

/-- A step the part takes of itself, named by the queue: it is taken alone, and not while the reset input
is asserted (R173). -/
def internal (f : State → State) (s : State) : State :=
  if s.control.resetHeld then s else f s

end Sys2Proof.Machine
end

