-- ==== Sys2Proof/Machine/FrameCommands.lean ====
section
/-!
DEFINITION. The take of a received frame by kind (chapter 3) and the building of a frame by kind (chapter 5).
-/
namespace Sys2Proof.Machine

/-- STATE_FRAME (R61): the take of the frame at the head of the receive queue, a STATE frame. -/
def execStateFrame (s : State) : Host.Outcome State Fault Refusal := .next (framed (takeHead .state) s)

/-- FULLSET_FRAME (R59, R60): the take of a FULLSET frame. -/
def execFullsetFrame (s : State) : Host.Outcome State Fault Refusal := .next (framed (takeHead .fullset) s)

/-- SUMMARY_FRAME (R65, R66): the take of a SUMMARY frame. -/
def execSummaryFrame (s : State) : Host.Outcome State Fault Refusal := .next (framed (takeHead .summary) s)

/-- RESYNC_FRAME (R58, R101, R104): the take of a RESYNC frame. -/
def execResyncFrame (s : State) : Host.Outcome State Fault Refusal := .next (framed (takeHead .resync) s)

/-- STATE_FRAME_BUILD (R90 items 3 and 5, R91, R92). -/
def execStateFrameBuild (s : State) : Host.Outcome State Fault Refusal :=
  .next (internal (fun t =>
    if nextItem t = some .urgent ∨ nextItem t = some .state then buildState t else t) s)

/-- FULLSET_FRAME_BUILD (R90 items 1 and 4, R98). -/
def execFullsetFrameBuild (s : State) : Host.Outcome State Fault Refusal :=
  .next (internal (fun t =>
    if nextItem t = some .start ∨ nextItem t = some .series then buildFullset t else t) s)

/-- SUMMARY_FRAME_BUILD (R90 item 6, R95). -/
def execSummaryFrameBuild (s : State) : Host.Outcome State Fault Refusal :=
  .next (internal (fun t => if nextItem t = some .summary then buildSummary t else t) s)

/-- RESYNC_FRAME_BUILD (R90 item 2, R102). -/
def execResyncFrameBuild (s : State) : Host.Outcome State Fault Refusal :=
  .next (internal (fun t => if nextItem t = some .resync then buildResync t else t) s)

end Sys2Proof.Machine
end

