-- ==== Sys2Proof/Machine/Receiver.lean ====
section
/-!
DEFINITION. The crew port receiver (R152, R186): the bytes that arrive are read as messages, and each message
is discarded, counted or taken.
-/
namespace Sys2Proof.Machine

/-- A request of the hub taken on its channel by its type code; a type of no request is unknown, and so
malformed (R152 case 4, R156, R186). -/
def takeByType (ch : Fin 4) (type : Nat) (fields : List Byte) (s : State) : State :=
  match type with
  | 1 => takeRequest typeAttach (attachFields fields) true ch (attachRequest ch) s
  | 2 => takeRequest typeDetach (noFields fields) false ch (detachRequest ch) s
  | 3 => takeRequest typeSheet (sheetFields fields) false ch (sheetCarried ch) s
  | 4 => takeRequest typeWatch (watchFields fields) false ch (watchRequest ch) s
  | 5 => takeRequest typeUnwatch (unwatchFields fields) false ch (unwatchRequest ch) s
  | 6 => takeRequest typeMark (markFields fields) false ch (markRequest ch) s
  | 7 => takeRequest typeUnmark (unmarkFields fields) false ch (unmarkRequest ch) s
  | 8 => takeRequest typeIsolate (pointFields fields) false ch
      (scannerRequest typeIsolate .isolate isolatePoint ch) s
  | 9 => takeRequest typeDeisolate (pointFields fields) false ch
      (scannerRequest typeDeisolate .deisolate deisolatePoint ch) s
  | 10 => takeRequest typeRestore (pointFields fields) false ch
      (scannerRequest typeRestore .restore restorePoint ch) s
  | 11 => takeRequest typeList (listFields fields) false ch (listRequest ch) s
  | 12 => takeRequest typeStations (stationsFields fields) false ch (stationsRequest ch) s
  | 13 => takeRequest typeCollect (noFields fields) false ch (collectRequest ch) s
  | _ => takeRequest type (none : Option Unit) false ch (fun _ u => u) s

/-- A message whose check holds: a stray channel, an IDLE, or a request (R152 cases 2 to 4). The channel byte
names a channel when it is 3 or below. -/
def takeMessage (channel type : Byte) (fields : List Byte) (s : State) : State :=
  if h : channel.toNat < 4 then
    if type.toNat = typeIdle then linkAlive s
    else takeByType ⟨channel.toNat, h⟩ type.toNat fields (linkAlive s)
  else countStray (linkAlive s)

/-- What the receiver does with one thing it finds (R152, R186). -/
def takeLinkEvent (e : LinkEvent) (s : State) : State :=
  match e with
  | .badCheck => countBad s
  | .badLength => countBad s
  | .message channel type fields => takeMessage channel type fields s

/-- What the receiver finds taken in order. Between one and the next the part does what it does of itself
(log 2). -/
def takeLinkEvents : List LinkEvent → State → State
  | [], s => s
  | [e], s => takeLinkEvent e s
  | e :: f :: l, s => takeLinkEvents (f :: l) (settle (takeLinkEvent e s))

/-- The bytes that arrive at the crew port are read behind those the receiver holds (R186). -/
def receive (bytes : List Byte) (s : State) : State :=
  let found := linkEvents (s.crew.receiver ++ bytes)
  takeLinkEvents found.1 (s.withCrew { s.crew with receiver := found.2 })

/-- A message that the hub sends on a channel arrives (R185, R186; log 16). -/
def hubMessage (ch : Fin 4) (type : Nat) (fields : List Byte) (s : State) : State :=
  receive (messageBytes (byte ch.val) (byte type) fields) s

/-- A message on a channel byte above 3 arrives, with its type byte and fields behind that byte (R152 case 2).
Operands that spell none bring nothing (log 3). -/
def strayMessage (channel : Byte) (typeAndFields : List Byte) (s : State) : State :=
  match typeAndFields with
  | type :: fields => if 3 < channel.toNat then receive (messageBytes channel type fields) s else s
  | [] => s

end Sys2Proof.Machine
end

