-- ==== Sys2Proof/Machine/LinkCommands.lean ====
section
/-!
DEFINITION. The crew port link: the transmitter, the hand-out of free places, and the messages of the hub that are
no request of a known type (chapter 9).
-/
namespace Sys2Proof.Machine

/-- LINK_TRANSMITTER_TAKE (R154, R171): the link transmitter is free. -/
def execLinkTransmitterTake (s : State) : Host.Outcome State Fault Refusal := .next (external linkTake s)

/-- ANSWER_PLACED (R170). -/
def execAnswerPlaced (ch : Fin 4) (s : State) : Host.Outcome State Fault Refusal := .next (internal (placeIfNext .answer ch) s)

/-- NOTICE_PENDING_PLACED (R167, R170). -/
def execNoticePendingPlaced (ch : Fin 4) (s : State) : Host.Outcome State Fault Refusal :=
  .next (internal (placeIfNext .notice ch) s)

/-- LIST_MESSAGE_PLACED (R165, R166, R170). -/
def execListMessagePlaced (ch : Fin 4) (s : State) : Host.Outcome State Fault Refusal := .next (internal (placeIfNext .list ch) s)

/-- BUNDLE_MESSAGE_PLACED (R140 to R147, R170). -/
def execBundleMessagePlaced (ch : Fin 4) (s : State) : Host.Outcome State Fault Refusal :=
  .next (internal (placeIfNext .bundle ch) s)

/-- IDLE (R152 case 3): not answered, and its bytes after the type are not read. -/
def execIdle (ch : Fin 4) (fields : List Byte) (s : State) : Host.Outcome State Fault Refusal :=
  .next (external (hubMessage ch typeIdle fields) s)

/-- BAD_CHECK_MESSAGE (R152 case 1, R186): bytes that begin with a whole message whose check fails. -/
def execBadCheckMessage (bytes : List Byte) (s : State) : Host.Outcome State Fault Refusal :=
  .next (external (fun t => if firstLinkEvent bytes = some .badCheck then receive bytes t else t) s)

/-- LENGTH_OUT_OF_RANGE (R186): an opening byte with a length below 2 or above 259. -/
def execLengthOutOfRange (len : Word16) (s : State) : Host.Outcome State Fault Refusal :=
  .next (external (fun t =>
    if lengthOutOfRange len.toNat then receive (0xA5 :: be16 len.toNat) t else t) s)

/-- STRAY_CHANNEL_MESSAGE (R152 case 2): a checked message whose channel byte is above 3, of any type. -/
def execStrayChannelMessage (channel : Byte) (typeAndFields : List Byte) (s : State) :
    Host.Outcome State Fault Refusal :=
  .next (external (strayMessage channel typeAndFields) s)

/-- UNKNOWN_TYPE_REQUEST (R152 case 4, R156): malformed, and answered under its own type code (R186). -/
def execUnknownTypeRequest (ch : Fin 4) (type : Byte) (fields : List Byte) (s : State) :
    Host.Outcome State Fault Refusal :=
  .next (external (fun t =>
    if isHubType type.toNat then t else hubMessage ch type.toNat fields t) s)

end Sys2Proof.Machine
end

