-- ==== Sys2Proof/Machine/RequestCommands.lean ====
section
/-!
DEFINITION. The thirteen requests of the hub (chapter 9): each command is the message's bytes on the link.
-/
namespace Sys2Proof.Machine

/-- ATTACH (R157). -/
def execAttach (ch : Fin 4) (fields : List Byte) (s : State) : Host.Outcome State Fault Refusal :=
  .next (external (hubMessage ch typeAttach fields) s)

/-- DETACH (R158). -/
def execDetach (ch : Fin 4) (fields : List Byte) (s : State) : Host.Outcome State Fault Refusal :=
  .next (external (hubMessage ch typeDetach fields) s)

/-- SHEET (R138, R162). -/
def execSheet (ch : Fin 4) (fields : List Byte) (s : State) : Host.Outcome State Fault Refusal :=
  .next (external (hubMessage ch typeSheet fields) s)

/-- WATCH (R159). -/
def execWatch (ch : Fin 4) (fields : List Byte) (s : State) : Host.Outcome State Fault Refusal :=
  .next (external (hubMessage ch typeWatch fields) s)

/-- UNWATCH (R159). -/
def execUnwatch (ch : Fin 4) (fields : List Byte) (s : State) : Host.Outcome State Fault Refusal :=
  .next (external (hubMessage ch typeUnwatch fields) s)

/-- MARK (R160, R24). -/
def execMark (ch : Fin 4) (fields : List Byte) (s : State) : Host.Outcome State Fault Refusal :=
  .next (external (hubMessage ch typeMark fields) s)

/-- UNMARK (R161, R25). -/
def execUnmark (ch : Fin 4) (fields : List Byte) (s : State) : Host.Outcome State Fault Refusal :=
  .next (external (hubMessage ch typeUnmark fields) s)

/-- ISOLATE (R162, R9, R11). -/
def execIsolate (ch : Fin 4) (fields : List Byte) (s : State) : Host.Outcome State Fault Refusal :=
  .next (external (hubMessage ch typeIsolate fields) s)

/-- DEISOLATE (R162, R9, R12). -/
def execDeisolate (ch : Fin 4) (fields : List Byte) (s : State) : Host.Outcome State Fault Refusal :=
  .next (external (hubMessage ch typeDeisolate fields) s)

/-- RESTORE (R162, R9, R10). -/
def execRestore (ch : Fin 4) (fields : List Byte) (s : State) : Host.Outcome State Fault Refusal :=
  .next (external (hubMessage ch typeRestore fields) s)

/-- LIST (R165, R166). -/
def execList (ch : Fin 4) (fields : List Byte) (s : State) : Host.Outcome State Fault Refusal :=
  .next (external (hubMessage ch typeList fields) s)

/-- STATIONS (R166). -/
def execStations (ch : Fin 4) (fields : List Byte) (s : State) : Host.Outcome State Fault Refusal :=
  .next (external (hubMessage ch typeStations fields) s)

/-- COLLECT (R168). -/
def execCollect (ch : Fin 4) (fields : List Byte) (s : State) : Host.Outcome State Fault Refusal :=
  .next (external (hubMessage ch typeCollect fields) s)

end Sys2Proof.Machine
end

