-- ==== Sys2Proof/Machine/ResetCommands.lean ====
section
/-!
DEFINITION. The commands of power and the reset input (R173).
-/
namespace Sys2Proof.Machine

/-- COLD_START (R173): power is applied. The checks of the last tick not yet made are dropped (DESIGN CHOICE,
log 32). -/
def execColdStart (st : Straps) (s : State) : Host.Outcome State Fault Refusal := .next (coldStart st s)

/-- RESET_ASSERT (R173): the part is held. The checks of the last tick not yet made are not made first, and
the release drops them (DESIGN CHOICE, log 32). -/
def execResetAssert (s : State) : Host.Outcome State Fault Refusal := .next (assertReset s)

/-- WARM_RESTART (R173): the reset input is released; given without an assertion it stands for a whole
pulse of the input (log 15). The checks of the last tick not yet made are dropped (DESIGN CHOICE, log 32). -/
def execWarmRestart (st : Straps) (s : State) : Host.Outcome State Fault Refusal := .next (warmRestart st s)

end Sys2Proof.Machine
end

