-- ==== Sys2Proof/Machine/RiserCommands.lean ====
section
/-!
DEFINITION. The events of the riser line (chapter 4).
-/
namespace Sys2Proof.Machine

/-- The line becomes QUIET (R70); a line that is QUIET already, or that the station drives, has no such
event (log 3). -/
def quietEvent (s : State) : State :=
  if s.riser.quiet || s.riser.tx.isSending then s else lineQuiet s

/-- LINE_QUIET_EVENT (R70, R73). -/
def execLineQuietEvent (s : State) : Host.Outcome State Fault Refusal := .next (external quietEvent s)

/-- What a mismatch does to a transmitter that is SENDING (R74); no other meets one (log 3). -/
def mismatchEvent (wholeBytes : Nat) (s : State) : State :=
  match s.riser.tx with
  | .sending f c => mismatchAt f c wholeBytes s
  | .empty => s
  | .waiting _ _ => s
  | .backoff _ _ _ => s

/-- MISMATCH (R74, R75, R76), after `wholeBytes` bytes were read back whole. -/
def execMismatch (wholeBytes : Nat) (s : State) : Host.Outcome State Fault Refusal := .next (external (mismatchEvent wholeBytes) s)

/-- BACKOFF_EXPIRY (R75). -/
def execBackoffExpiry (s : State) : Host.Outcome State Fault Refusal := .next (external backoffExpires s)

/-- What completion does to a transmitter that is SENDING (R77). -/
def completionEvent (s : State) : State :=
  match s.riser.tx with
  | .sending f _ => completeFrame f s
  | .empty => s
  | .waiting _ _ => s
  | .backoff _ _ _ => s

/-- FRAME_COMPLETION (R77). -/
def execFrameCompletion (s : State) : Host.Outcome State Fault Refusal := .next (external completionEvent s)

/-- The end of a received frame; while the station drives the line there is none (R81; log 3). -/
def frameEndEvent (bytes : List Byte) (broken : Bool) (s : State) : State :=
  if s.riser.tx.isSending then s else frameEnds bytes broken s

/-- RISER_FRAME_END (R79, R80, R49), with the bytes read since the frame, or the receiver's part of it,
began. -/
def execRiserFrameEnd (bytes : List Byte) (broken : Bool) (s : State) : Host.Outcome State Fault Refusal :=
  .next (external (frameEndEvent bytes broken) s)

/-- LINE_BUSY (R70, R79). -/
def execLineBusy (afterEndGap : Bool) (s : State) : Host.Outcome State Fault Refusal := .next (external (lineActive afterEndGap) s)

end Sys2Proof.Machine
end

