-- ==== Sys2Proof/Machine/StoreCommands.lean ====
section
/-!
DEFINITION. The end of a plan store transfer (chapter 7).
-/
namespace Sys2Proof.Machine

/-- The end of a transfer at the controller, with what leaves it delivered (R127 to R130). -/
def transferEvent (b : BlockBytes) (s : State) : State :=
  let out := s.store.transferEnd s.control.straps b
  settleReports (s.withStore out.1, out.2)

/-- TRANSFER_END (R128), with the 256 bytes the store gave. -/
def execTransferEnd (b : BlockBytes) (s : State) : Host.Outcome State Fault Refusal := .next (external (transferEvent b) s)

end Sys2Proof.Machine
end

