-- ==== Sys2Proof/Machine/Tick.lean ====
section
/-!
DEFINITION. The tick: the tick counter, the timers and counters of every block, and the scan (R172, R5).
-/
namespace Sys2Proof.Machine

/-- The tick counter after a tick; at its limit the value is free (R172; log 9). -/
def nextTick (n : Nat) : Nat := if n < Config.tickLimit then n + 1 else Config.tickPastLimit

/-- The tick counter rises by one (R172). -/
def tickControl (c : StationControl) : StationControl := { c with tick := nextTick c.tick }

/-- An origin record at a tick: the silence count, which stands still while the Merge Unit is stopped
(R48, R67), and the await timer (R106). -/
def tickOrigin (stopped : Bool) (o : OriginRecord) : OriginRecord :=
  (if stopped then o else o.countSilence).countAwait

/-- The origin records at a tick. -/
def tickTable (stopped : Bool) (t : PictureTable) : PictureTable :=
  { t with origins := t.origins.map (tickOrigin stopped) }

/-- The summary counter at a tick: one above 0 falls while the station is RUNNING (R94). -/
def tickPub (running : Bool) (p : Publisher) : Publisher :=
  if running then { p with summaryCounter := p.summaryCounter - 1 } else p

/-- The hold timer at a tick (R114). -/
def tickIncident (m : IncidentMonitor) : IncidentMonitor := { m with hold := m.hold.map sat16 }

/-- The line was QUIET at some moment since the previous tick (R82). -/
def RiserLine.wasQuiet (r : RiserLine) : Bool := r.quiet || r.quietSeen

/-- The stuck timer at a tick (R82). -/
def tickRiser (r : RiserLine) : RiserLine :=
  { r with stuckTimer := if r.wasQuiet then 0 else satSucc Config.stuckTicks r.stuckTimer
           quietSeen := r.quiet }

/-- The stuck timer reaches 20 at this tick (R82). -/
def RiserLine.reachesStuck (r : RiserLine) : Bool :=
  !r.wasQuiet && r.stuckTimer + 1 == Config.stuckTicks

/-- The link silence timer at a tick (R153). -/
def tickCrew (c : CrewUnit) : CrewUnit :=
  { c with linkTimer := satSucc Config.linkLossTicks c.linkTimer }

/-- The link silence timer reaches 50 at this tick (R153). -/
def CrewUnit.reachesLoss (c : CrewUnit) : Bool := c.linkTimer + 1 == Config.linkLossTicks

/-- The origins that this tick finds past their silence limit, in rising number, with the silence counts as
the tick leaves them (R67). A stopped Merge Unit works through no record (R48). -/
def silencesFound (s : State) : List Nat :=
  if s.control.step = .held then []
  else (s.withTable (tickTable false s.table)).stationsWhere OriginRecord.pastLimit

/-- The checks this tick makes due. -/
def tickDue (s : State) : TickDue :=
  { silence := silencesFound s, hold := true, recovery := true, incidentHold := true,
    stuck := s.due.stuck || s.riser.reachesStuck,
    linkLoss := s.due.linkLoss || s.crew.reachesLoss }

/-- Every block's counters and timers at a tick. -/
def tickTimers (s : State) : State :=
  { s with
    control := tickControl s.control
    table := tickTable (s.control.step == .held) s.table
    riser := tickRiser s.riser
    pub := tickPub s.control.running s.pub
    incident := tickIncident s.incident
    crew := tickCrew s.crew
    due := tickDue s }

/-- The scan of a tick, which only a RUNNING station makes (R5). -/
def scanIfRunning (r : Readings) (s : State) : State := if s.control.running then scan r s else s

/-- The work of a tick, its expiries before or after its scan (R36, R115; log 4). The rise of the timers,
the hold timer of R114 among them, comes before the scan in both orders, so a hold that this tick's scan
starts stands at 0 after it: DESIGN CHOICE, log 4. -/
def tickWork (r : Readings) (order : TickOrder) (s : State) : State :=
  match order with
  | .scanFirst => scanIfRunning r (tickTimers s)
  | .expiriesFirst => scanIfRunning r (takeDue (tickTimers s))

/-- A tick while the reset input is asserted: the tick counter goes on counting (R173). -/
def tickHeld (s : State) : State := s.withControl (tickControl s.control)

end Sys2Proof.Machine
end

