-- ==== Sys2Proof/Machine/TickCommands.lean ====
section
/-!
DEFINITION. The tick and the eight expiries it can bring about.
-/
namespace Sys2Proof.Machine

/-- TICK (R172): the tick counter, the tick's work of every block and the scan (R5). -/
def execTick (r : Readings) (order : TickOrder) (s : State) : Host.Outcome State Fault Refusal :=
  .next (if s.control.resetHeld then tickHeld s else tickWork r order (settle s))

/-- SILENCE_EXPIRY (R67, R68): the origin becomes SILENT where it is past its limit. -/
def execSilenceExpiry (x : Nat) (s : State) : Host.Outcome State Fault Refusal := .next (internal (takeSilence x) s)

/-- HOLD_EXPIRY (R26): the CLEARED entries whose hold has run out are removed. -/
def execHoldExpiry (s : State) : Host.Outcome State Fault Refusal := .next (internal takeHolds s)

/-- RECOVERY_START (R38): the recovery check of the last tick. -/
def execRecoveryStart (s : State) : Host.Outcome State Fault Refusal := .next (internal takeRecovery s)

/-- INCIDENT_HOLD_EXPIRY (R114): the incident ends where its hold timer is over. -/
def execIncidentHoldExpiry (s : State) : Host.Outcome State Fault Refusal := .next (internal takeIncidentHold s)

/-- AWAIT_TIMER_EXPIRY (R106): the origin's resync state becomes WANTED where its await timer is at 0. -/
def execAwaitTimerExpiry (x : Nat) (s : State) : Host.Outcome State Fault Refusal := .next (internal (expireAwait x) s)

/-- SUMMARY_COUNTER_EXPIRY (R94): a SUMMARY becomes due where the counter has reached 0. -/
def execSummaryCounterExpiry (s : State) : Host.Outcome State Fault Refusal := .next (internal takeSummary s)

/-- STUCK_EVENT (R82): where the stuck timer has just reached 20. -/
def execStuckEvent (s : State) : Host.Outcome State Fault Refusal := .next (internal takeStuck s)

/-- LINK_LOSS (R153): where the link silence timer has just reached 50. -/
def execLinkLoss (s : State) : Host.Outcome State Fault Refusal := .next (internal takeLinkLoss s)

end Sys2Proof.Machine
end

