-- ==== Sys2Proof/Machine/Dispatch.lean ====
section
/-!
DEFINITION. Each command's meaning, one arm per row of the table.
-/
namespace Sys2Proof.Machine

def exec (i : Instr) (s : State) : Host.Outcome State Fault Refusal :=
  match i with
  | .coldStart straps => Sys2Proof.Machine.execColdStart straps s
  | .resetAssert => Sys2Proof.Machine.execResetAssert s
  | .warmRestart straps => Sys2Proof.Machine.execWarmRestart straps s
  | .tick readings order => Sys2Proof.Machine.execTick readings order s
  | .silenceExpiry station => Sys2Proof.Machine.execSilenceExpiry station s
  | .holdExpiry => Sys2Proof.Machine.execHoldExpiry s
  | .recoveryStart => Sys2Proof.Machine.execRecoveryStart s
  | .incidentHoldExpiry => Sys2Proof.Machine.execIncidentHoldExpiry s
  | .awaitTimerExpiry station => Sys2Proof.Machine.execAwaitTimerExpiry station s
  | .summaryCounterExpiry => Sys2Proof.Machine.execSummaryCounterExpiry s
  | .stuckEvent => Sys2Proof.Machine.execStuckEvent s
  | .linkLoss => Sys2Proof.Machine.execLinkLoss s
  | .lineQuietEvent => Sys2Proof.Machine.execLineQuietEvent s
  | .mismatch wholeBytes => Sys2Proof.Machine.execMismatch wholeBytes s
  | .backoffExpiry => Sys2Proof.Machine.execBackoffExpiry s
  | .frameCompletion => Sys2Proof.Machine.execFrameCompletion s
  | .riserFrameEnd bytes broken => Sys2Proof.Machine.execRiserFrameEnd bytes broken s
  | .stateFrame => Sys2Proof.Machine.execStateFrame s
  | .fullsetFrame => Sys2Proof.Machine.execFullsetFrame s
  | .summaryFrame => Sys2Proof.Machine.execSummaryFrame s
  | .resyncFrame => Sys2Proof.Machine.execResyncFrame s
  | .stateFrameBuild => Sys2Proof.Machine.execStateFrameBuild s
  | .fullsetFrameBuild => Sys2Proof.Machine.execFullsetFrameBuild s
  | .summaryFrameBuild => Sys2Proof.Machine.execSummaryFrameBuild s
  | .resyncFrameBuild => Sys2Proof.Machine.execResyncFrameBuild s
  | .transferEnd bytes => Sys2Proof.Machine.execTransferEnd bytes s
  | .linkTransmitterTake => Sys2Proof.Machine.execLinkTransmitterTake s
  | .answerPlaced ch => Sys2Proof.Machine.execAnswerPlaced ch s
  | .noticePendingPlaced ch => Sys2Proof.Machine.execNoticePendingPlaced ch s
  | .listMessagePlaced ch => Sys2Proof.Machine.execListMessagePlaced ch s
  | .bundleMessagePlaced ch => Sys2Proof.Machine.execBundleMessagePlaced ch s
  | .idle ch fields => Sys2Proof.Machine.execIdle ch fields s
  | .attach ch fields => Sys2Proof.Machine.execAttach ch fields s
  | .detach ch fields => Sys2Proof.Machine.execDetach ch fields s
  | .sheet ch fields => Sys2Proof.Machine.execSheet ch fields s
  | .watch ch fields => Sys2Proof.Machine.execWatch ch fields s
  | .unwatch ch fields => Sys2Proof.Machine.execUnwatch ch fields s
  | .mark ch fields => Sys2Proof.Machine.execMark ch fields s
  | .unmark ch fields => Sys2Proof.Machine.execUnmark ch fields s
  | .isolate ch fields => Sys2Proof.Machine.execIsolate ch fields s
  | .deisolate ch fields => Sys2Proof.Machine.execDeisolate ch fields s
  | .restore ch fields => Sys2Proof.Machine.execRestore ch fields s
  | .list ch fields => Sys2Proof.Machine.execList ch fields s
  | .stations ch fields => Sys2Proof.Machine.execStations ch fields s
  | .collect ch fields => Sys2Proof.Machine.execCollect ch fields s
  | .lineBusy afterEndGap => Sys2Proof.Machine.execLineBusy afterEndGap s
  | .badCheckMessage bytes => Sys2Proof.Machine.execBadCheckMessage bytes s
  | .lengthOutOfRange len => Sys2Proof.Machine.execLengthOutOfRange len s
  | .strayChannelMessage channel typeAndFields => Sys2Proof.Machine.execStrayChannelMessage channel typeAndFields s
  | .unknownTypeRequest ch type fields => Sys2Proof.Machine.execUnknownTypeRequest ch type fields s

end Sys2Proof.Machine
end

