-- ==== Sys2Proof/Safety.lean ====
section
/-!
DEFINITION. The properties of a state that every step keeps, and the sets of commands that statements
speak of.
-/
namespace Sys2Proof.Machine

/-! ## Outbound queues (R170, R171) -/

/-- A queue never holds more than 24 messages, and at most 20 while the condensed flag is clear. -/
def Channel.QueueOk (c : Channel) : Prop :=
  c.queue.length ≤ 24 ∧ (c.condensed = false → c.queue.length ≤ 20)

/-- The outbound queue of every channel is within its bounds (R170, R171). -/
def QueuesOk (s : State) : Prop := ∀ ch, (s.channel ch).QueueOk

/-! ## The Picture Table (R17) -/

/-- The entries stand in strictly rising point address. -/
def Rising : List Entry → Prop
  | [] => True
  | e :: l => (∀ x ∈ l, e.addr.before x.addr = true) ∧ Rising l

/-- No two entries share an address, every local index is one of the 80, and the foreign entries fit the
pool (R17): with the 80 places of the own reserve there are at most 640 entries. -/
def TableOk (s : State) : Prop :=
  Rising s.entries ∧ (∀ e ∈ s.entries, e.addr.index ≤ 79) ∧ s.foreign.length ≤ 560

/-! ## The Incident Monitor (R107) -/

/-- The origin record is empty exactly when the state is QUIET, and the hold timer runs only while the
state is ACTIVE and the alarm count is 0 (R107). -/
def IncidentOk (m : IncidentMonitor) : Prop :=
  (m.active = m.origin.isSome) ∧ (m.hold.isSome = true → m.active = true ∧ m.alarmCount = 0)

/-- The table is as R17 bounds it, the Monitor's alarm count is the number of ALARM entries held (R107),
and the Monitor's state, record and hold timer agree. -/
def PictureOk (s : State) : Prop :=
  TableOk s ∧ s.incident.alarmCount = s.alarmsHeld ∧ IncidentOk s.incident

/-! ## The late set (R137) -/

/-- A late set holds at most 32 addresses without duplicates, and is empty while the bundle is IDLE. -/
def Bundle.LateOk (b : Bundle) : Prop :=
  b.late.length ≤ 32 ∧ b.late.Nodup ∧ (b.state = .idle → b.late = [])

/-- The late set of every channel's bundle is within its bounds (R137). -/
def LateSetsOk (s : State) : Prop := ∀ ch, (s.bundle ch).LateOk

/-! ## Sizes and bounded counters -/

/-- An IDLE read engine leaves no request waiting (R127). -/
def PlanStore.EngineOk (p : PlanStore) : Prop :=
  p.engine = .idle → p.mainQueue = [] ∧ p.promoteQueue = []

/-! ## The read budget (R126, R137) -/

/-- The reads of one requester that wait or are in flight, and will be answered. An orphaned read is none of
them. -/
def PlanStore.readsOf (p : PlanStore) (who : Requester) : List ReadRequest :=
  (match p.engine with
    | .first r false => [r]
    | .second r false => [r]
    | _ => []).filter (fun r => r.who == who) ++
  p.promoteQueue.filter (fun r => r.who == who) ++ p.mainQueue.filter (fun r => r.who == who)

/-- The read in flight where it is orphaned (R130). -/
def PlanStore.orphan (p : PlanStore) : Option ReadRequest :=
  match p.engine with
  | .first r true => some r
  | .second r true => some r
  | _ => none

/-- The orphaned reads of a channel: at most the one in flight (R130). -/
def PlanStore.orphansOf (p : PlanStore) (ch : Fin 4) : Nat :=
  if p.orphan.map ReadRequest.who = some (.channel ch) then 1 else 0

/-- The message that may wait while the bundle is in its state (R138 to R149): an END ABORTED of the bundle
before it, or one of its own. -/
def Bundle.PendingOk (b : Bundle) : Prop :=
  match b.pendingMsg, b.state with
  | none, _ => True
  | some (.bundleEnd _ _ _ _ _ .aborted), .lookup => True
  | some (.bundleEnd _ _ _ _ _ .aborted), .stream => b.head = .owed
  | some (.bundleHead ..), .stream => b.head = .waiting
  | some (.block ..), .stream => b.head = .placed ∧ b.buffer ≠ []
  | some (.overlay ..), .overlay => True
  | some (.bundleEnd _ _ _ _ _ code), .overlay => code ≠ .aborted
  | some (.markUpdate ..), .closing => True
  | _, _ => False

/-- A bundle's outstanding reads are those that wait or are in flight for it, orphaned ones included, and they
and its buffered blocks are at most 2 (R137). A bundle in LOOKUP owes its HEAD and awaits its handle alone; one
in STREAM awaits blocks, those it has asked for being placed, buffered or awaited; any other awaits nothing
and holds no block. -/
def Bundle.ReadsOk (b : Bundle) (reads : List ReadRequest) (orphans : Nat) : Prop :=
  b.outstanding = reads.length + orphans ∧ b.outstanding + b.buffer.length ≤ 2 ∧ b.PendingOk ∧
    match b.state with
    | .lookup => (∃ r n, reads = [r] ∧ r.what = .handle n) ∧ b.buffer = [] ∧ b.head = .owed ∧
        b.readCursor = 0 ∧ b.blockCursor = 0
    | .stream => (∀ r ∈ reads, r.what = .block) ∧ ∃ h, b.handle = some h ∧
        b.readCursor = b.blockCursor + b.buffer.length + reads.length ∧ b.readCursor ≤ h.blockCount
    | _ => reads = [] ∧ b.buffer = []

/-- While the part is not held by its reset input, every bundle's reads are as they should be, the loader's
read is one at most and that only while LOADING, when every bundle is IDLE, and no read of the loader is
orphaned (R125, R126, R137). -/
def ReadsOk (s : State) : Prop :=
  s.control.resetHeld = false →
    (∀ ch, (s.bundle ch).ReadsOk (s.store.readsOf (.channel ch)) (s.store.orphansOf ch)) ∧
    (s.store.readsOf .loader).length ≤ (if s.control.running then 0 else 1) ∧
    (s.control.running = false → ∀ ch, (s.bundle ch).state = .idle) ∧
    (∀ r, s.store.orphan = some r → r.who ≠ .loader)

/-- The clearing copies: one place for each marker slot, and those of the frame in the slot are of marker
slots (R89). -/
def Publisher.CopiesOk (p : Publisher) : Prop :=
  p.copies.length = 16 ∧ ∀ i ∈ p.copiesInFlight, 64 ≤ i ∧ i ≤ 79

/-- The receive queue, the main and the promote queue, the link silence timer, the stuck timer and the own
sequence number stay in their ranges (R48, R126, R153, R82, R86); there are 250 origin records, 64 channels
and 16 clearing copies (R42, R5, R86); no channel has more than 2 reads outstanding and blocks buffered (R137);
and while the part is not held by its reset input the read engine does not idle over work, and the reads are
those of ReadsOk. -/
def SizesOk (s : State) : Prop :=
  s.merge.queue.length ≤ 4 ∧ s.store.mainQueue.length ≤ 8 ∧ s.store.promoteQueue.length ≤ 2 ∧
    s.crew.linkTimer ≤ 50 ∧ s.riser.stuckTimer ≤ 20 ∧ s.pub.seq ≤ 4095 ∧ s.pub.CopiesOk ∧
    s.table.origins.length = 250 ∧ s.scanner.channels.length = 64 ∧
    (∀ ch, (s.bundle ch).outstanding + (s.bundle ch).buffer.length ≤ 2) ∧
    (s.control.resetHeld = false → s.store.EngineOk) ∧ ReadsOk s

/-! ## Frames and records within the ranges of their tables -/

/-- A place a record can carry (R183, R184). -/
def Place.InRange (p : Place) : Prop := p.sheet ≤ 1022 ∧ p.x ≤ 4095 ∧ p.y ≤ 4095

/-- A record in the ranges of R183: the kinds with the fields each carries. -/
def Record.InRange (r : Record) : Prop :=
  match r.kind with
  | .point =>
    r.index ≤ 63 ∧ r.state.suitsLoop = true ∧ r.value ≤ 255 ∧ (∀ p, r.place = some p → p.InRange) ∧
      r.loc.floor ≤ 127 ∧ r.loc.compartment ≤ 15 ∧ r.age ≤ 65535
  | .marker =>
    64 ≤ r.index ∧ r.index ≤ 79 ∧ r.state.suitsMarker = true ∧ 1 ≤ r.value ∧ r.value ≤ 4095 ∧
      (∀ p, r.place = some p → p.InRange) ∧
      r.loc.floor ≤ 127 ∧ r.loc.compartment ≤ 15 ∧ r.age ≤ 65535
  | .level =>
    r.index ≤ 63 ∧ r.state = .cleared ∧ r.value ≤ 255 ∧ r.place = none ∧ r.loc = ⟨0, 0⟩ ∧ r.age = 0

/-- The body of a frame suits its kind and the limits of R182. -/
def TxFrame.BodyOk (f : TxFrame) : Prop :=
  match f.kind, f.body with
  | .state, .records l => l.length ≤ 12
  | .fullset, .records l => l.length ≤ 12
  | .summary, .summary _ _ _ => True
  | .resync, .names l => l.length ≤ 8
  | _, _ => False

/-- A frame within the ranges of R181. -/
def TxFrame.InRange (f : TxFrame) : Prop :=
  f.station ≤ 255 ∧ f.seq ≤ 4095 ∧ f.seed ≤ 255 ∧ f.BodyOk

/-- The frame that a receiver reads from a frame sent (R181). -/
def TxFrame.received (f : TxFrame) : RxFrame :=
  { kind := f.kind, first := f.first, last := f.last, start := f.start, station := f.station,
    seq := f.seq, seed := f.seed, count := bodyCount f.body, body := encodeBody f.body }

/-! ## Commands that statements speak of -/

/-- The take of a frame of a kind. -/
def takeOf : FrameKind → Instr
  | .state => .stateFrame
  | .fullset => .fullsetFrame
  | .summary => .summaryFrame
  | .resync => .resyncFrame

/-- The requests of the hub, each with its channel, its type code, whether it is ATTACH, and whether its
fields are well formed. -/
def requestOf : Instr → Option (Fin 4 × Nat × Bool × Bool)
  | .attach ch f => some (ch, 1, true, (attachFields f).isSome)
  | .detach ch f => some (ch, 2, false, (noFields f).isSome)
  | .sheet ch f => some (ch, 3, false, (sheetFields f).isSome)
  | .watch ch f => some (ch, 4, false, (watchFields f).isSome)
  | .unwatch ch f => some (ch, 5, false, (unwatchFields f).isSome)
  | .mark ch f => some (ch, 6, false, (markFields f).isSome)
  | .unmark ch f => some (ch, 7, false, (unmarkFields f).isSome)
  | .isolate ch f => some (ch, 8, false, (pointFields f).isSome)
  | .deisolate ch f => some (ch, 9, false, (pointFields f).isSome)
  | .restore ch f => some (ch, 10, false, (pointFields f).isSome)
  | .list ch f => some (ch, 11, false, (listFields f).isSome)
  | .stations ch f => some (ch, 12, false, (stationsFields f).isSome)
  | .collect ch f => some (ch, 13, false, (noFields f).isSome)
  | .unknownTypeRequest ch t _ => if isHubType t.toNat then none else some (ch, t.toNat, false, false)
  | _ => none

/-- The bytes that a command of the crew port puts on the link (R185, R186; log 16): none for a command that is
not of the crew port, and for one whose bytes are not what it names. -/
def bytesOf : Instr → Option (List Byte)
  | .idle ch f => some (messageBytes (byte ch.val) 0 f)
  | .attach ch f => some (messageBytes (byte ch.val) 1 f)
  | .detach ch f => some (messageBytes (byte ch.val) 2 f)
  | .sheet ch f => some (messageBytes (byte ch.val) 3 f)
  | .watch ch f => some (messageBytes (byte ch.val) 4 f)
  | .unwatch ch f => some (messageBytes (byte ch.val) 5 f)
  | .mark ch f => some (messageBytes (byte ch.val) 6 f)
  | .unmark ch f => some (messageBytes (byte ch.val) 7 f)
  | .isolate ch f => some (messageBytes (byte ch.val) 8 f)
  | .deisolate ch f => some (messageBytes (byte ch.val) 9 f)
  | .restore ch f => some (messageBytes (byte ch.val) 10 f)
  | .list ch f => some (messageBytes (byte ch.val) 11 f)
  | .stations ch f => some (messageBytes (byte ch.val) 12 f)
  | .collect ch f => some (messageBytes (byte ch.val) 13 f)
  | .badCheckMessage b => if (linkEvents b).1.head? = some .badCheck then some b else none
  | .lengthOutOfRange len =>
    if len.toNat < 2 ∨ 259 < len.toNat then some [0xA5, byte (len.toNat / 256), byte len.toNat] else none
  | .strayChannelMessage c (ty :: f) => if 3 < c.toNat then some (messageBytes c ty f) else none
  | .unknownTypeRequest ch ty f =>
    if ty.toNat ≤ 13 then none else some (messageBytes (byte ch.val) ty f)
  | _ => none

/-- The blocks that follow the picture stand in `t` as they do in `s`: the crew port, the bundles and the
Incident Monitor (R21). -/
def FollowersSame (s t : State) : Prop :=
  t.crew = s.crew ∧ t.bundles = s.bundles ∧ t.incident = s.incident

/-- The picture change that a write of `new` over the held entry `old` produces, by the first row of R22 that
applies: STATE, LEVEL, CONFIRM or none, with the previous state and sheet of R21. -/
def WriteProduces (old new : Entry) (pc : Option PictureChange) : Prop :=
  let left := if sheetOf old.place = sheetOf new.place then none else some (sheetOf old.place)
  (old.state ≠ new.state → pc = some
    { kind := .state, entry := new, prevState := some old.state, prevSheet := left }) ∧
  (old.state = new.state →
    (old.datum ≠ new.datum ∨ old.loc ≠ new.loc ∨ old.place ≠ new.place → pc = some
      { kind := .level, entry := new, prevState := none, prevSheet := left }) ∧
    (old.datum = new.datum → old.loc = new.loc → old.place = new.place →
      (old.confirmed = false ∧ new.confirmed = true → pc = some
        { kind := .confirm, entry := new, prevState := none, prevSheet := none }) ∧
      (old.confirmed = true ∨ new.confirmed = false → pc = none)))

/-- The blocks that follow the picture stand in `t` as the write of `new` over the held entry `old` in `s`
leaves them: told of its picture change, and then of the REMOVE where the entry is `gone` at once (R22, R27). -/
def ToldOfWrite (old new : Entry) (gone : Bool) (s t : State) : Prop :=
  ∃ pc, WriteProduces old new pc ∧ ∀ told : State,
    told = (match pc with
      | some pc => emit pc (s.putEntry new)
      | none => s.putEntry new) →
    FollowersSame (if gone then
      emit { kind := .remove, entry := new, prevState := none, prevSheet := none } (told.dropEntry new.addr)
    else told) t

/-- What the whole part but one channel's crew state leaves unchanged. -/
def SameBesidesCrew (s t : State) : Prop :=
  t.control = s.control ∧ t.scanner = s.scanner ∧ t.table = s.table ∧ t.merge = s.merge ∧
    t.riser = s.riser ∧ t.pub = s.pub ∧ t.incident = s.incident ∧ t.store = s.store ∧
    t.bundles = s.bundles ∧ t.due = s.due ∧ t.pending = s.pending

/-- Every crew channel but one is unchanged. -/
def OtherChannelsSame (ch : Fin 4) (s t : State) : Prop := ∀ d, d ≠ ch → t.channel d = s.channel d

/-- What the crew port holds besides its channels and its link silence timer is unchanged. -/
def PortSame (s t : State) : Prop :=
  t.crew.lastServed = s.crew.lastServed ∧ t.crew.sending = s.crew.sending ∧
    t.crew.badCheck = s.crew.badCheck ∧ t.crew.stray = s.crew.stray ∧ t.crew.busy = s.crew.busy ∧
    t.crew.notifyVector = s.crew.notifyVector ∧ t.crew.receiver = s.crew.receiver

/-- What a request leaves alone when it bears on its own channel only. -/
def RequestFrame (ch : Fin 4) (s t : State) : Prop :=
  SameBesidesCrew s t ∧ OtherChannelsSame ch s t ∧ PortSame s t ∧ t.crew.linkTimer = 0

/-- An answer composed on a channel without a pending one: at the tail of the queue where a place is free,
and pending otherwise (R156, R170). -/
def Answered (c d : Channel) (m : Message) : Prop :=
  (c.queue.length < 24 → d.queue = c.queue ++ [m] ∧ d.pendingAnswer = none) ∧
    (24 ≤ c.queue.length → d.queue = c.queue ∧ d.pendingAnswer = some m)

/-- What an answer leaves of its channel. -/
def BesidesAnswerSame (c d : Channel) : Prop :=
  d.attached = c.attached ∧ d.currentSheet = c.currentSheet ∧ d.watch0 = c.watch0 ∧
    d.watch1 = c.watch1 ∧ d.notices = c.notices ∧ d.noticePending = c.noticePending ∧
    d.list = c.list ∧ d.listEnds = c.listEnds

/-- An answer stands at the tail of the channel's queue, or is its pending answer. -/
def HasAnswer (d : Channel) (m : Message) : Prop :=
  d.queue.getLast? = some m ∨ d.pendingAnswer = some m

/-- Nothing of a channel waits for room but the bundle's message. -/
def OnlyBundleWaits (c : Channel) : Prop :=
  c.pendingAnswer = none ∧ c.noticePending = false ∧ c.list = none ∧ c.listEnds = []

/-- A frame stands in the transmit slot as it does right after its placing (R72, R73). -/
def Placed (f : TxFrame) (s t : State) : Prop :=
  t.riser.tx = if s.riser.quiet then .sending f 0 else .waiting f 0

/-- The header fields of a frame built by the Publisher (R92). -/
def HeaderOf (f : TxFrame) (s : State) : Prop :=
  f.station = s.own ∧ f.seq = s.pub.seq ∧ f.seed = s.pub.seed

end Sys2Proof.Machine
end

