-- ==== Sys2Proof/WellFormed.lean ====
section
/-!
DEFINITION. Which commands the outside can give: the limits on operands that the spec states beyond
their types. Readings and blocks have their lengths by type; field bytes that suit no request are well
formed commands, since the part answers them BAD_REQUEST.
-/
namespace Sys2Proof
open Sys2Proof.Machine

/-- The most field bytes a message of the hub can carry: L is at most 259 and counts two more (R185, R186). -/
def longestFields : Nat := 257

/-- The bytes begin, behind what the hunt passes over, with a whole message whose check fails (R152 case 1,
R185, R186). -/
def isBadCheck (bytes : List Byte) : Bool := firstLinkEvent bytes == some .badCheck

/-- The length field is one at which the receiver discards the message at once (R186). -/
def isBadLength (len : Word16) : Bool := lengthOutOfRange len.toNat

/-- The fields fit a message (R185, R186). -/
def fieldsFit (fields : List Byte) : Bool := decide (fields.length ≤ longestFields)

/-- A station number that names an origin record (R42). -/
def isStation (n : Nat) : Bool := decide (1 ≤ n ∧ n ≤ 250)

/-- The command is one that the outside, or a moment inside the part, can bring. -/
def Instr.wellFormed (i : Instr) : Bool :=
  match i with
  | .coldStart _ => true
  | .resetAssert => true
  | .warmRestart _ => true
  | .tick _ _ => true
  | .silenceExpiry x => isStation x
  | .holdExpiry => true
  | .recoveryStart => true
  | .incidentHoldExpiry => true
  | .awaitTimerExpiry x => isStation x
  | .summaryCounterExpiry => true
  | .stuckEvent => true
  | .linkLoss => true
  | .lineQuietEvent => true
  | .mismatch n => decide (n < Config.longestFrame)
  | .backoffExpiry => true
  | .frameCompletion => true
  | .riserFrameEnd _ _ => true
  | .stateFrame => true
  | .fullsetFrame => true
  | .summaryFrame => true
  | .resyncFrame => true
  | .stateFrameBuild => true
  | .fullsetFrameBuild => true
  | .summaryFrameBuild => true
  | .resyncFrameBuild => true
  | .transferEnd _ => true
  | .linkTransmitterTake => true
  | .answerPlaced _ => true
  | .noticePendingPlaced _ => true
  | .listMessagePlaced _ => true
  | .bundleMessagePlaced _ => true
  | .idle _ f => fieldsFit f
  | .attach _ f => fieldsFit f
  | .detach _ f => fieldsFit f
  | .sheet _ f => fieldsFit f
  | .watch _ f => fieldsFit f
  | .unwatch _ f => fieldsFit f
  | .mark _ f => fieldsFit f
  | .unmark _ f => fieldsFit f
  | .isolate _ f => fieldsFit f
  | .deisolate _ f => fieldsFit f
  | .restore _ f => fieldsFit f
  | .list _ f => fieldsFit f
  | .stations _ f => fieldsFit f
  | .collect _ f => fieldsFit f
  | .lineBusy _ => true
  | .badCheckMessage b => isBadCheck b
  | .lengthOutOfRange len => isBadLength len
  | .strayChannelMessage c rest => decide (3 < c.toNat) && !rest.isEmpty && fieldsFit (rest.drop 1)
  | .unknownTypeRequest _ t f => !isHubType t.toNat && fieldsFit f

end Sys2Proof
end

