-- ==== Sys2Proof/Certificates/Slice0/Obligations.lean ====
section
/-!
DEFINITION. The statements for the provers. In a statement about a command from outside, `u` is the state
after what the part does of itself before it takes the command (`settle`, or `atOnce` for the take of a frame;
log 2).
-/
open Sys2Proof Sys2Proof.Machine

/-! ## The block and its queue -/

/-- A step runs the command at the front of the queue on the queue's rest; on an empty queue it answers
the state as it is (log 1). -/
def Obligations.StepRunsTheFrontCommand : Prop :=
  ∀ (c : Instr) (rest : List Instr) (s : State),
    step (s.withPending (c :: rest)) = exec c (s.withPending rest) ∧
      step (s.withPending []) = .next (s.withPending [])

/-- Every command is answered by a next state, and leaves the queue of waiting commands alone. -/
def Obligations.EveryCommandCompletesAndKeepsTheQueue : Prop :=
  ∀ (c : Instr) (s : State), ∃ t, exec c s = .next t ∧ t.pending = s.pending

/-! ## Resets (chapter 10) -/

/-- A part held by the reset input takes nothing, and its tick counter goes on counting (R173; that a TICK does
that alone is DEDUCED, log 28). The assertion itself stops the riser driver, the crew port transmitter and the
plan store transfer; that it is taken at once in any state, with none of the checks of the last tick made first,
is the model's choice (DESIGN CHOICE, log 32). -/
def Obligations.HeldPartOnlyCountsTicks : Prop :=
  (∀ (c : Instr) (s : State), s.control.resetHeld = true →
    (∀ st, c ≠ .coldStart st) → (∀ st, c ≠ .warmRestart st) → (∀ r o, c ≠ .tick r o) →
    c ≠ .resetAssert → exec c s = .next s) ∧
  (∀ (r : Readings) (o : TickOrder) (s : State), s.control.resetHeld = true →
    s.control.tick < 4294967295 →
    exec (.tick r o) s = .next { s with control := { s.control with tick := s.control.tick + 1 } }) ∧
  (∀ s : State, exec .resetAssert s = .next
    { s with
      control := { s.control with resetHeld := true }
      riser := { s.riser with tx := if s.riser.tx.isSending then .empty else s.riser.tx }
      crew := { s.crew with sending := none }
      store := { s.store with engine := .idle } })

/-- A cold start gives every block its cold-start values under the straps sampled, whatever the state
before (R173, R174, R177). Under the straps of log 6 the state is State.reset. -/
def Obligations.ColdStartResult : Prop :=
  (∀ s : State, exec (.coldStart resetStraps) s = .next { State.reset with pending := s.pending }) ∧
  (∀ (st : Straps) (s : State), ∃ t, exec (.coldStart st) s = .next t ∧
    t.control.straps = st ∧ t.control.tick = 0 ∧ t.control.running = false ∧
    t.control.defaultsInUse = false ∧ t.control.revision = none ∧ t.control.conditions = 1 ∧
    t.control.resetHeld = false ∧
    t.table.entries = [Entry.supplyFault st.station.toNat 0] ∧ t.table.recovery = none ∧
    t.table.origins = List.replicate 250 OriginRecord.cold ∧
    t.scanner = Scanner.reset ∧ t.merge = MergeUnit.reset ∧
    t.riser = RiserLine.reset st.station.toNat 0 ∧ t.pub = Publisher.reset ∧
    t.incident = IncidentMonitor.cold ∧ t.bundles = Four.all Bundle.reset ∧ t.crew = CrewUnit.reset ∧
    t.store.layout = none ∧ t.store.mainQueue = [] ∧ t.store.promoteQueue = [] ∧
    (1 ≤ st.station.toNat ∧ st.station.toNat ≤ 250 →
      t.control.step = .header ∧ t.store.engine = .first .header false) ∧
    (st.station.toNat = 0 ∨ 251 ≤ st.station.toNat →
      t.control.step = .held ∧ t.store.engine = .idle))

/-- A warm restart keeps the tick counter and the picture of the building: foreign entries unconfirmed, own
markers kept where the number is the same, own loop points removed, point 0 admitted in FAULT, and origin
records by the table of R44. The incident is recomputed from the entries kept (R120), the store is as after a
reset but for the loader's read of block 0 (R131, R174), and every other block takes its reset values. That it
holds of a state whose reset input was not asserted is the model's choice (DESIGN CHOICE, log 15), and so is
that checks of the last tick not yet made are dropped (DESIGN CHOICE, log 32). -/
def Obligations.WarmRestartKeepsThePicture : Prop :=
  ∀ (st : Straps) (s : State), TableOk s → ∃ t, exec (.warmRestart st) s = .next t ∧
    t.control.tick = s.control.tick ∧ t.control.straps = st ∧ t.control.running = false ∧
    t.control.conditions = 1 ∧ t.control.resetHeld = false ∧
    (∀ a : Address, a.station ≠ s.own → a.station ≠ st.station.toNat →
      t.entryAt a = (s.entryAt a).map (fun e => { e with confirmed := false, sweep := false })) ∧
    (∀ i, 64 ≤ i → t.entryAt ⟨st.station.toNat, i⟩ =
      if st.station.toNat = s.own then s.entryAt ⟨s.own, i⟩ else none) ∧
    (∀ i, i < 64 → t.entryAt ⟨st.station.toNat, i⟩ =
      if i = 0 then some (Entry.supplyFault st.station.toNat s.control.tick) else none) ∧
    (st.station.toNat ≠ s.own → ∀ i, t.entryAt ⟨s.own, i⟩ = none) ∧
    (∀ x, x ≠ st.station.toNat → 1 ≤ x → x ≤ s.table.origins.length →
      (t.origin x).status = (if (∃ e ∈ t.entries, e.addr.station = x) then .silent else .unknown) ∧
      (t.origin x).held = none ∧ (t.origin x).interval = (s.origin x).interval ∧
      (t.origin x).silence = 0 ∧ (t.origin x).overflow = (s.origin x).overflow ∧
      (t.origin x).revision = (s.origin x).revision ∧
      (t.origin x).conditions = (s.origin x).conditions ∧ (t.origin x).resync = .none) ∧
    t.table.recovery = none ∧ t.table.clearHold = 600 ∧ t.scanner = Scanner.reset ∧
    t.merge = MergeUnit.reset ∧
    t.riser = RiserLine.reset st.station.toNat s.control.tick ∧ t.pub = Publisher.reset ∧
    t.bundles = Four.all Bundle.reset ∧ t.crew = CrewUnit.reset ∧
    t.incident.alarmCount = (t.entries.filter (fun e => e.state == .alarm)).length ∧
    (t.incident.active = true ↔ ∃ e ∈ t.entries, e.state = .alarm) ∧
    ((∀ e ∈ t.entries, e.state ≠ .alarm) → t.incident.origin = none) ∧
    (∀ e ∈ t.entries, e.state = .alarm →
      (∀ x ∈ t.entries, x.state = .alarm → x.addr ≠ e.addr → e.localSince < x.localSince ∨
        (e.localSince = x.localSince ∧ e.addr.before x.addr = true)) →
      t.incident.origin = some ⟨e.addr, e.loc, e.localSince⟩) ∧
    t.incident.vertical = false ∧ t.incident.lateral = false ∧ t.incident.hold = none ∧
    t.incident.incidentHold = 3000 ∧ t.incident.spreadFloors = 2 ∧
    t.incident.groups = List.replicate 16 0 ∧
    t.store.layout = none ∧ t.store.mainQueue = [] ∧ t.store.promoteQueue = [] ∧
    t.store.rereads = 0 ∧ t.store.damaged = 0 ∧ t.store.absent = 0 ∧
    t.control.defaultsInUse = false ∧ t.control.revision = none ∧ t.control.loadedRecord = none ∧
    (1 ≤ st.station.toNat ∧ st.station.toNat ≤ 250 →
      t.control.step = .header ∧ t.store.engine = .first .header false) ∧
    (st.station.toNat = 0 ∨ 251 ≤ st.station.toNat →
      t.control.step = .held ∧ t.store.engine = .idle)

/-- The values that the spec's tables give for a cold start stand in State.reset (R5, R44, R48, R71, R86, R107,
R131, R137, R155, R172), its straps and the read of block 0 in flight apart (log 6). -/
def Obligations.ResetLeavesTheTableValues : Prop :=
  State.reset.control.running = false ∧ State.reset.control.defaultsInUse = false ∧
  State.reset.control.revision = none ∧ State.reset.control.loadedRecord = none ∧
  State.reset.control.tick = 0 ∧ State.reset.hasCondition .supply = true ∧
  (∀ c : Condition, c ≠ .supply → State.reset.hasCondition c = false) ∧
  State.reset.merge.queue = [] ∧ State.reset.merge.overrun = 0 ∧ State.reset.merge.rejected = 0 ∧
  State.reset.merge.repeats = 0 ∧ State.reset.merge.old = 0 ∧
  State.reset.riser.tx = .empty ∧ State.reset.riser.quiet = false ∧ State.reset.riser.stuckTimer = 0 ∧
  State.reset.riser.rx = .idle ∧ State.reset.riser.collisionTotal = 0 ∧ State.reset.riser.giveUps = 0 ∧
  State.reset.riser.checkErrors = 0 ∧ State.reset.riser.lengthErrors = 0 ∧
  State.reset.riser.stuckCount = 0 ∧
  State.reset.pub.change = [] ∧ State.reset.pub.level = [] ∧ State.reset.pub.seq = 0 ∧
  State.reset.pub.summaryCounter = 64 ∧ State.reset.pub.fullsetDue = true ∧
  State.reset.pub.startPending = true ∧ State.reset.pub.cursor = none ∧
  State.reset.pub.frameStart = none ∧ (∀ i, State.reset.pub.copyAt i = none) ∧
  State.reset.incident.active = false ∧ State.reset.incident.alarmCount = 0 ∧
  State.reset.incident.origin = none ∧ State.reset.incident.hold = none ∧
  State.reset.incident.incidentHold = 3000 ∧ State.reset.incident.spreadFloors = 2 ∧
  State.reset.incident.vertical = false ∧ State.reset.incident.lateral = false ∧
  (∀ c, c < 16 → State.reset.incident.groups.getD c 1 = 0) ∧
  State.reset.incident.groups.length = 16 ∧
  State.reset.scanner.channels.length = 64 ∧ State.reset.scanner.divider = 1 ∧
  (∀ i, i < 64 → State.reset.scanner.chan i =
    { state := if i = 0 then .fault else .normal, candidate := none, counter := 0, armed := false,
      lastLevel := 0 }) ∧
  State.reset.table.origins.length = 250 ∧ State.reset.table.recovery = none ∧
  (∀ x, 1 ≤ x → x ≤ 250 → State.reset.origin x =
    { status := .unknown, held := none, interval := 64, silence := 0, overflow := false,
      revision := none, conditions := none, resync := .none }) ∧
  State.reset.store.layout = none ∧ State.reset.store.mainQueue = [] ∧
  State.reset.store.promoteQueue = [] ∧ State.reset.store.rereads = 0 ∧
  State.reset.store.damaged = 0 ∧ State.reset.store.absent = 0 ∧
  (∀ ch, State.reset.bundle ch =
    { state := .idle, sheet := none, handle := none, urgent := false, readCursor := 0,
      blockCursor := 0, outstanding := 0, buffer := [], pendingMsg := none, head := .owed,
      snapshot := [], matching := 0, overlayCursor := 0, late := [], damagedCount := 0,
      pendingSheet := none }) ∧
  (∀ ch, State.reset.channel ch =
    { attached := none, currentSheet := none, watch0 := none, watch1 := none, notices := 0,
      noticePending := false, pendingAnswer := none, queue := [], condensed := false, list := none,
      listEnds := [] }) ∧
  State.reset.crew.linkTimer = 0 ∧ State.reset.crew.lastServed = 3 ∧ State.reset.crew.badCheck = 0 ∧
  State.reset.crew.stray = 0 ∧ State.reset.crew.busy = 0 ∧ State.reset.crew.notifyVector = 0xFFFF

/-! ## The tick and the expiries -/

/-- A tick moves the tick counter and the timers of every block, and a LOADING station scans nothing (R5,
R67, R82, R94, R106, R153, R172). That the origins past their silence limit wait in `due` for their check is the
model's form (DEDUCED, log 2). -/
def Obligations.TickAdvancesTheTimers : Prop :=
  ∀ (r : Readings) (s u : State), s.control.resetHeld = false → u = settle s →
    u.control.tick < 4294967295 →
    (∃ t, exec (.tick r .expiriesFirst) s = .next t ∧ t.control.tick = u.control.tick + 1) ∧
    ∃ t, exec (.tick r .scanFirst) s = .next t ∧
      t.control.tick = u.control.tick + 1 ∧
      t.crew.linkTimer = min (u.crew.linkTimer + 1) 50 ∧
      t.riser.stuckTimer =
        (if u.riser.quiet ∨ u.riser.quietSeen then 0 else min (u.riser.stuckTimer + 1) 20) ∧
      t.pub.summaryCounter =
        (if u.control.running then u.pub.summaryCounter - 1 else u.pub.summaryCounter) ∧
      (∀ x, (t.origin x).silence =
        if (u.origin x).status = .unknown ∨ u.control.step = .held then (u.origin x).silence
        else min ((u.origin x).silence + 1) 65535) ∧
      (∀ x n, (u.origin x).resync = .awaiting n → (t.origin x).resync = .awaiting (n - 1)) ∧
      (∀ x, x ∈ t.due.silence ↔ 1 ≤ x ∧ x ≤ u.table.origins.length ∧ u.control.step ≠ .held ∧
        ((t.origin x).status = .live ∨ (t.origin x).status = .gapped ∨
          (t.origin x).status = .resyncing) ∧
        3 * (t.origin x).interval + 2 < (t.origin x).silence) ∧
      (u.control.running = false →
        t.scanner = u.scanner ∧ t.table.entries = u.table.entries ∧ t.crew.channels = u.crew.channels ∧
        t.incident.hold = u.incident.hold.map (fun n => min (n + 1) 65535))

/-- A CLEARED entry whose hold has run out is removed with REMOVE, in rising address, and every other entry
stands (R22, R26). An own marker removed hands its crew id, place and location to its slot's clearing copy, which
then is none that a frame in the slot was built from, and every other copy stands (R89). -/
def Obligations.HoldExpiryRemovesWhatIsHeldOut : Prop :=
  ∀ s : State, s.control.resetHeld = false → s.due.hold = true → TableOk s →
    ∃ t, exec .holdExpiry s = .next t ∧ t.due.hold = false ∧
      (∀ a, t.entryAt a = (s.entryAt a).filter (fun e =>
        !(decide (e.state = .cleared ∧ s.table.clearHold ≤ s.now - e.localSince)))) ∧
      FollowersSame ((s.entries.filter (fun e =>
          decide (e.state = .cleared ∧ s.table.clearHold ≤ s.now - e.localSince))).foldl
        (fun u e => emit ⟨.remove, e, none, none⟩
          (u.dropEntry e.addr)) s) t ∧
      (∀ i e, 64 ≤ i → s.pub.copies.length = 16 → s.ownAt i = some e → e.state = .cleared →
        s.table.clearHold ≤ s.now - e.localSince →
        t.pub.copyAt i = some { crew := e.datum.value, place := e.place, loc := e.loc } ∧
          i ∉ t.pub.copiesInFlight) ∧
      (∀ i, (∀ e, s.ownAt i = some e → e.state = .cleared → s.now - e.localSince < s.table.clearHold) →
        t.pub.copyAt i = s.pub.copyAt i ∧ (i ∈ t.pub.copiesInFlight ↔ i ∈ s.pub.copiesInFlight)) ∧
      t.table.origins = s.table.origins ∧ t.table.recovery = s.table.recovery ∧
      t.scanner = s.scanner ∧ t.merge = s.merge ∧ t.riser = s.riser ∧ t.store = s.store ∧
      t.control = s.control ∧ t.pub.change = s.pub.change ∧ t.pub.level = s.pub.level

/-- The recovery check: the lowest-numbered origin with its overflow flag set that is neither SILENT nor
UNKNOWN enters the slot and becomes WANTED if it was NONE; otherwise nothing starts (R38). -/
def Obligations.RecoveryStartTakesTheLowestOrigin : Prop :=
  ∀ s : State, s.control.resetHeld = false → s.due.recovery = true →
    (∀ x, s.table.recovery = none → 64 ≤ s.freeCount → 1 ≤ x → x ≤ s.table.origins.length →
      (s.origin x).overflow = true → (s.origin x).status ≠ .silent → (s.origin x).status ≠ .unknown →
      (∀ y, 1 ≤ y → y < x → ¬((s.origin y).overflow = true ∧ (s.origin y).status ≠ .silent ∧
        (s.origin y).status ≠ .unknown)) →
      ∃ t, exec .recoveryStart s = .next t ∧ t.table.recovery = some ⟨x, false⟩ ∧
        (t.origin x).resync = (if (s.origin x).resync = .none then .wanted else (s.origin x).resync) ∧
        (∀ y, y ≠ x → t.origin y = s.origin y) ∧ t.table.entries = s.table.entries) ∧
    ((s.table.recovery ≠ none ∨ s.freeCount < 64 ∨
        ∀ x, 1 ≤ x → x ≤ s.table.origins.length → ¬((s.origin x).overflow = true ∧
          (s.origin x).status ≠ .silent ∧ (s.origin x).status ≠ .unknown)) →
      ∃ t, exec .recoveryStart s = .next t ∧ t.table = s.table)

/-- An origin that a tick found past three declared intervals and two ticks of silence becomes SILENT: its
entries are unconfirmed without their sweep marks, each that was CONFIRMED with UNCONFIRM in rising address
(R22, R29), its recovery ends and its resync state is NONE (R67, R68),
and ORIGIN_SILENT is raised on every attached channel if and only if it holds an ALARM entry (R119). That the
finding waits in `due` until the check is made is the model's form (DEDUCED, log 2). -/
def Obligations.SilenceExpirySilencesTheOrigin : Prop :=
  ∀ (x : Nat) (s : State), s.control.resetHeld = false → TableOk s → 1 ≤ x →
    x ≤ s.table.origins.length → x ∈ s.due.silence →
    (s.origin x).status = .live ∨ (s.origin x).status = .gapped ∨ (s.origin x).status = .resyncing →
    3 * (s.origin x).interval + 2 < (s.origin x).silence →
    ∃ t, exec (.silenceExpiry x) s = .next t ∧
      t.origin x = { s.origin x with status := .silent, resync := .none } ∧
      (∀ y, y ≠ x → t.origin y = s.origin y) ∧
      (∀ a : Address, t.entryAt a = (s.entryAt a).map (fun e =>
        if e.addr.station = x then { e with confirmed := false, sweep := false } else e)) ∧
      (∀ r, t.table.recovery = some r → r.origin ≠ x) ∧
      (∀ told : State, told = ((s.entries.filter (fun e => e.addr.station == x && e.confirmed)).map
          (fun e => { e with confirmed := false, sweep := false })).foldl
          (fun u e => emit ⟨.unconfirm, e, none, none⟩ u) s →
        t.bundles = told.bundles ∧
        ((∀ e ∈ s.entries, e.addr.station = x → e.state ≠ .alarm) → t.crew = told.crew) ∧
        ((∃ e ∈ s.entries, e.addr.station = x ∧ e.state = .alarm) →
          t.crew = (told.raiseAll .originSilent).crew)) ∧
      ((∃ e ∈ s.entries, e.addr.station = x ∧ e.state = .alarm) → ∀ ch, s.isAttached ch = true →
        NoticeSet.has (t.channel ch).notices .originSilent = true) ∧
      ((∀ e ∈ s.entries, e.addr.station = x → e.state ≠ .alarm) → ∀ ch,
        NoticeSet.has (t.channel ch).notices .originSilent =
          NoticeSet.has (s.channel ch).notices .originSilent) ∧
      t.incident = s.incident ∧ t.pub = s.pub ∧ t.scanner = s.scanner ∧ t.riser = s.riser

/-- The four expiries that move one value: an await timer at 0 makes its origin WANTED (R106), the summary
counter at 0 makes a SUMMARY due (R94), the hold timer at IncidentHold ends the incident (R114), and the
stuck timer at 20 sets LINE and raises the stuck count (R82). -/
def Obligations.TimerExpiriesTakeEffect : Prop :=
  (∀ (x : Nat) (s : State), s.control.resetHeld = false → 1 ≤ x → x ≤ s.table.origins.length →
    (s.origin x).resync = .awaiting 0 →
    ∃ t, exec (.awaitTimerExpiry x) s = .next t ∧
      t.origin x = { s.origin x with resync := .wanted } ∧ (∀ y, y ≠ x → t.origin y = s.origin y) ∧
      t.table.entries = s.table.entries ∧ t.table.recovery = s.table.recovery ∧ t.crew = s.crew) ∧
  (∀ s : State, s.control.resetHeld = false → s.control.running = true → s.pub.summaryCounter = 0 →
    exec .summaryCounterExpiry s = .next { s with pub := { s.pub with summaryDue := true } }) ∧
  (∀ (n : Nat) (s : State), s.control.resetHeld = false → s.due.incidentHold = true →
    s.incident.hold = some n → s.incident.incidentHold ≤ n →
    exec .incidentHoldExpiry s = .next
      { s with
        due := { s.due with incidentHold := false }
        incident := { s.incident with
          active := false, origin := none, vertical := false, lateral := false, hold := none } }) ∧
  (∀ s : State, s.control.resetHeld = false → s.due.stuck = true →
    ∃ t, exec .stuckEvent s = .next t ∧ t.hasCondition .line = true ∧
      t.riser = { s.riser with stuckCount := min (s.riser.stuckCount + 1) 65535 } ∧
      t.due.stuck = false ∧ t.table = s.table ∧ t.pub = s.pub ∧ t.incident = s.incident ∧
      (s.hasCondition .line = false → ∀ ch, s.isAttached ch = true →
        NoticeSet.has (t.channel ch).notices .stationFault = true) ∧
      (s.hasCondition .line = true → t.crew = s.crew))

/-- The loss of the link leaves every channel as after a reset with its bundle IDLE, and lets the message
being sent finish (R153, R158, R149). That a FREE channel too is left as after a reset, its condensed flag
cleared without a RESUME, is the model's reading (DEDUCED, log 19). -/
def Obligations.LinkLossFreesEveryChannel : Prop :=
  ∀ s : State, s.control.resetHeld = false → s.due.linkLoss = true →
    ∃ t, exec .linkLoss s = .next t ∧ t.due.linkLoss = false ∧
      (∀ ch, t.channel ch = Channel.reset ∧ (t.bundle ch).state = .idle) ∧
      t.crew.sending = s.crew.sending ∧ t.crew.linkTimer = s.crew.linkTimer ∧
      t.table = s.table ∧ t.scanner = s.scanner ∧ t.pub = s.pub ∧ t.incident = s.incident ∧
      t.riser = s.riser ∧ t.merge = s.merge ∧ t.control = s.control

/-! ## Point scanning (chapter 1) -/

/-- The reading of a channel and the band it lies in (R3), and the effective band that the channel's kind makes
of it, with its target state and confirm count (R4). -/
def Obligations.ReadingLiesInItsBand : Prop :=
  (∀ raw : Byte, readingOf true raw = 255 - raw.toNat ∧ readingOf false raw = raw.toNat) ∧
  (∀ (t : Thresholds) (v : Nat), t.faultLow < t.pre → t.pre ≤ t.alarm → t.alarm ≤ 254 → v ≤ 255 →
    (v ≤ t.faultLow → bandOf t v = .fault) ∧
    (t.faultLow < v ∧ v < t.pre → bandOf t v = .normal) ∧
    (t.pre ≤ v ∧ v < t.alarm → bandOf t v = .prealarm) ∧
    (t.alarm ≤ v ∧ v ≤ 254 → bandOf t v = .alarm) ∧
    (v = 255 → bandOf t v = .fault)) ∧
  (∀ k : ChannelKind, k ≠ .unused →
    effectiveBand k .fault = .fault ∧ effectiveBand k .normal = .normal ∧
    effectiveBand k .prealarm = (if k = .detector then .prealarm else .normal) ∧
    effectiveBand k .alarm = (if k = .supervisory then .fault else .alarm)) ∧
  (Band.normal.target = .normal ∧ Band.prealarm.target = .prealarm ∧ Band.alarm.target = .alarm ∧
    Band.fault.target = .fault) ∧
  (∀ c : ScanConfig, c.confirmCount .normal = c.releaseCount ∧
    c.confirmCount .prealarm = c.prealarmConfirm ∧ c.confirmCount .alarm = c.alarmConfirm ∧
    c.confirmCount .fault = c.faultConfirm)

/-- Whatever a configuration record gives, the thresholds taken are in order and the counts in range (R2);
a confirm count above 15 takes a free value of the range (log 10). -/
def Obligations.ConfigurationIsNormalised : Prop :=
  (∀ t : Thresholds, t.faultLow ≤ 255 → t.pre ≤ 255 → t.alarm ≤ 255 →
    (orderThresholds t).faultLow < (orderThresholds t).pre ∧
    (orderThresholds t).pre ≤ (orderThresholds t).alarm ∧
    (orderThresholds t).alarm ≤ 254 ∧ 1 ≤ (orderThresholds t).pre ∧
    (t.faultLow < t.pre ∧ t.pre ≤ t.alarm ∧ t.alarm ≤ 254 ∧ 1 ≤ t.pre → orderThresholds t = t)) ∧
  (∀ n, 1 ≤ takeConfirm n ∧ takeConfirm n ≤ 15 ∧ (1 ≤ n ∧ n ≤ 15 → takeConfirm n = n) ∧
    takeConfirm 0 = 1) ∧
  (∀ n, 1 ≤ takeDivider n ∧ takeDivider n ≤ 16 ∧ (1 ≤ n ∧ n ≤ 16 → takeDivider n = n) ∧
    (16 < n → takeDivider n = 16)) ∧
  takeDivider 0 = 1 ∧ takeStep 0 = 1 ∧ (∀ n, 1 ≤ n → takeStep n = n)

/-- What one classified reading does to a channel: the counting of R6, the change rule of R7, and the rule
of a latched alarm (R8). -/
def Obligations.ConfirmationFollowsTheCounter : Prop :=
  (∀ (cfg : ScanConfig) (latched : Bool) (c : ScanChannel) (b : Band),
    ¬(latched = true ∧ c.state = .alarm) →
    (classify cfg latched c b).1 = { c with
      candidate := some b
      counter := if c.candidate = some b then min (c.counter + 1) 15 else 1 } ∧
    (classify cfg latched c b).2 =
      (if cfg.confirmCount b ≤ (classify cfg latched c b).1.counter ∧ b.target ≠ c.state then
        some b.target else none)) ∧
  (∀ (cfg : ScanConfig) (c : ScanChannel), c.state = .alarm →
    classify cfg true c .fault = (c, none) ∧
    ∀ b, b ≠ .fault →
      (classify cfg true c b).1.candidate = some b ∧
      (classify cfg true c b).1.counter =
        (if c.candidate = some b then min (c.counter + 1) 15 else 1) ∧
      (c.armed = true ∧ b = .normal ∧ cfg.releaseCount ≤ (classify cfg true c b).1.counter →
        (classify cfg true c b).2 = some .normal ∧ (classify cfg true c b).1.armed = false) ∧
      (¬(c.armed = true ∧ b = .normal ∧ cfg.releaseCount ≤ (classify cfg true c b).1.counter) →
        (classify cfg true c b).2 = none ∧ (classify cfg true c b).1.armed = c.armed))

/-- The tick of a RUNNING station scans every channel by the change rule (R5, R6, R7, R8, R14): an UNUSED or
ISOLATED channel stands, and any other is classified with its reading in its effective band. The level check
comes when the divider counter has reached LevelDivider: a PREALARM or ALARM channel whose reading is LevelStep
or more away from its last published level takes the reading as that level, with its level mark, and its held
entry takes the level with a LEVEL change (R15). -/
def Obligations.ScanAppliesTheChangeRule : Prop :=
  (∀ (r : Readings) (o : TickOrder) (s u : State), s.control.resetHeld = false → u = settle s →
    u.control.running = true → u.scanner.channels.length = 64 →
    ∃ t, exec (.tick r o) s = .next t ∧
      t.scanner.divider = (if u.scanner.divider < u.scanner.cfg.levelDivider then u.scanner.divider + 1
        else 1) ∧
      ∀ (i : Nat) (k : ChannelKind) (c d : ScanChannel), i < 64 →
      k = (if i = 0 then .supervisory else (u.scanner.config i).kind) →
      c = u.scanner.chan i → d = t.scanner.chan i →
      (k = .unused ∨ c.state = .isolated → d.state = c.state ∧ d.candidate = c.candidate ∧
        d.counter = c.counter ∧ d.armed = c.armed) ∧
      (k ≠ .unused → c.state ≠ .isolated → ∀ (v : Nat) (out : ScanChannel × Option ScanState),
        v = readingOf (u.scanner.config i).invert (r.val.getD i 0) →
        out = classify u.scanner.cfg (!(i == 0) && (u.scanner.config i).latched) c
          (effectiveBand k (bandOf (u.scanner.cfg.thresholds k) v)) →
        d.state = out.2.getD c.state ∧ d.candidate = out.1.candidate ∧
          d.counter = out.1.counter ∧ d.armed = out.1.armed ∧
          (out.2 = none → u.scanner.cfg.levelDivider ≤ u.scanner.divider →
            c.state = .prealarm ∨ c.state = .alarm →
            v + u.scanner.cfg.levelStep ≤ c.lastLevel ∨ c.lastLevel + u.scanner.cfg.levelStep ≤ v →
            d.lastLevel = v ∧ i ∈ t.pub.level) ∧
          (out.2 = none → u.scanner.divider < u.scanner.cfg.levelDivider ∨
              (c.state ≠ .prealarm ∧ c.state ≠ .alarm) ∨
              (c.lastLevel < v + u.scanner.cfg.levelStep ∧
                v < c.lastLevel + u.scanner.cfg.levelStep) →
            d.lastLevel = c.lastLevel ∧ (i ∈ t.pub.level ↔ i ∈ u.pub.level)) ∧
          (∀ new, out.2 = some new → new ≠ .normal → 1 ≤ u.scanner.cfg.levelStep →
            d.lastLevel = v ∧ (i ∈ t.pub.level ↔ i ∈ u.pub.level)))) ∧
  (∀ (r : Readings) (i v : Nat) (s t : State) (e new : Entry), i < s.scanner.channels.length →
    v = readingOf (s.scanner.config i).invert (r.val.getD i 0) → t = checkLevel r s i →
    s.ownAt i = some e → new = { e with datum := .level v, learned := s.now } →
    ((s.scanner.chan i).state = .prealarm ∨ (s.scanner.chan i).state = .alarm) →
    v + s.scanner.cfg.levelStep ≤ (s.scanner.chan i).lastLevel ∨
      (s.scanner.chan i).lastLevel + s.scanner.cfg.levelStep ≤ v →
    t.ownAt i = some new ∧ (∀ a, a ≠ ⟨s.own, i⟩ → t.entryAt a = s.entryAt a) ∧
    FollowersSame (emit ⟨.level, new, none, none⟩
      (s.putEntry new)) t)

/-- A change made by a scan is written to the own entry with the reading as its level, and sets the
channel's change mark; a point without an entry that becomes NORMAL gets none (R13). The write emits ADMIT, or
the change of R22 over the entry held, with REMOVE behind it where ClearHold is 0 (R22, R27), and nothing where
no entry is written. Point 0 entering FAULT sets SUPPLY, with STATION_FAULT on every attached channel where it was
clear, and leaving FAULT clears it (R14, R178). That STATION_FAULT is raised after the picture change is told is the
model's choice of order (DESIGN CHOICE, log 5). -/
def Obligations.ScanChangeWritesTheOwnEntry : Prop :=
  ∀ (i v : Nat) (new : ScanState) (e : Entry) (s t : State), i < 64 → i < s.scanner.channels.length →
    t = changeScanState i new (some v) s →
    e = { addr := ⟨s.own, i⟩, state := new.entryState, datum := .level v,
          place := (s.scanner.config i).place, loc := (s.scanner.config i).loc,
          localSince := s.now, learned := s.now, confirmed := true, sweep := false } →
    i ∈ t.pub.change ∧
    (new ≠ .normal → t.ownAt i = some e ∧ (t.scanner.chan i).lastLevel = v) ∧
    (new = .normal → s.ownAt i = none → t.ownAt i = none ∧ t.scanner.chan i =
      { s.scanner.chan i with state := .normal }) ∧
    (new = .normal → s.ownAt i ≠ none → 0 < s.table.clearHold →
      t.ownAt i = some e ∧ (t.scanner.chan i).lastLevel = v) ∧
    (∀ old, new = .normal → s.ownAt i = some old → old.state ≠ .cleared → s.table.clearHold = 0 →
      t.ownAt i = none) ∧
    (∀ a, a ≠ ⟨s.own, i⟩ → t.entryAt a = s.entryAt a) ∧
    (∃ told : State,
      FollowersSame (if i = 0 ∧ new = .fault ∧ s.hasCondition .supply = false then
        told.raiseAll .stationFault else told) t ∧
      (s.ownAt i = none → new = .normal → FollowersSame s told) ∧
      (s.ownAt i = none → new ≠ .normal → FollowersSame
        (emit ⟨.admission, e, none, none⟩ (s.putEntry e))
        told) ∧
      (∀ old, s.ownAt i = some old → ToldOfWrite old e
        (decide (old.state ≠ .cleared ∧ new = .normal ∧ s.table.clearHold = 0)) s told)) ∧
    t.control = { s.control with conditions := t.control.conditions } ∧
    (∀ c : Condition, c ≠ .supply ∨ i ≠ 0 → t.hasCondition c = s.hasCondition c) ∧
    (i = 0 → new = .fault → t.hasCondition .supply = true ∧
      (s.hasCondition .supply = false → ∀ ch, s.isAttached ch = true →
        NoticeSet.has (t.channel ch).notices .stationFault = true)) ∧
    (i = 0 → new ≠ .fault → t.hasCondition .supply =
      (s.hasCondition .supply && decide ((s.scanner.chan 0).state ≠ .fault)))

/-- The scanner's answer to a request (R9). -/
def Obligations.ScannerAnswersRequests : Prop :=
  ∀ (q : ScanRequest) (i : Nat) (s : State),
    (64 ≤ i ∨ ((s.scanner.config i).kind = .unused ∧ i ≠ 0) → scanAnswer q i s = .badPoint) ∧
    (¬(64 ≤ i ∨ ((s.scanner.config i).kind = .unused ∧ i ≠ 0)) →
      (q = .isolate ∧ i = 0 → scanAnswer q i s = .badPoint) ∧
      (q = .restore ∧ ((s.scanner.config i).latched = false ∨ i = 0) →
        scanAnswer q i s = .notLatched) ∧
      (¬(q = .isolate ∧ i = 0) → ¬(q = .restore ∧ ((s.scanner.config i).latched = false ∨ i = 0)) →
        scanAnswer q i s = .ok))

/-- ISOLATE, DEISOLATE and RESTORE on a COMMAND channel: the answer the scanner gives, and the effect where
it is OK (R10, R11, R12, R162). -/
def Obligations.PointRequestsOnACommandChannel : Prop :=
  ∀ (ch : Fin 4) (b : Byte) (att : Attachment) (s u : State), s.control.resetHeld = false →
    u = settle s →
    u.crew.receiver = [] → u.control.running = true → (u.channel ch).pendingAnswer = none →
    (u.channel ch).attached = some att → u.scanner.channels.length = 64 →
    (att.role = .command →
      (∃ t, exec (.isolate ch [b]) s = .next t ∧
        HasAnswer (t.channel ch) (.answer 8 (scanAnswer .isolate b.toNat u) 0) ∧
        (scanAnswer .isolate b.toNat u = .ok → (u.scanner.chan b.toNat).state ≠ .isolated →
          t.scanner.chan b.toNat = { u.scanner.chan b.toNat with
            state := .isolated, candidate := none, counter := 0, armed := false } ∧
          (t.ownAt b.toNat).map Entry.state = some .isolated) ∧
        (scanAnswer .isolate b.toNat u ≠ .ok ∨ (u.scanner.chan b.toNat).state = .isolated →
          t.scanner = u.scanner ∧ t.table = u.table)) ∧
      (∃ t, exec (.deisolate ch [b]) s = .next t ∧
        HasAnswer (t.channel ch) (.answer 9 (scanAnswer .deisolate b.toNat u) 0) ∧
        (scanAnswer .deisolate b.toNat u = .ok → (u.scanner.chan b.toNat).state = .isolated →
          t.scanner.chan b.toNat = { u.scanner.chan b.toNat with
            state := .normal, candidate := none, counter := 0, armed := false }) ∧
        (scanAnswer .deisolate b.toNat u ≠ .ok ∨ (u.scanner.chan b.toNat).state ≠ .isolated →
          t.scanner = u.scanner ∧ t.table = u.table)) ∧
      (∃ t, exec (.restore ch [b]) s = .next t ∧
        HasAnswer (t.channel ch) (.answer 10 (scanAnswer .restore b.toNat u) 0) ∧
        t.table = u.table ∧ t.pub = u.pub ∧
        (scanAnswer .restore b.toNat u = .ok → (u.scanner.chan b.toNat).state = .alarm →
          t.scanner.chan b.toNat = { u.scanner.chan b.toNat with
            armed := true, candidate := none, counter := 0 }) ∧
        (scanAnswer .restore b.toNat u ≠ .ok ∨ (u.scanner.chan b.toNat).state ≠ .alarm →
          t.scanner = u.scanner))) ∧
    (att.role ≠ .command → ∀ c ∈ [(Instr.isolate ch [b], 8), (.deisolate ch [b], 9), (.restore ch [b], 10)],
      ∃ t, exec c.1 s = .next t ∧ RequestFrame ch u t ∧
        Answered (u.channel ch) (t.channel ch) (.answer c.2 .notPermitted 0) ∧
        BesidesAnswerSame (u.channel ch) (t.channel ch))

/-! ## The incident picture (chapter 2) -/

/-- The victim is a foreign entry, and none comes before it by lowest rank, then smallest learned, then
highest point address; there is one whenever there is a foreign entry (R33). -/
def Obligations.VictimComesFirstInItsOrder : Prop :=
  ∀ s : State, (s.victim = none ↔ s.foreign = []) ∧
    ∀ v, s.victim = some v → v ∈ s.entries ∧ v.addr.station ≠ s.own ∧
      ∀ e ∈ s.entries, e.addr.station ≠ s.own → e.addr ≠ v.addr →
        v.state.rank < e.state.rank ∨
        (v.state.rank = e.state.rank ∧ v.learned < e.learned) ∨
        (v.state.rank = e.state.rank ∧ v.learned = e.learned ∧
          (e.addr.station < v.addr.station ∨
            (e.addr.station = v.addr.station ∧ e.addr.index < v.addr.index)))

/-- A POINT or MARKER record for an address that is not held: a CLEARED one is discarded; any other takes a
free place with ADMIT, takes the place of a victim it outranks with EVICT and then ADMIT, or is dropped with no
picture change, and an eviction or a drop sets an overflow flag (R22, R32, R34, R35, R37). -/
def Obligations.AdmissionTakesAPlaceEvictsOrDrops : Prop :=
  ∀ (x : Nat) (r : Record) (s t : State), TableOk s → x ≠ s.own → 1 ≤ x →
    x ≤ s.table.origins.length → r.kind ≠ .level → r.index ≤ 79 → s.entryAt ⟨x, r.index⟩ = none →
    t = applyRecord x r s →
    (r.state = .cleared → t = s) ∧
    (r.state ≠ .cleared → s.foreign.length < 560 →
      t.entryAt ⟨x, r.index⟩ = some (entryOfRecord x r s.now) ∧
      (∀ a, a ≠ ⟨x, r.index⟩ → t.entryAt a = s.entryAt a) ∧ t.table.origins = s.table.origins ∧
      t.freeCount + 1 = s.freeCount ∧
      FollowersSame (emit ⟨.admission, entryOfRecord x r s.now, none, none⟩
        (s.putEntry (entryOfRecord x r s.now))) t) ∧
    (r.state ≠ .cleared → s.foreign.length = 560 → ∀ v, s.victim = some v →
      (v.state.rank < r.state.rank →
        t.entryAt ⟨x, r.index⟩ = some (entryOfRecord x r s.now) ∧ t.entryAt v.addr = none ∧
        (∀ a, a ≠ ⟨x, r.index⟩ → a ≠ v.addr → t.entryAt a = s.entryAt a) ∧ t.freeCount = 0 ∧
        (1 ≤ v.addr.station ∧ v.addr.station ≤ s.table.origins.length →
          (t.origin v.addr.station).overflow = true) ∧
        FollowersSame (emit ⟨.admission, entryOfRecord x r s.now, none, none⟩ ((emit ⟨.evict, v, none, none⟩
            (s.dropEntry v.addr)).putEntry (entryOfRecord x r s.now))) t) ∧
      (r.state.rank ≤ v.state.rank →
        t.entries = s.entries ∧ (t.origin x).overflow = true ∧ FollowersSame s t))

/-- A record for a held entry rewrites it (R62), or its datum alone for a LEVEL record (R64); one that makes
it CLEARED with its hold already met takes it out (R27). The write emits STATE, LEVEL, CONFIRM or nothing by R22,
with the REMOVE of an entry taken out behind its STATE; a LEVEL record emits LEVEL where it changes the level
(R21, R22). A STATE frame accepted in order from a LIVE origin
does nothing but make its number the held sequence and apply its records one at a time in order (R61). -/
def Obligations.StateFrameAppliesItsRecords : Prop :=
  (∀ (x : Nat) (r : Record) (e new : Entry) (s t : State), TableOk s →
    s.entryAt ⟨x, r.index⟩ = some e → t = applyRecord x r s →
    new = { e with
      state := r.state
      datum := if r.index < 64 then .level r.value else .crew r.value
      place := r.place, loc := r.loc
      localSince := if r.state = e.state then e.localSince else s.now - r.age
      learned := s.now, confirmed := true, sweep := false } →
    (∀ a, a ≠ ⟨x, r.index⟩ → t.entryAt a = s.entryAt a) ∧ t.table.origins = s.table.origins ∧
    t.table.recovery = s.table.recovery ∧
    (∀ level : Entry, r.kind = .level → level = { e with datum := .level r.value, learned := s.now } →
      t.entryAt ⟨x, r.index⟩ = some level ∧
      (e.datum = level.datum → FollowersSame s t) ∧
      (e.datum ≠ level.datum → FollowersSame (emit
        ⟨.level, level, none, none⟩ (s.putEntry level)) t)) ∧
    (∀ gone : Bool, r.kind ≠ .level → gone = decide (e.state ≠ .cleared ∧ r.state = .cleared ∧
        s.table.clearHold ≤ s.now - new.localSince) →
      t.entryAt ⟨x, r.index⟩ = (if gone then none else some new) ∧ ToldOfWrite e new gone s t)) ∧
  (∀ (x : Nat) (r : Record) (s : State), s.entryAt ⟨x, r.index⟩ = none → r.kind = .level →
    applyRecord x r s = s) ∧
  (∀ (f : RxFrame) (rest : List RxFrame) (h : Nat) (s u : State), s.control.resetHeld = false →
    u = atOnce s → u.control.step ≠ .held → u.merge.queue = f :: rest → f.kind = .state →
    flagsAgree f = true → 1 ≤ f.count → f.count ≤ 12 → 1 ≤ f.station →
    f.station ≤ u.table.origins.length → (u.origin f.station).held = some h →
    seqDistance h f.seq = 1 → (u.origin f.station).status = .live →
    exec .stateFrame s = .next
      ((recordChunks f.count f.body).foldl (fun v b => match decodeRecord b with
          | some r => applyRecord f.station r v
          | none => v)
        ((u.withMerge { u.merge with queue := rest }).modOrigin f.station
          (fun o => { o with held := some f.seq }))))

/-- MARK on an attached channel (R24, R160): not for VIEW; otherwise a marker in the lowest free slot with
the channel's crew id, with ADMIT and its slot's clearing copy emptied (R22, R89), or MARKERS_FULL. -/
def Obligations.MarkCreatesAMarker : Prop :=
  ∀ (ch : Fin 4) (k s1 s0 x1 x0 y1 y0 fl cp : Byte) (kind : PointState) (att : Attachment)
    (s u : State), s.control.resetHeld = false → u = settle s →
    u.crew.receiver = [] → u.control.running = true →
    (u.channel ch).pendingAnswer = none → (u.channel ch).attached = some att →
    (k.toNat = 3 ∧ kind = .searched ∨ k.toNat = 5 ∧ kind = .crewPresent ∨
      k.toNat = 6 ∧ kind = .hazard) →
    ofBe16 s1 s0 ≤ 1023 → (ofBe16 s1 s0 = 1023 ∨ (ofBe16 x1 x0 ≤ 4095 ∧ ofBe16 y1 y0 ≤ 4095)) →
    fl.toNat ≤ 127 → cp.toNat ≤ 15 →
    ∃ t, exec (.mark ch [k, s1, s0, x1, x0, y1, y0, fl, cp]) s = .next t ∧
      (att.role = .view → RequestFrame ch u t ∧ BesidesAnswerSame (u.channel ch) (t.channel ch) ∧
        Answered (u.channel ch) (t.channel ch) (.answer 6 .notPermitted 0)) ∧
      (att.role ≠ .view → (∀ i, 64 ≤ i → i ≤ 79 → u.ownAt i ≠ none) →
        RequestFrame ch u t ∧ BesidesAnswerSame (u.channel ch) (t.channel ch) ∧
        Answered (u.channel ch) (t.channel ch) (.answer 6 .markersFull 0)) ∧
      (∀ i, att.role ≠ .view → 64 ≤ i → i ≤ 79 → u.ownAt i = none →
        (∀ j, 64 ≤ j → j < i → u.ownAt j ≠ none) →
        HasAnswer (t.channel ch) (.answer 6 .ok i) ∧ i ∈ t.pub.change ∧
        t.pub.copyAt i = none ∧ i ∉ t.pub.copiesInFlight ∧
        (∀ (e : Entry) (told : State), e =
          { addr := ⟨u.own, i⟩, state := kind, datum := .crew att.crew,
            place := if ofBe16 s1 s0 = 1023 then none
                     else some ⟨ofBe16 s1 s0, ofBe16 x1 x0, ofBe16 y1 y0⟩,
            loc := ⟨fl.toNat, cp.toNat⟩, localSince := u.now, learned := u.now, confirmed := true,
            sweep := false } →
          told = emit ⟨.admission, e, none, none⟩
            (u.putEntry e) →
          t.ownAt i = some e ∧ t.bundles = told.bundles ∧ t.incident = told.incident ∧
            OtherChannelsSame ch told t ∧
            Answered (told.channel ch) (t.channel ch) (.answer 6 .ok i)) ∧
        (∀ a, a ≠ ⟨u.own, i⟩ → t.entryAt a = u.entryAt a) ∧ t.scanner = u.scanner ∧
        t.riser = u.riser ∧ t.table.origins = u.table.origins)

/-- UNMARK on an attached channel (R25, R161): BAD_POINT, NOT_OWN, or the marker CLEARED with STATE. Where
ClearHold is 0 it is removed at once, with REMOVE behind the STATE (R27), and hands its clearing copy over (R89;
that it does so at this removal too is DEDUCED, log 29). -/
def Obligations.UnmarkClearsAMarker : Prop :=
  ∀ (ch : Fin 4) (b : Byte) (att : Attachment) (s u : State), s.control.resetHeld = false →
    u = settle s →
    u.crew.receiver = [] → u.control.running = true → (u.channel ch).pendingAnswer = none →
    (u.channel ch).attached = some att → b.toNat ≤ 79 →
    ∃ t, exec (.unmark ch [b]) s = .next t ∧
      (b.toNat < 64 ∨ u.ownAt b.toNat = none →
        RequestFrame ch u t ∧ Answered (u.channel ch) (t.channel ch) (.answer 7 .badPoint 0) ∧
        BesidesAnswerSame (u.channel ch) (t.channel ch)) ∧
      (∀ e, 64 ≤ b.toNat → u.ownAt b.toNat = some e →
        (att.role = .view ∨ (att.role ≠ .command ∧ e.datum ≠ .crew att.crew) →
          RequestFrame ch u t ∧ Answered (u.channel ch) (t.channel ch) (.answer 7 .notOwn 0) ∧
          BesidesAnswerSame (u.channel ch) (t.channel ch)) ∧
        (att.role = .command ∨ (att.role ≠ .view ∧ e.datum = .crew att.crew) →
          HasAnswer (t.channel ch) (.answer 7 .ok 0) ∧
          (e.state = .cleared → t.table = u.table ∧ t.pub = u.pub) ∧
          (∀ new : Entry, e.state ≠ .cleared → new = { e with
              state := .cleared, localSince := u.now, learned := u.now, confirmed := true } →
            b.toNat ∈ t.pub.change ∧ (∀ a, a ≠ ⟨u.own, b.toNat⟩ → t.entryAt a = u.entryAt a) ∧
            (0 < u.table.clearHold → t.ownAt b.toNat = some new ∧ t.pub.copies = u.pub.copies) ∧
            (u.table.clearHold = 0 → t.ownAt b.toNat = none ∧ (u.pub.copies.length = 16 →
              t.pub.copyAt b.toNat = some { crew := e.datum.value, place := e.place, loc := e.loc } ∧
              b.toNat ∉ t.pub.copiesInFlight)) ∧
            ∃ told : State, ToldOfWrite e new (decide (u.table.clearHold = 0)) u told ∧
              t.bundles = told.bundles ∧ t.incident = told.incident ∧ OtherChannelsSame ch told t ∧
              Answered (told.channel ch) (t.channel ch) (.answer 7 .ok 0))))

/-! ## Merging peer frames (chapter 3) -/

/-- The sequence window for a frame that passes the body checks, without START, of an origin whose held
sequence is present: a duplicate and an old frame are counted and change nothing else, and any other makes
its number the held sequence (R53, R55). -/
def Obligations.SequenceWindowDiscardsOrAccepts : Prop :=
  ∀ (f : RxFrame) (rest : List RxFrame) (h d : Nat) (s u : State), s.control.resetHeld = false →
    u = atOnce s → u.control.step ≠ .held → u.merge.queue = f :: rest → flagsAgree f = true →
    bodyAgrees f = true → f.start = false → 1 ≤ f.station → f.station ≤ u.table.origins.length →
    (u.origin f.station).held = some h → h ≤ 4095 → f.seq ≤ 4095 →
    d = (if h ≤ f.seq then f.seq - h else f.seq + 4096 - h) →
    ∃ t, exec (takeOf f.kind) s = .next t ∧
      (d = 0 → t = { u with merge := { u.merge with
        queue := rest, repeats := min (u.merge.repeats + 1) 65535 } }) ∧
      (2048 ≤ d → t = { u with merge := { u.merge with
        queue := rest, old := min (u.merge.old + 1) 65535 } }) ∧
      (1 ≤ d → d ≤ 2047 → t.merge = { u.merge with queue := rest } ∧
        (t.origin f.station).held = some f.seq)

/-- The status and the resync state of an origin after an accepted frame, by the table of R56, with the LAST
that completes a series (R60) and the count check of a SUMMARY (R66). The cells that do not arise are left out
by the premises on the status. A gap makes the origin WANTED if its resync state was NONE (R58), and AWAITING
where the frame is a RESYNC that names its own sender (R104). -/
def Obligations.AcceptedFrameMovesTheStatus : Prop :=
  ∀ (f : RxFrame) (rest : List RxFrame) (s u : State) (before : OriginRecord) (asked : Resync),
    s.control.resetHeld = false →
    u = atOnce s → u.control.step ≠ .held → u.merge.queue = f :: rest → flagsAgree f = true →
    bodyAgrees f = true → 1 ≤ f.station → f.station ≤ 250 → u.table.origins.length = 250 →
    before = u.origin f.station →
    asked = (if f.kind = .resync ∧ f.station ≠ u.own ∧
        f.body.any (fun b => b.toNat == f.station) = true then .awaiting 40
      else if before.resync = .none then .wanted else before.resync) →
    ∃ t, exec (takeOf f.kind) s = .next t ∧
      ((f.first = true ∧ (f.start = true ∨ ∀ h, before.held = some h →
          1 ≤ seqDistance h f.seq ∧ seqDistance h f.seq ≤ 2047)) →
        (t.origin f.station).held = some f.seq ∧ (t.origin f.station).resync = .none ∧
        (t.origin f.station).status = if f.last then .live else .resyncing) ∧
      (f.first = false → before.held = none → before.status = .unknown ∨ before.status = .silent →
        (t.origin f.station).held = some f.seq ∧ (t.origin f.station).status = .gapped ∧
        (t.origin f.station).resync = asked) ∧
      (∀ h, f.first = false → before.held = some h →
        (2 ≤ seqDistance h f.seq ∧ seqDistance h f.seq ≤ 2047 → before.status ≠ .unknown →
          (t.origin f.station).status = .gapped ∧ (t.origin f.station).resync = asked) ∧
        (seqDistance h f.seq = 1 →
          (before.status = .silent → (t.origin f.station).status = .gapped ∧
            (t.origin f.station).resync = asked) ∧
          (before.status = .gapped → (t.origin f.station).status = .gapped) ∧
          (before.status = .resyncing →
            (t.origin f.station).status = if f.last then .live else .resyncing) ∧
          (before.status = .live → f.kind ≠ .summary → (t.origin f.station).status = .live)))

/-- A LAST that completes its series (R60) makes the origin LIVE and takes out exactly the entries that still
carry its sweep mark once the frame's records are applied, each with REMOVE in rising address, and keeps every
other (R22, R31). `w` is the state at the first record: a FIRST has set the mark on every entry of the origin
(R59), with no picture change (R30). -/
def Obligations.CompletedSeriesSweeps : Prop :=
  ∀ (f : RxFrame) (rest : List RxFrame) (s u : State), s.control.resetHeld = false →
    u = atOnce s → u.control.step ≠ .held → u.merge.queue = f :: rest → f.kind = .fullset →
    flagsAgree f = true → bodyAgrees f = true → f.last = true → TableOk u → f.station ≠ u.own →
    1 ≤ f.station → f.station ≤ u.table.origins.length →
    (f.start = true ∨ (f.first = true ∧ (u.origin f.station).held = none) ∨
      (∃ h, (u.origin f.station).held = some h ∧
      ((f.first = true ∧ 1 ≤ seqDistance h f.seq ∧ seqDistance h f.seq ≤ 2047) ∨
        (seqDistance h f.seq = 1 ∧ (u.origin f.station).status = .resyncing)))) →
    ∃ t w v : State, exec .fullsetFrame s = .next t ∧ (t.origin f.station).status = .live ∧
      w.control = u.control ∧ w.table.clearHold = u.table.clearHold ∧
      w.entries = (if f.first then
          u.entries.map (fun e => if e.addr.station = f.station then { e with sweep := true } else e)
        else u.entries) ∧ FollowersSame u w ∧
      v = (recordChunks f.count f.body).foldl (applyRecordBytes f.station) w ∧
      FollowersSame ((v.entries.filter (fun e => e.addr.station == f.station && e.sweep)).foldl
        (fun z e => emit ⟨.remove, e, none, none⟩
          (z.dropEntry e.addr)) v) t ∧
      (∀ a, t.entryAt a = (v.entryAt a).filter
        (fun e => !(e.addr.station == f.station && e.sweep))) ∧
      (∀ e ∈ t.entries, e.addr.station = f.station → e.sweep = false) ∧
      (∀ r, t.table.recovery = some r → r.origin ≠ f.station) ∧
      (∀ a : Address, a.station = u.own → t.entryAt a = u.entryAt a)

/-- An accepted SUMMARY updates the revision and the conditions of its origin (R65); a LIVE origin without
overflow whose active count disagrees becomes GAPPED and WANTED (R66). A revision newly learned that differs
from the own one, or finds none, raises REVISION_MISMATCH on every attached channel (R169). -/
def Obligations.SummaryUpdatesItsOrigin : Prop :=
  ∀ (f : RxFrame) (rest : List RxFrame) (a fl r1 r0 c : Byte) (h : Nat) (s u : State),
    s.control.resetHeld = false → u = atOnce s → u.control.step ≠ .held →
    u.merge.queue = f :: rest → f.kind = .summary → flagsAgree f = true → f.count = 0 →
    f.body = [a, fl, r1, r0, c] → 1 ≤ f.station → f.station ≤ u.table.origins.length →
    (u.origin f.station).held = some h → seqDistance h f.seq = 1 →
    (u.origin f.station).status = .live →
    ∃ t, exec .summaryFrame s = .next t ∧ t.table.entries = u.table.entries ∧
      (t.origin f.station).revision = (if fl.toNat % 2 = 1 then some (ofBe16 r1 r0) else none) ∧
      (t.origin f.station).conditions = some (c &&& 0x1F) ∧
      (fl.toNat % 2 = 1 → (u.origin f.station).revision ≠ some (ofBe16 r1 r0) →
        (u.hasCondition .plan = true ∨ u.control.revision ≠ some (ofBe16 r1 r0)) →
        ∀ ch, u.isAttached ch = true →
          NoticeSet.has (t.channel ch).notices .revisionMismatch = true) ∧
      (fl.toNat % 2 = 0 ∨ (u.origin f.station).revision = some (ofBe16 r1 r0) ∨
          (u.hasCondition .plan = false ∧ u.control.revision = some (ofBe16 r1 r0)) →
        t.crew = u.crew) ∧
      ((u.origin f.station).overflow = false ∧ a.toNat ≠ u.heldCount f.station →
        (t.origin f.station).status = .gapped ∧
        ((u.origin f.station).resync = .none → (t.origin f.station).resync = .wanted)) ∧
      ((u.origin f.station).overflow = true ∨ a.toNat = u.heldCount f.station →
        (t.origin f.station).status = .live ∧
        (t.origin f.station).resync = (u.origin f.station).resync)

/-- An accepted RESYNC: the own number among its names sets full-set due (R101), every other named origin
that is WANTED or AWAITING becomes AWAITING with 40 ticks, and no other origin moves (R104). -/
def Obligations.ResyncFrameServesOrSuppresses : Prop :=
  ∀ (f : RxFrame) (rest : List RxFrame) (h : Nat) (s u : State), s.control.resetHeld = false →
    u = atOnce s → u.control.step ≠ .held → u.merge.queue = f :: rest → f.kind = .resync →
    flagsAgree f = true → 1 ≤ f.count → f.count ≤ 8 → u.table.origins.length = 250 →
    1 ≤ f.station → f.station ≤ 250 → (u.origin f.station).held = some h →
    seqDistance h f.seq = 1 → (u.origin f.station).status = .live →
    ∃ t, exec .resyncFrame s = .next t ∧ t.table.entries = u.table.entries ∧
      t.pub.fullsetDue = (u.pub.fullsetDue || f.body.any (fun b => b.toNat == u.own)) ∧
      (∀ x, 1 ≤ x → x ≤ 250 → x ≠ u.own → (∃ b ∈ f.body, b.toNat = x) →
        (t.origin x).resync =
          if (u.origin x).resync = .none then .none else .awaiting 40) ∧
      (∀ x, ¬(x ≠ u.own ∧ ∃ b ∈ f.body, b.toNat = x) → (t.origin x).resync = (u.origin x).resync)

/-! ## The riser line (chapter 4) -/

/-- The fate of a received frame, and the arrival of a good one (R49, R50, R51, R80). -/
def Obligations.FrameEndDecidesTheFate : Prop :=
  ∀ (kept more : List Byte) (tooLong broken now : Bool) (bytes : List Byte) (s u : State),
    s.control.resetHeld = false → u = settle s → u.riser.tx.isSending = false →
    u.riser.rx = .receiving kept tooLong broken → bytes = kept ++ more →
    ∃ t, exec (.riserFrameEnd more now) s = .next t ∧ t.riser.rx = .idle ∧
      (tooLong = true ∨ 176 < bytes.length ∨ bytes.length < 8 →
        t = { u with riser := { u.riser with
          rx := .idle, lengthErrors := min (u.riser.lengthErrors + 1) 65535 } }) ∧
      (tooLong = false → 8 ≤ bytes.length → bytes.length ≤ 176 →
        (broken = true ∨ now = true ∨
            (checkWord (bytes.take (bytes.length - 2))).toNat ≠ fieldAt bytes (bytes.length - 2) →
          t = { u with riser := { u.riser with
            rx := .idle, checkErrors := min (u.riser.checkErrors + 1) 65535 } }) ∧
        (broken = false → now = false →
          (checkWord (bytes.take (bytes.length - 2))).toNat = fieldAt bytes (bytes.length - 2) →
          (parseFrame bytes = none →
            t = { u with riser := { u.riser with
              rx := .idle, lengthErrors := min (u.riser.lengthErrors + 1) 65535 } }) ∧
          (∀ f, parseFrame bytes = some f → u.control.step ≠ .held →
            (f.station = u.own → t.hasCondition .duplicate = true ∧ t.merge = u.merge ∧
              t.table = u.table) ∧
            (f.station ≠ u.own → f.station = 0 ∨ 251 ≤ f.station → t.table = u.table ∧
              t.merge = { u.merge with rejected := min (u.merge.rejected + 1) 65535 }) ∧
            (f.station ≠ u.own → 1 ≤ f.station → f.station ≤ 250 → u.table.origins.length = 250 →
              t.origin f.station = { u.origin f.station with
                silence := 0, interval := (255 - f.seed) + 2 } ∧
              (∀ x, x ≠ f.station → t.origin x = u.origin x) ∧
              t.table.entries = u.table.entries ∧
              (u.merge.queue.length < 4 → t.merge = { u.merge with queue := u.merge.queue ++ [f] }) ∧
              (4 ≤ u.merge.queue.length →
                t.merge = { u.merge with overrun := min (u.merge.overrun + 1) 65535 })))))

/-- The line's activity and quiet, and the back-off's expiry: BUSY at the first active unit, QUIET after
the quiet gap, and a frame that waits goes out at the quiet event, or at the expiry on a QUIET line (R70,
R73, R75, R79). The model's own: LINE_BUSY brings a line's activity as a command of its own (log 13), a quiet
event leaves a receiver that is RECEIVING as it is (DESIGN CHOICE, log 21), and at the start of the own frame
the line is BUSY and the receiver RECEIVING (DEDUCED, log 22). -/
def Obligations.LineEventsStartOrHoldTheFrame : Prop :=
  (∀ (gap : Bool) (s u : State), s.control.resetHeld = false → u = settle s →
    ∃ t, exec (.lineBusy gap) s = .next t ∧ t.riser.quiet = false ∧ t.riser.tx = u.riser.tx ∧
      (u.riser.rx = .idle → gap = true ∨ u.riser.quiet = true →
        t.riser.rx = .receiving [] false false) ∧
      (u.riser.rx ≠ .idle ∨ (gap = false ∧ u.riser.quiet = false) → t.riser.rx = u.riser.rx) ∧
      t = { u with riser := t.riser }) ∧
  (∀ (s u : State), s.control.resetHeld = false → u = settle s → u.riser.quiet = false →
    ∃ t, exec .lineQuietEvent s = .next t ∧ t = { u with riser := t.riser } ∧
      (∀ f c, u.riser.tx = .waiting f c → t.riser.tx = .sending f c ∧ t.riser.quiet = false ∧
        t.riser.rx = .receiving [] false false) ∧
      ((u.riser.tx = .empty ∨ ∃ f c n, u.riser.tx = .backoff f c n) →
        t.riser.tx = u.riser.tx ∧ t.riser.quiet = true ∧ t.riser.rx = u.riser.rx)) ∧
  (∀ (f : TxFrame) (c n : Nat) (s u : State), s.control.resetHeld = false → u = settle s →
    u.riser.tx = .backoff f c n →
    ∃ t, exec .backoffExpiry s = .next t ∧ t = { u with riser := t.riser } ∧
      (u.riser.quiet = true → t.riser.tx = .sending f c) ∧
      (u.riser.quiet = false → t.riser.tx = .waiting f c))

/-- A mismatch counts a collision; below the tenth the frame waits out a back-off drawn below 2 to the
smaller of the count and 6, and at the tenth it is given up, its marks set again, its clearing copies kept and
LINE set (R74, R75, R76, R89, R100). The draw is a free value (log 7). -/
def Obligations.MismatchBacksOffOrGivesUp : Prop :=
  ∀ (f : TxFrame) (c n : Nat) (s u : State), s.control.resetHeld = false → u = settle s →
    u.riser.tx = .sending f c →
    ∃ t, exec (.mismatch n) s = .next t ∧
      t.riser.collisionTotal = min (u.riser.collisionTotal + 1) 65535 ∧ t.pub.seq = u.pub.seq ∧
      t.riser.rx = .receiving ((encodeFrame f).take n) false false ∧
      t.table = u.table ∧ t.scanner = u.scanner ∧ t.merge = u.merge ∧
      (c + 1 < 10 → t.pub = u.pub ∧ t.control = u.control ∧ t.riser.giveUps = u.riser.giveUps ∧
        ((∃ k, 0 < k ∧ k < 2 ^ min (c + 1) 6 ∧ t.riser.tx = .backoff f (c + 1) k) ∨
          (u.riser.quiet = false ∧ t.riser.tx = .waiting f (c + 1)) ∨
          (u.riser.quiet = true ∧ t.riser.tx = .sending f (c + 1)))) ∧
      (10 ≤ c + 1 → t.riser.tx = .empty ∧ t.riser.giveUps = min (u.riser.giveUps + 1) 65535 ∧
        t.hasCondition .line = true ∧ t.pub.copies = u.pub.copies ∧ t.pub.copiesInFlight = [] ∧
        (∀ l, f.body = .records l →
          (∀ r ∈ l, r.kind ≠ .level → r.index ∈ t.pub.change) ∧
          (∀ r ∈ l, r.kind = .level → r.index ∈ t.pub.level)) ∧
        (∀ i ∈ u.pub.change, i ∈ t.pub.change) ∧ (∀ i ∈ u.pub.level, i ∈ t.pub.level) ∧
        (f.kind = .fullset → t.pub.frameStart = none ∧
          t.pub.startPending = u.pub.startPending ∧
          (f.first = true → t.pub.cursor = none ∧ t.pub.fullsetDue = true) ∧
          (f.first = false → t.pub.cursor = u.pub.frameStart)))

/-- The completion of the own frame: the sequence number advances by one mod 4096, the summary counter
reloads, LINE clears, the slot empties, and the Publisher does what the kind asks (R77, R100, R103). The
clearing copies that still stand as the frame's records were built from them are emptied, and no other (R89; the
list of them is the model's field copiesInFlight, DESIGN CHOICE, log 23). No other command but a reset moves the own sequence number (R77). -/
def Obligations.CompletionAdvancesTheSequenceNumber : Prop :=
  (∀ (f : TxFrame) (c : Nat) (s u : State), s.control.resetHeld = false → u = settle s →
    u.riser.tx = .sending f c →
    ∃ t, exec .frameCompletion s = .next t ∧ t.pub.seq = (u.pub.seq + 1) % 4096 ∧
      t.pub.summaryCounter = (255 - u.pub.seed) + 2 ∧ t.hasCondition .line = false ∧
      (∀ k : Condition, k ≠ .line → t.hasCondition k = u.hasCondition k) ∧
      t.riser = { u.riser with tx := .empty, rx := .idle } ∧ t.pub.change = u.pub.change ∧
      t.pub.level = u.pub.level ∧ t.table.entries = u.table.entries ∧ t.crew = u.crew ∧
      t.pub.copiesInFlight = [] ∧
      ((∀ i ∈ u.pub.copiesInFlight, 64 ≤ i) → ∀ i, 64 ≤ i →
        t.pub.copyAt i = if i ∈ u.pub.copiesInFlight then none else u.pub.copyAt i) ∧
      (f.kind = .fullset → t.pub.frameStart = none ∧ t.table = u.table ∧
        t.pub.startPending = (if f.start then false else u.pub.startPending) ∧
        t.pub.cursor = (if f.last then none else u.pub.cursor)) ∧
      (∀ l, f.kind = .resync → f.body = .names l → u.table.origins.length = 250 →
        (∀ x ∈ l, 1 ≤ x → x ≤ 250 → (t.origin x).resync =
          if (u.origin x).resync = .none then .none else .awaiting 40) ∧
        (∀ x, x ∉ l → t.origin x = u.origin x)) ∧
      (f.kind = .state ∨ f.kind = .summary → t.table = u.table ∧ t.pub.cursor = u.pub.cursor)) ∧
  (∀ (c : Instr) (s t : State), c ≠ .frameCompletion → (∀ st, c ≠ .coldStart st) →
    (∀ st, c ≠ .warmRestart st) → exec c s = .next t → t.pub.seq = s.pub.seq)

/-! ## Publication (chapter 5) -/

/-- The next frame by the list of R90: the first item that applies while the station is RUNNING and the
slot EMPTY, and none otherwise. -/
def Obligations.NextFrameFollowsTheList : Prop :=
  ∀ s : State,
    (s.control.running = false ∨ s.riser.tx ≠ .empty → nextItem s = none) ∧
    (s.control.running = true → s.riser.tx = .empty →
      (s.pub.startPending = true → nextItem s = some .start) ∧
      (s.pub.startPending = false →
        ((∃ x, 1 ≤ x ∧ (s.origin x).resync = .wanted) → nextItem s = some .resync) ∧
        ((∀ x, 1 ≤ x → (s.origin x).resync ≠ .wanted) →
          ((∃ i ∈ s.pub.change, ∃ e, s.ownAt i = some e ∧ (e.state = .alarm ∨ e.state = .hazard)) →
            nextItem s = some .urgent) ∧
          ((∀ i ∈ s.pub.change, ∀ e, s.ownAt i = some e → e.state ≠ .alarm ∧ e.state ≠ .hazard) →
            (s.pub.cursor ≠ none ∨ s.pub.fullsetDue = true → nextItem s = some .series) ∧
            (s.pub.cursor = none → s.pub.fullsetDue = false →
              (s.pub.change ≠ [] ∨ s.pub.level ≠ [] → nextItem s = some .state) ∧
              (s.pub.change = [] → s.pub.level = [] →
                nextItem s = if s.pub.summaryDue then some .summary else none))))))

/-- A STATE frame holds 1 to 12 records of marked indices under the own header without flags, each record as
R93 builds it, changes before levels; an urgent one begins with an ALARM or HAZARD record. Each mark it copied
is cleared, a mark that gives no record is cleared without one, and a mark not reached stays (R91, R92). No
frame is placed only where no mark gives a record, and then every mark is cleared (R91). The copies that gave a
record are noted for the frame's completion (R89; the note is the model's field copiesInFlight, DESIGN CHOICE,
log 23). -/
def Obligations.StateFrameCarriesMarkedIndices : Prop :=
  ∀ s : State, s.control.resetHeld = false →
    nextItem s = some .urgent ∨ nextItem s = some .state →
    ∃ t, exec .stateFrameBuild s = .next t ∧ t.table = s.table ∧ t.crew = s.crew ∧
      t.pub.seq = s.pub.seq ∧ t.pub.copies = s.pub.copies ∧
      (∀ i ∈ t.pub.change, i ∈ s.pub.change) ∧ (∀ i ∈ t.pub.level, i ∈ s.pub.level) ∧
      ((t.riser = s.riser ∧ nextItem s = some .state ∧ t.pub.change = [] ∧ t.pub.level = [] ∧
          t.pub.copiesInFlight = [] ∧
          (∀ i ∈ s.pub.change, 64 ≤ i ∧ s.ownAt i = none ∧ s.pub.copyAt i = none) ∧
          (∀ i ∈ s.pub.level, s.ownAt i = none)) ∨
        ∃ f l, Placed f s t ∧ f.kind = .state ∧ f.first = false ∧ f.last = false ∧ f.start = false ∧
          HeaderOf f s ∧ f.body = .records l ∧ 1 ≤ l.length ∧ l.length ≤ 12 ∧
          (∀ i, i ∈ t.pub.copiesInFlight ↔ 64 ≤ i ∧ s.ownAt i = none ∧ ∃ r ∈ l, r.index = i) ∧
          l.Pairwise (fun a b => a.kind = .level → b.kind = .level) ∧
          (∀ r ∈ l, r.kind ≠ .level → r.index ∈ s.pub.change ∧ r.index ∉ t.pub.change ∧
            r.index ∉ t.pub.level ∧
            (∀ e, s.ownAt r.index = some e → r =
              { kind := if r.index < 64 then .point else .marker, index := r.index, state := e.state,
                value := e.datum.value, place := e.place, loc := e.loc,
                age := min (s.now - e.localSince) 65535 }) ∧
            (s.ownAt r.index = none → r.index < 64 → r =
              { kind := .point, index := r.index, state := .cleared,
                value := (s.scanner.chan r.index).lastLevel,
                place := (s.scanner.config r.index).place, loc := (s.scanner.config r.index).loc,
                age := 65535 }) ∧
            (s.ownAt r.index = none → 64 ≤ r.index → ∃ c, s.pub.copyAt r.index = some c ∧ r =
              { kind := .marker, index := r.index, state := .cleared, value := c.crew,
                place := c.place, loc := c.loc, age := 65535 })) ∧
          (∀ r ∈ l, r.kind = .level → r.index ∈ s.pub.level ∧ r.index ∉ t.pub.level ∧
            ∃ e, s.ownAt r.index = some e ∧ r =
              { kind := .level, index := r.index, state := .cleared, value := e.datum.value,
                place := none, loc := ⟨0, 0⟩, age := 0 }) ∧
          (∀ i ∈ s.pub.change, i ∈ t.pub.change ∨ (∃ r ∈ l, r.kind ≠ .level ∧ r.index = i) ∨
            (64 ≤ i ∧ s.ownAt i = none ∧ s.pub.copyAt i = none)) ∧
          (∀ i ∈ s.pub.level, i ∈ t.pub.level ∨ (∃ r ∈ l, r.index = i) ∨ s.ownAt i = none) ∧
          (l.length < 12 → t.pub.change = [] ∧ t.pub.level = []) ∧
          (nextItem s = some .urgent →
            (l.head?.map (fun r => decide (6 ≤ r.state.rank))) = some true))

/-- A FULLSET frame walks the own entries from the cursor: up to 12 records, none CLEARED, in rising index,
with FIRST at the beginning of a series, START while start pending is set, and LAST when no active own entry
stands at or above the new cursor (R98). -/
def Obligations.FullsetFrameWalksTheCursor : Prop :=
  ∀ s : State, s.control.resetHeld = false → nextItem s = some .start ∨ nextItem s = some .series →
    ∃ t f l next, exec .fullsetFrameBuild s = .next t ∧ Placed f s t ∧ t.table = s.table ∧
      f.kind = .fullset ∧ HeaderOf f s ∧ f.body = .records l ∧ l.length ≤ 12 ∧
      t.pub.copies = s.pub.copies ∧ t.pub.copiesInFlight = [] ∧
      f.first = s.pub.cursor.isNone ∧ f.start = (f.first && s.pub.startPending) ∧
      (∀ r ∈ l, s.pub.cursor.getD 0 ≤ r.index ∧ r.state ≠ .cleared ∧ r.kind ≠ .level ∧
        (∃ e, s.ownAt r.index = some e ∧ r.state = e.state ∧ r.value = e.datum.value ∧
          r.place = e.place ∧ r.loc = e.loc ∧ r.age = min (s.now - e.localSince) 65535) ∧
        r.index ∉ t.pub.change ∧ r.index ∉ t.pub.level) ∧
      l.Pairwise (fun a b => a.index < b.index) ∧
      next = (match l.getLast? with | some r => r.index + 1 | none => 80) ∧
      (∀ i e, s.pub.cursor.getD 0 ≤ i → i < next → i ≤ 79 → s.ownAt i = some e → e.state ≠ .cleared →
        ∃ r ∈ l, r.index = i) ∧
      (f.last = true ↔ ∀ i e, next ≤ i → i ≤ 79 → s.ownAt i = some e → e.state = .cleared) ∧
      t.pub.cursor = some (if f.last then 80 else next) ∧
      t.pub.frameStart = some (s.pub.cursor.getD 0) ∧
      (f.first = true → t.pub.fullsetDue = false) ∧
      (f.first = false → t.pub.fullsetDue = s.pub.fullsetDue)

/-- A SUMMARY carries the own active count, the own revision and the conditions (R95); a RESYNC names the
lowest WANTED origins in rising number, up to 8, and changes no resync state (R102). -/
def Obligations.SummaryAndResyncFramesBuilt : Prop :=
  (∀ s : State, s.control.resetHeld = false → nextItem s = some .summary →
    ∃ t, exec .summaryFrameBuild s = .next t ∧ t.table = s.table ∧
      t.pub.summaryCounter = s.pub.summaryCounter ∧ t.pub.copies = s.pub.copies ∧
      t.pub.copiesInFlight = [] ∧
      Placed
        { kind := .summary, first := false, last := false, start := false, station := s.own,
          seq := s.pub.seq, seed := s.pub.seed,
          body := .summary s.ownActive
            (if s.hasCondition .plan then none else s.control.revision) s.control.conditions } s t) ∧
  (∀ s : State, s.control.resetHeld = false → nextItem s = some .resync →
    ∃ t l, exec .resyncFrameBuild s = .next t ∧ t.table = s.table ∧ t.pub.copies = s.pub.copies ∧
      t.pub.copiesInFlight = [] ∧
      Placed
        { kind := .resync, first := false, last := false, start := false, station := s.own,
          seq := s.pub.seq, seed := s.pub.seed, body := .names l } s t ∧
      1 ≤ l.length ∧ l.length ≤ 8 ∧ l.Pairwise (· < ·) ∧
      (∀ x ∈ l, (s.origin x).resync = .wanted) ∧
      (∀ x, 1 ≤ x → (s.origin x).resync = .wanted → x ∉ l → l.length = 8 ∧ ∀ y ∈ l, y < x))

/-! ## Incident origin and spread (chapter 6) -/

/-- The alarm count by the table of R109, with what moves beside it: the ALARM that finds the Monitor QUIET makes
it ACTIVE and is named as the incident origin without a notice (R110); one that comes during the hold, or is
older than the origin named, is named in its place (R111, R115); when the named entry leaves, the oldest ALARM
held is named (R112), or the hold starts, or an IncidentHold of 0 ends the incident at once (R114); a LEVEL
carries the named entry's location (R113). ORIGIN_MOVED is raised where another address is named (R113). -/
def Obligations.AlarmCountFollowsTheChanges : Prop :=
  ∀ (pc : PictureChange) (s t : State), t = monitorTakes pc s →
    ((pc.kind = .admission ∧ pc.entry.state = .alarm) ∨
        (pc.kind = .state ∧ pc.entry.state = .alarm ∧ pc.prevState ≠ some .alarm) →
      t.incident.alarmCount = s.incident.alarmCount + 1 ∧
      (s.incident.active = false → t.crew = s.crew ∧ t.incident.active = true ∧
        t.incident.origin = some ⟨pc.entry.addr, pc.entry.loc, pc.entry.localSince⟩ ∧
        t.incident.vertical = s.incident.vertical ∧ t.incident.lateral = s.incident.lateral) ∧
      (s.incident.active = true → t.incident.active = true ∧ t.incident.hold = none ∧
        ∀ o, s.incident.origin = some o →
        (s.incident.hold ≠ none ∨ pc.entry.localSince < o.since ∨
            (pc.entry.localSince = o.since ∧ pc.entry.addr.before o.addr = true) →
          t.incident.origin = some ⟨pc.entry.addr, pc.entry.loc, pc.entry.localSince⟩ ∧
          t.incident.vertical = s.incident.vertical ∧ t.incident.lateral = s.incident.lateral ∧
          (o.addr ≠ pc.entry.addr → ∀ ch, s.isAttached ch = true →
            NoticeSet.has (t.channel ch).notices .originMoved = true) ∧
          (o.addr = pc.entry.addr → t.crew = s.crew)) ∧
        (s.incident.hold = none → ¬(pc.entry.localSince < o.since ∨
            (pc.entry.localSince = o.since ∧ pc.entry.addr.before o.addr = true)) →
          t.incident.origin = some o ∧ ∀ ch, NoticeSet.has (t.channel ch).notices .originMoved =
            NoticeSet.has (s.channel ch).notices .originMoved))) ∧
    ((pc.kind = .state ∧ pc.prevState = some .alarm ∧ pc.entry.state ≠ .alarm) ∨
        ((pc.kind = .remove ∨ pc.kind = .evict) ∧ pc.entry.state = .alarm) →
      t.incident.alarmCount = s.incident.alarmCount - 1 ∧
      (s.incident.alarmCount ≤ 1 → s.incident.active = true → t.crew = s.crew ∧
        t.incident =
          if s.incident.incidentHold = 0 then
            { s.incident with
              alarmCount := 0, active := false, origin := none, vertical := false, lateral := false,
              hold := none }
          else { s.incident with alarmCount := 0, hold := some 0 }) ∧
      (2 ≤ s.incident.alarmCount → (∀ o, s.incident.origin = some o → o.addr ≠ pc.entry.addr) →
        t.crew = s.crew ∧
        t.incident = { s.incident with alarmCount := s.incident.alarmCount - 1 }) ∧
      (∀ o x, 2 ≤ s.incident.alarmCount → TableOk s → s.incident.origin = some o →
        o.addr = pc.entry.addr → x ∈ s.entries → x.state = .alarm →
        (∀ y ∈ s.entries, y.state = .alarm → y.addr ≠ x.addr → x.localSince < y.localSince ∨
          (x.localSince = y.localSince ∧ x.addr.before y.addr = true)) →
        t.incident = { s.incident with
          alarmCount := s.incident.alarmCount - 1, origin := some ⟨x.addr, x.loc, x.localSince⟩ } ∧
        (x.addr ≠ o.addr → ∀ ch, s.isAttached ch = true →
          NoticeSet.has (t.channel ch).notices .originMoved = true) ∧
        (x.addr = o.addr → t.crew = s.crew))) ∧
    ((pc.kind = .level ∨ pc.kind = .confirm ∨ pc.kind = .unconfirm) ∨
        (pc.kind = .state ∧ pc.prevState ≠ some .alarm ∧ pc.entry.state ≠ .alarm) ∨
        ((pc.kind = .admission ∨ pc.kind = .remove ∨ pc.kind = .evict) ∧ pc.entry.state ≠ .alarm) →
      t.incident.alarmCount = s.incident.alarmCount ∧
      (∀ o, pc.kind = .level → pc.entry.state = .alarm → s.incident.origin = some o →
        o.addr = pc.entry.addr →
        t = { s with incident := { s.incident with origin := some { o with loc := pc.entry.loc } } }) ∧
      (pc.kind ≠ .level ∨ pc.entry.state ≠ .alarm ∨
          (∀ o, s.incident.origin = some o → o.addr ≠ pc.entry.addr) →
        t = s))

/-- The vertical condition, its flag and its notice (R117). The check is made of an entry at an ADMIT or a STATE
into ALARM, against the incident origin as it stands after that change, and at no other change; a flag set stays
set until the incident ends (R116). -/
def Obligations.VerticalSpreadRaisedOnce : Prop :=
  (∀ (e : Entry) (o : IncidentOrigin) (s : State), s.incident.origin = some o →
    ((s.incident.spreadFloors ≠ 0 ∧ e.loc.floor ≠ 127 ∧ o.loc.floor ≠ 127 ∧
        (s.incident.spreadFloors + e.loc.floor ≤ o.loc.floor ∨
          s.incident.spreadFloors + o.loc.floor ≤ e.loc.floor)) ∧ s.incident.vertical = false →
      (checkVertical e s).incident = { s.incident with vertical := true } ∧
      (∀ ch, s.isAttached ch = true →
        NoticeSet.has ((checkVertical e s).channel ch).notices .spreadVertical = true) ∧
      (∀ ch, s.isAttached ch = false → (checkVertical e s).channel ch = s.channel ch)) ∧
    (¬(s.incident.spreadFloors ≠ 0 ∧ e.loc.floor ≠ 127 ∧ o.loc.floor ≠ 127 ∧
        (s.incident.spreadFloors + e.loc.floor ≤ o.loc.floor ∨
          s.incident.spreadFloors + o.loc.floor ≤ e.loc.floor)) ∨ s.incident.vertical = true →
      checkVertical e s = s)) ∧
  (∀ (pc : PictureChange) (s t : State), t = monitorTakes pc s →
    ((pc.kind = .admission ∨ pc.kind = .state) ∧ pc.entry.state = .alarm →
      ∃ o, t.incident.origin = some o ∧ ∀ met : Prop,
        (met ↔ s.incident.spreadFloors ≠ 0 ∧ pc.entry.loc.floor ≠ 127 ∧ o.loc.floor ≠ 127 ∧
          (s.incident.spreadFloors + pc.entry.loc.floor ≤ o.loc.floor ∨
            s.incident.spreadFloors + o.loc.floor ≤ pc.entry.loc.floor)) →
        (t.incident.vertical = true ↔ s.incident.vertical = true ∨ met) ∧
        (met → s.incident.vertical = false → ∀ ch, s.isAttached ch = true →
          NoticeSet.has (t.channel ch).notices .spreadVertical = true) ∧
        (¬met ∨ s.incident.vertical = true → ∀ ch, NoticeSet.has (t.channel ch).notices .spreadVertical =
          NoticeSet.has (s.channel ch).notices .spreadVertical)) ∧
    (¬((pc.kind = .admission ∨ pc.kind = .state) ∧ pc.entry.state = .alarm) →
      (t.incident.active = s.incident.active → t.incident.vertical = s.incident.vertical) ∧
      (t.incident.active ≠ s.incident.active → t.incident.vertical = false) ∧
      ∀ ch, NoticeSet.has (t.channel ch).notices .spreadVertical =
        NoticeSet.has (s.channel ch).notices .spreadVertical))

/-- The lateral condition, its flag and its notice (R118). The check is made of an entry at an ADMIT or a STATE
into ALARM, against the incident origin as it stands after that change, and at no other change; a flag set stays
set until the incident ends (R116). -/
def Obligations.LateralSpreadRaisedOnce : Prop :=
  (∀ (e : Entry) (o : IncidentOrigin) (s : State), s.incident.origin = some o →
    ((e.loc.floor ≠ 127 ∧ o.loc.floor ≠ 127 ∧ e.loc.floor = o.loc.floor ∧
        s.incident.groups.getD e.loc.compartment 0 ≠ s.incident.groups.getD o.loc.compartment 0) ∧
        s.incident.lateral = false →
      (checkLateral e s).incident = { s.incident with lateral := true } ∧
      (∀ ch, s.isAttached ch = true →
        NoticeSet.has ((checkLateral e s).channel ch).notices .spreadLateral = true) ∧
      (∀ ch, s.isAttached ch = false → (checkLateral e s).channel ch = s.channel ch)) ∧
    (¬(e.loc.floor ≠ 127 ∧ o.loc.floor ≠ 127 ∧ e.loc.floor = o.loc.floor ∧
        s.incident.groups.getD e.loc.compartment 0 ≠ s.incident.groups.getD o.loc.compartment 0) ∨
        s.incident.lateral = true →
      checkLateral e s = s)) ∧
  (∀ (pc : PictureChange) (s t : State), t = monitorTakes pc s →
    ((pc.kind = .admission ∨ pc.kind = .state) ∧ pc.entry.state = .alarm →
      ∃ o, t.incident.origin = some o ∧ ∀ met : Prop,
        (met ↔ pc.entry.loc.floor ≠ 127 ∧ o.loc.floor ≠ 127 ∧ pc.entry.loc.floor = o.loc.floor ∧
          s.incident.groups.getD pc.entry.loc.compartment 0 ≠
            s.incident.groups.getD o.loc.compartment 0) →
        (t.incident.lateral = true ↔ s.incident.lateral = true ∨ met) ∧
        (met → s.incident.lateral = false → ∀ ch, s.isAttached ch = true →
          NoticeSet.has (t.channel ch).notices .spreadLateral = true) ∧
        (¬met ∨ s.incident.lateral = true → ∀ ch, NoticeSet.has (t.channel ch).notices .spreadLateral =
          NoticeSet.has (s.channel ch).notices .spreadLateral)) ∧
    (¬((pc.kind = .admission ∨ pc.kind = .state) ∧ pc.entry.state = .alarm) →
      (t.incident.active = s.incident.active → t.incident.lateral = s.incident.lateral) ∧
      (t.incident.active ≠ s.incident.active → t.incident.lateral = false) ∧
      ∀ ch, NoticeSet.has (t.channel ch).notices .spreadLateral =
        NoticeSet.has (s.channel ch).notices .spreadLateral))

/-! ## The plan store (chapter 7) -/

/-- The decode of a block's byte address, or of its number, into its bank and its place there, for numbers
past the address space as well, and the ghosts at which each bank appears again (R122). -/
def Obligations.BlockAddressDecodes : Prop :=
  ∀ (st : Straps) (b a size p : Nat), a = 256 * (b % 262144) →
    size = (match st.bankSize with | .mb2 => 2 | .mb4 => 4 | .mb8 => 8 | .mb16 => 16) * 1048576 →
    256 * p = size →
    bankOf st b = a / size % 4 ∧ 256 * placeInBank st b = a % size ∧
      bankOf st b = b % 262144 / p % 4 ∧ placeInBank st b = b % 262144 % p ∧
      bankOf st (b + 262144) = bankOf st b ∧ placeInBank st (b + 262144) = placeInBank st b ∧
      (b % 262144 + 4 * p < 262144 → bankOf st (b % 262144 + 4 * p) = bankOf st b ∧
        placeInBank st (b % 262144 + 4 * p) = placeInBank st b)

/-- The end of a transfer: an intact block completes its read, a first failure makes a second transfer, a
second failure completes it DAMAGED, and an orphaned read ends without an answer (R128, R130). What the Bundle
Engine does with an answer: the handle of a sheet found or absent, with its HEAD and its first reads (R139,
R141), a block into the buffer (R142), an answer or an end that no bundle waits for (R150). That a bundle in
LOOKUP owes its HEAD is kept by every step (StepsKeepTheSizes). The first block 0
of an absent sheet's handle is the model's choice (DESIGN CHOICE, log 33). -/
def Obligations.TransferEndCompletesOrRereads : Prop :=
  (∀ (p q : PlanStore) (st : Straps) (r : ReadRequest) (b : BlockBytes) (out : List StoreReport),
    (q, out) = p.transferEnd st b →
    (p.engine = .first r false → blockIntact b = true →
      out.head? = some (.answer r .intact (answerData r (b.val.take 254))) ∧
      q.rereads = p.rereads ∧ q.damaged = p.damaged) ∧
    (∀ o, p.engine = .first r o → blockIntact b = false → o = false →
      q = { p with engine := .second r false, rereads := min (p.rereads + 1) 65535 } ∧ out = []) ∧
    (p.engine = .second r false → blockIntact b = true →
      out.head? = some (.answer r .intact (answerData r (b.val.take 254))) ∧
      q.rereads = p.rereads ∧ q.damaged = p.damaged) ∧
    (p.engine = .second r false → blockIntact b = false →
      out.head? = some (.answer r .damaged (answerData r (b.val.take 254))) ∧
      q.rereads = p.rereads ∧ q.damaged = min (p.damaged + 1) 65535) ∧
    (∀ ch, r.who = .channel ch → p.engine = .first r true →
      out.head? = some (.orphanEnd ch) ∧ q.rereads = p.rereads ∧ q.damaged = p.damaged) ∧
    (∀ ch, r.who = .channel ch → p.engine = .second r true →
      out.head? = some (.orphanEnd ch) ∧ q.rereads = p.rereads ∧
      q.damaged = (if blockIntact b then p.damaged else min (p.damaged + 1) 65535))) ∧
  (∀ (r : ReadRequest) (b : BlockBytes) (s u : State), s.control.resetHeld = false → u = settle s →
    u.store.engine = .first r false → blockIntact b = false →
    exec (.transferEnd b) s = .next { u with store := { u.store with
      engine := .second r false, rereads := min (u.store.rereads + 1) 65535 } }) ∧
  (∀ (r : ReadRequest) (b : BlockBytes) (ch : Fin 4) (s u : State),
    s.control.resetHeld = false → u = settle s → r.who = .channel ch → blockIntact b = true →
    u.store.engine = .first r false ∨ u.store.engine = .second r false → u.store.mainQueue = [] →
    u.store.promoteQueue = [] → ∀ out : State × List StoreReport, out = bundleHears
      (.answer r .intact (answerData r (b.val.take 254)))
      (u.withStore { u.store with engine := .idle }) →
    exec (.transferEnd b) s = .next (deliver 63 out.2 out.1)) ∧
  (∀ (r : ReadRequest) (code : ReadCode) (data : List Byte) (ch : Fin 4) (s : State)
      (out : State × List StoreReport) (old new : Bundle), r.who = .channel ch →
    out = bundleHears (.answer r code data) s → old = s.bundle ch → new = out.1.bundle ch →
    (∀ (n : Nat) (h : Handle) (reads : Nat), r.what = .handle n → old.state = .lookup →
      old.head = .owed →
      h = (if code = .intact ∧ (data.getD 7 0).getLsbD 0 = false ∧ 1 ≤ fieldAt data 4 ∧
          fieldAt data 4 ≤ 2048 then
        ⟨longAt data 0 % 262144, fieldAt data 4, min (byteAt data 6) 127, false⟩ else ⟨0, 0, 127, true⟩) →
      reads = min h.blockCount (3 - old.outstanding) →
      new.state = .stream ∧ new.handle = some h ∧
      (old.pendingMsg = none → new.head = .waiting ∧ new.pendingMsg = some
        (.bundleHead (old.sheet.getD 0) h.floor h.blockCount
          (if s.hasCondition .plan then none else s.control.revision) h.absent old.urgent)) ∧
      (old.pendingMsg ≠ none → new.pendingMsg = old.pendingMsg ∧ new.head = old.head) ∧
      (h.absent = true → out.1.store = s.store ∧ out.2 = [] ∧
        new.outstanding = old.outstanding - 1) ∧
      (h.absent = false → old.readCursor = 0 → old.blockCursor = 0 → old.buffer = [] →
        old.outstanding = 1 ∨ old.outstanding = 2 → new.readCursor = reads ∧
        new.outstanding = old.outstanding - 1 + reads ∧
        ∀ one two : PlanStore × List StoreReport,
          one = s.store.request s.control.straps
            { who := .channel ch, what := .block, block := h.firstBlock, demand := true,
              urgent := old.urgent } →
          two = one.1.request s.control.straps
            { who := .channel ch, what := .block, block := h.firstBlock + 1, demand := false,
              urgent := old.urgent } →
          out.1.store = (if reads = 1 then one.1 else two.1) ∧
            out.2 = (if reads = 1 then one.2 else one.2 ++ two.2))) ∧
    (∀ k : BufferedBlock, r.what = .block → old.state = .stream →
      k = { index := old.blockCursor + old.buffer.length, damaged := decide (code ≠ .intact),
            content := if code = .absent then List.replicate 254 0 else data } →
      out.2 = [] ∧ out.1.store = s.store ∧ new.outstanding = old.outstanding - 1 ∧
      new.buffer = old.buffer ++ [k] ∧
      (old.pendingMsg = none → old.head = .placed → old.buffer = [] →
        (∃ h, old.handle = some h ∧ old.blockCursor < h.blockCount) →
        new.state = .stream ∧ new.pendingMsg = some (.block k.index k.damaged k.content)) ∧
      (old.pendingMsg ≠ none → new.pendingMsg = old.pendingMsg)) ∧
    ((∀ n, r.what = .handle n → old.state ≠ .lookup) → (r.what = .block → old.state ≠ .stream) →
      out = (s, []))) ∧
  (∀ (ch : Fin 4) (s : State) (out : State × List StoreReport) (old : Bundle), old = s.bundle ch →
    out = bundleHears (.orphanEnd ch) s →
    (old.state ≠ .stream →
      out = (s.setBundle ch { old with outstanding := old.outstanding - 1 }, [])) ∧
    (∀ h, old.state = .stream → old.handle = some h → h.absent = false →
      old.readCursor < h.blockCount → 1 ≤ old.outstanding →
      old.outstanding + old.buffer.length = 2 →
      out.1.bundle ch = { old with readCursor := old.readCursor + 1 } ∧
      (out.1.store, out.2) = s.store.request s.control.straps
        { who := .channel ch, what := .block, block := h.firstBlock + old.readCursor,
          demand := !(old.readCursor == 1 && old.blockCursor == 0), urgent := old.urgent }))

/-- The loader's read of the header completes: a good one gives the layout and the revision and asks for
the configuration record; a bad one sets PLAN and CONFIG and the station runs on the defaults (R174, R176).
Then the configuration record and the directory blocks (R175), and the entry to RUNNING with the loaded
configuration, each block's values as R176, R187 and R188 give them. -/
def Obligations.HeaderAnswerLoadsOrFallsBack : Prop :=
  ∀ (r : ReadRequest) (second : Bool) (b : BlockBytes) (s u : State), s.control.resetHeld = false →
    u = settle s → u.control.running = false →
    r.who = .loader → r.what = .block →
    u.store.engine = (if second then .second r false else .first r false) →
    u.store.mainQueue = [] → u.store.promoteQueue = [] →
    (u.control.step = .header →
    (blockIntact b = true → b.val.take 4 = [0x5A, 0x3C, 0xA5, 0xC3] →
      populated u.control.straps (configBlock (layoutOf (b.val.take 254)) u.own) = true →
      ∃ t, exec (.transferEnd b) s = .next t ∧ t.control.running = false ∧ t.control.step = .config ∧
        t.control.revision = some (fieldAt b.val 4) ∧
        t.control.conditions = u.control.conditions ∧
        t.store.layout = some
          { configStart := longAt b.val 8 % 262144, dirStart := longAt b.val 12 % 262144,
            handleStart := longAt b.val 16 % 262144, sheetCount := min (fieldAt b.val 6) 1023 } ∧
        t.store.engine = .first
          { who := .loader, what := .block, demand := true, urgent := false,
            block := (longAt b.val 8 % 262144 + (u.own - 1)) % 262144 } false) ∧
    ((blockIntact b = true ∧ b.val.take 4 ≠ [0x5A, 0x3C, 0xA5, 0xC3]) ∨
        (blockIntact b = false ∧ second = true) →
      ∃ t, exec (.transferEnd b) s = .next t ∧ t.control.running = true ∧
        t.control.defaultsInUse = true ∧ t.control.revision = u.control.revision ∧
        t.store.layout = u.store.layout ∧ t.hasCondition .plan = true ∧
        t.hasCondition .config = true ∧ t.scanner.cfg = ScanConfig.default ∧
        t.table.clearHold = 600 ∧ t.pub.seed = 193 ∧ t.pub.summaryCounter = 64 ∧
        t.incident.incidentHold = 3000 ∧ t.incident.spreadFloors = 2 ∧
        t.crew.notifyVector = 0xFFFF ∧ t.store.engine = .idle)) ∧
    (∀ l, u.control.step = .config → u.store.layout = some l →
      (blockIntact b = true → byteAt b.val 0 = u.own →
        populated u.control.straps ((l.dirStart + (u.own - 1) * 64 / 31) % 262144) = true →
        ∃ t, exec (.transferEnd b) s = .next t ∧ t.control.running = false ∧
          t.control.step = .directory 0 ∧ t.control.loadedRecord = some (b.val.take 254) ∧
          t.control.conditions = u.control.conditions ∧
          t.store.engine = .first
            { who := .loader, what := .block, demand := true, urgent := false,
              block := (l.dirStart + (u.own - 1) * 64 / 31) % 262144 } false) ∧
      ((blockIntact b = true ∧ byteAt b.val 0 ≠ u.own) ∨ (blockIntact b = false ∧ second = true) →
        ∃ t, exec (.transferEnd b) s = .next t ∧ t.control.running = true ∧
          t.control.defaultsInUse = true ∧ t.control.revision = u.control.revision ∧
          t.store.layout = u.store.layout ∧ t.hasCondition .plan = u.hasCondition .plan ∧
          t.hasCondition .config = true ∧ t.scanner.cfg = ScanConfig.default ∧
          t.table.clearHold = 600 ∧ t.pub.seed = 193 ∧ t.pub.summaryCounter = 64 ∧
          t.incident.incidentHold = 3000 ∧ t.incident.spreadFloors = 2 ∧
          t.crew.notifyVector = 0xFFFF ∧ t.store.engine = .idle)) ∧
    (∀ (k : Nat) (l : Layout) (first : Nat) (dir : List (Option (List Byte))),
      u.control.step = .directory k → u.store.layout = some l → first = (u.own - 1) * 64 →
      blockIntact b = true ∨ second = true →
      dir = u.control.loadedDirectory ++ ((List.range 64).filter
          (fun i => (first + i) / 31 == first / 31 + k)).map
        (fun i => if blockIntact b then some ((b.val.drop (8 * ((first + i) % 31))).take 8) else none) →
      (first / 31 + k < (first + 63) / 31 →
        populated u.control.straps ((l.dirStart + (first / 31 + (k + 1))) % 262144) = true →
        ∃ t, exec (.transferEnd b) s = .next t ∧ t.control.running = false ∧
          t.control.step = .directory (k + 1) ∧ t.control.loadedDirectory = dir ∧
          t.control.conditions = u.control.conditions ∧
          t.store.engine = .first
            { who := .loader, what := .block, demand := true, urgent := false,
              block := (l.dirStart + (first / 31 + (k + 1))) % 262144 } false) ∧
      (∀ rec, (first + 63) / 31 ≤ first / 31 + k → u.control.defaultsInUse = false →
        u.control.loadedRecord = some rec →
        ∃ t, exec (.transferEnd b) s = .next t ∧ t.control.running = true ∧
          t.control.conditions = u.control.conditions ∧ t.control.revision = u.control.revision ∧
          t.scanner.channels = u.scanner.channels ∧
          (∀ i, i < 64 → ∀ c, c = t.scanner.config i →
            c.kind = (match (byteAt rec (1 + i)) % 8 with
              | 1 => .detector | 2 => .callpoint | 3 => .flow | 4 => .supervisory | _ => .unused) ∧
            c.latched = (rec.getD (1 + i) 0).getLsbD 3 ∧ c.invert = (rec.getD (1 + i) 0).getLsbD 4 ∧
            (dir.getD i none = none → c.loc = ⟨127, 0⟩ ∧ c.place = none) ∧
            (∀ e, dir.getD i none = some e →
              c.loc = ⟨min (byteAt e 0) 127, byteAt e 1 % 16⟩ ∧
              c.place = if 1022 < fieldAt e 2 then none
                else some ⟨fieldAt e 2, min (fieldAt e 4) 4095, min (fieldAt e 6) 4095⟩)) ∧
          t.scanner.cfg.detector = orderThresholds ⟨byteAt rec 65, byteAt rec 66, byteAt rec 67⟩ ∧
          t.scanner.cfg.callpoint = orderThresholds ⟨byteAt rec 68, byteAt rec 69, byteAt rec 70⟩ ∧
          t.scanner.cfg.flow = orderThresholds ⟨byteAt rec 71, byteAt rec 72, byteAt rec 73⟩ ∧
          t.scanner.cfg.supervisory = orderThresholds ⟨byteAt rec 74, byteAt rec 75, byteAt rec 76⟩ ∧
          t.scanner.cfg.prealarmConfirm = takeConfirm (byteAt rec 77) ∧
          t.scanner.cfg.alarmConfirm = takeConfirm (byteAt rec 78) ∧
          t.scanner.cfg.faultConfirm = takeConfirm (byteAt rec 79) ∧
          t.scanner.cfg.releaseCount = takeConfirm (byteAt rec 80) ∧
          t.scanner.cfg.levelDivider = takeDivider (byteAt rec 81) ∧
          t.scanner.cfg.levelStep = takeStep (byteAt rec 82) ∧
          t.pub.seed = byteAt rec 83 ∧ t.pub.summaryCounter = (255 - byteAt rec 83) + 2 ∧
          t.table.clearHold = fieldAt rec 84 ∧
          t.incident = { u.incident with
            incidentHold := fieldAt rec 86, spreadFloors := min (byteAt rec 88) 7
            groups := (List.range 16).map (fun c => byteAt rec (89 + c) % 4) } ∧
          t.crew.notifyVector = BitVec.ofNat 16 (fieldAt rec 105) ∧ t.store.engine = .idle ∧
          (∀ e, u.ownAt 0 = some e → t.ownAt 0 = some { e with
            loc := (t.scanner.config 0).loc, place := (t.scanner.config 0).place }) ∧
          (∀ a, a ≠ ⟨u.own, 0⟩ → t.entryAt a = u.entryAt a)))

/-! ## Sheet bundles (chapter 8) -/

/-- A SHEET request on an attached channel whose bundle is IDLE begins a bundle: with its urgent flag judged
from the picture, its HANDLE request queued, in flight, or answered ABSENT at once without a layout, past the
sheet count or over an unpopulated bank; while CLOSING the sheet becomes the pending sheet (R123, R134, R138,
R139). The first block 0 of an absent sheet's handle is the model's choice (DESIGN CHOICE, log 33). -/
def Obligations.SheetBeginsABundle : Prop :=
  ∀ (ch : Fin 4) (hi lo : Byte) (n : Nat) (att : Attachment) (s u : State),
    s.control.resetHeld = false → u = settle s →
    u.crew.receiver = [] → u.control.running = true →
    (u.channel ch).pendingAnswer = none → (u.channel ch).attached = some att → n = ofBe16 hi lo →
    n ≤ 1022 → u.store.EngineOk →
    ∃ t, exec (.sheet ch [hi, lo]) s = .next t ∧ (∀ d, t.channel d = u.channel d) ∧
      t.table = u.table ∧
      ((u.bundle ch).state = .idle → (u.bundle ch).pendingMsg = none →
        (t.bundle ch).sheet = some n ∧ (t.bundle ch).blockCursor = 0 ∧
        (t.bundle ch).damagedCount = 0 ∧ (t.bundle ch).snapshot = [] ∧ (t.bundle ch).buffer = [] ∧
        ((t.bundle ch).urgent = true ↔
          ∃ e ∈ u.entries, sheetOf e.place = some n ∧ 5 ≤ e.state.rank) ∧
        ((u.store.layout = none ∨ ∃ l, u.store.layout = some l ∧ l.sheetCount ≤ n) →
          (t.bundle ch).state = .stream ∧ (t.bundle ch).handle = some ⟨0, 0, 127, true⟩ ∧
          (t.bundle ch).outstanding = (u.bundle ch).outstanding ∧ t.store = u.store ∧
          (t.bundle ch).pendingMsg = some (.bundleHead n 127 0
            (if u.hasCondition .plan then none else u.control.revision) true (t.bundle ch).urgent)) ∧
        (∀ l, u.store.layout = some l → n < l.sheetCount → u.store.engine ≠ .idle →
          (t.bundle ch).state = .lookup ∧ (t.bundle ch).handle = none ∧
          (t.bundle ch).outstanding = (u.bundle ch).outstanding + 1 ∧
          t.store.engine = u.store.engine ∧
          (let r : ReadRequest :=
            { who := .channel ch, what := .handle n, block := (l.handleStart + n / 31) % 262144,
              demand := true, urgent := (t.bundle ch).urgent }
           if (t.bundle ch).urgent = true ∧ u.store.promoteQueue.length < 2 ∧
               ∀ q ∈ u.store.mainQueue, q.who ≠ .channel ch then
             t.store.promoteQueue = u.store.promoteQueue ++ [r] ∧
               t.store.mainQueue = u.store.mainQueue
           else t.store.mainQueue = u.store.mainQueue ++ [r] ∧
             t.store.promoteQueue = u.store.promoteQueue)) ∧
        (∀ l, u.store.layout = some l → n < l.sheetCount → u.store.engine = .idle →
          populated u.control.straps ((l.handleStart + n / 31) % 262144) = true →
          (t.bundle ch).state = .lookup ∧ (t.bundle ch).handle = none ∧
          t.store.engine = .first
            { who := .channel ch, what := .handle n, block := (l.handleStart + n / 31) % 262144,
              demand := true, urgent := (t.bundle ch).urgent } false) ∧
        (∀ l, u.store.layout = some l → n < l.sheetCount → u.store.engine = .idle →
          populated u.control.straps ((l.handleStart + n / 31) % 262144) = false →
          (t.bundle ch).state = .stream ∧ (t.bundle ch).handle = some ⟨0, 0, 127, true⟩ ∧
          (t.bundle ch).outstanding = (u.bundle ch).outstanding ∧
          t.store = { u.store with absent := min (u.store.absent + 1) 65535 } ∧
          (t.bundle ch).pendingMsg = some (.bundleHead n 127 0
            (if u.hasCondition .plan then none else u.control.revision) true (t.bundle ch).urgent))) ∧
      ((u.bundle ch).state = .closing → t.store = u.store ∧
        t.bundle ch = { u.bundle ch with pendingSheet := some n })

/-- A new SHEET aborts the bundle in progress: its END ABORTED becomes the pending message with the counts
as the bundle stood, its queued reads are removed, and its read in flight is orphaned (R130, R148). -/
def Obligations.NewSheetAbortsTheBundle : Prop :=
  ∀ (ch : Fin 4) (hi lo : Byte) (att : Attachment) (s u : State), s.control.resetHeld = false →
    u = settle s →
    u.crew.receiver = [] → u.control.running = true → (u.channel ch).pendingAnswer = none →
    (u.channel ch).attached = some att → ofBe16 hi lo ≤ 1022 →
    ((u.bundle ch).state = .lookup ∨ (u.bundle ch).state = .stream ∨
      (u.bundle ch).state = .overlay) →
    ∃ t, exec (.sheet ch [hi, lo]) s = .next t ∧ (∀ d, t.channel d = u.channel d) ∧
      (t.bundle ch).sheet = some (ofBe16 hi lo) ∧ (t.bundle ch).late = [] ∧
      (t.bundle ch).buffer = [] ∧ (t.bundle ch).snapshot = [] ∧
      (t.bundle ch).pendingMsg = some (.bundleEnd ((u.bundle ch).sheet.getD 0)
        (if (u.bundle ch).state = .overlay then (u.bundle ch).overlayCursor else 0)
        (if (u.bundle ch).state = .overlay then (u.bundle ch).matching else 0)
        (u.bundle ch).late.length (u.bundle ch).damagedCount .aborted) ∧
      (∀ r ∈ t.store.mainQueue, r.who = .channel ch → r.what = .handle (ofBe16 hi lo)) ∧
      (∀ r ∈ t.store.promoteQueue, r.who = .channel ch → r.what = .handle (ofBe16 hi lo)) ∧
      (∀ r o, u.store.engine = .first r o → r.who = .channel ch → t.store.engine = .first r true) ∧
      (∀ r o, u.store.engine = .second r o → r.who = .channel ch → t.store.engine = .second r true)

/-- The placing of a bundle message, where nothing else of the channel waits: a BLOCK needs 4 free places
and moves the block cursor, and the next read is issued (R140 to R142); a BUNDLE END carries the late count of that
moment, makes its sheet the current sheet, and moves the bundle to IDLE or CLOSING (R146); an OVERLAY moves the
overlay cursor (R144); a HEAD leads to the first BLOCK, or with no block to OVERLAY (R139, R142, R143); a late mark
leads to the next, and the last one to IDLE or to the bundle of the pending sheet (R138, R147). The first block 0 of
an absent sheet's handle is the model's choice (DESIGN CHOICE, log 33). -/
def Obligations.BundleMessagePlacedAdvancesTheBundle : Prop :=
  ∀ (ch : Fin 4) (s : State), s.control.resetHeld = false → s.control.running = true →
    OnlyBundleWaits (s.channel ch) →
    (∀ i damaged content, (s.bundle ch).pendingMsg = some (.block i damaged content) →
      ((s.channel ch).queue.length ≤ 20 →
        ∃ t, exec (.bundleMessagePlaced ch) s = .next t ∧
          (t.channel ch).queue = (s.channel ch).queue ++ [.block i damaged content] ∧
          (t.bundle ch).blockCursor = (s.bundle ch).blockCursor + 1 ∧
          (t.bundle ch).damagedCount = (s.bundle ch).damagedCount + (if damaged then 1 else 0) ∧
          ((s.bundle ch).state = .stream → (s.bundle ch).head = .placed →
            (∃ h, (s.bundle ch).handle = some h ∧ h.blockCount = (s.bundle ch).blockCursor + 1 ∧
              h.blockCount ≤ (s.bundle ch).readCursor) →
            (t.bundle ch).state = .overlay) ∧
          (∀ h, (s.bundle ch).state = .stream → (s.bundle ch).handle = some h → h.absent = false →
            (s.bundle ch).readCursor < h.blockCount → 1 ≤ (s.bundle ch).buffer.length →
            (s.bundle ch).outstanding + (s.bundle ch).buffer.length = 2 → s.store.engine ≠ .idle →
            (t.bundle ch).readCursor = (s.bundle ch).readCursor + 1 ∧
            (t.bundle ch).outstanding = (s.bundle ch).outstanding + 1 ∧
            t.store = (s.store.request s.control.straps
              { who := .channel ch, what := .block, block := h.firstBlock + (s.bundle ch).readCursor,
                demand := true, urgent := (s.bundle ch).urgent }).1)) ∧
      (20 < (s.channel ch).queue.length → exec (.bundleMessagePlaced ch) s = .next s)) ∧
    (∀ sheet shown matching late damaged code,
      (s.bundle ch).pendingMsg = some (.bundleEnd sheet shown matching late damaged code) →
      code ≠ .aborted → (s.channel ch).queue.length < 24 →
      ∃ t, exec (.bundleMessagePlaced ch) s = .next t ∧
        (t.channel ch).queue = (s.channel ch).queue ++
          [.bundleEnd sheet shown matching (s.bundle ch).late.length damaged code] ∧
        (t.channel ch).currentSheet = some sheet ∧ OtherChannelsSame ch s t ∧ t.store = s.store ∧
        ((s.bundle ch).late = [] → (t.bundle ch).state = .idle ∧ (t.bundle ch).pendingMsg = none) ∧
        (∀ a l, (s.bundle ch).late = a :: l → (t.bundle ch).state = .closing ∧
          (t.bundle ch).late = l ∧
          ∃ removal m, (t.bundle ch).pendingMsg = some (.markUpdate .late removal m) ∧ m.addr = a)) ∧
    (∀ sheet marks, (s.bundle ch).pendingMsg = some (.overlay sheet marks) →
      (s.bundle ch).state = .overlay → (s.channel ch).queue.length < 24 →
      ∃ t, exec (.bundleMessagePlaced ch) s = .next t ∧
        (t.channel ch).queue = (s.channel ch).queue ++ [.overlay sheet marks] ∧
        (t.bundle ch).overlayCursor = (s.bundle ch).overlayCursor + marks.length ∧
        (t.bundle ch).state = .overlay) ∧
    (∀ (sheet floor count : Nat) (rev : Option Nat) (absent urgent : Bool) (n : Nat) (h : Handle)
        (snap : List Mark),
      (s.bundle ch).pendingMsg = some (.bundleHead sheet floor count rev absent urgent) →
      (s.bundle ch).state = .stream → (s.bundle ch).sheet = some n → (s.bundle ch).handle = some h →
      snap = (snapshotOf s n).1 → (s.channel ch).queue.length < 24 →
      ∃ t, exec (.bundleMessagePlaced ch) s = .next t ∧ t.store = s.store ∧
        OtherChannelsSame ch s t ∧ (t.channel ch).queue = (s.channel ch).queue ++
          [.bundleHead sheet floor count rev absent urgent] ∧
        ((s.bundle ch).blockCursor < h.blockCount → (t.bundle ch).state = .stream ∧
          ((s.bundle ch).buffer = [] → (t.bundle ch).pendingMsg = none) ∧
          (∀ k l, (s.bundle ch).buffer = k :: l → k.index = (s.bundle ch).blockCursor →
            (t.bundle ch).pendingMsg = some (.block k.index k.damaged k.content))) ∧
        ((s.bundle ch).blockCursor = h.blockCount → (t.bundle ch).state = .overlay ∧
          (t.bundle ch).snapshot = snap ∧ (t.bundle ch).matching = (snapshotOf s n).2 ∧
          (t.bundle ch).overlayCursor = 0 ∧ (t.bundle ch).pendingMsg = some
            (if snap = [] then .bundleEnd n 0 (snapshotOf s n).2 (s.bundle ch).late.length
                (s.bundle ch).damagedCount (if h.absent then .absent else .complete)
             else .overlay n (snap.take 8)))) ∧
    (∀ (removal : Bool) (m : Mark) (n : Nat),
      (s.bundle ch).pendingMsg = some (.markUpdate .late removal m) →
      (s.bundle ch).state = .closing → (s.bundle ch).sheet = some n →
      (s.channel ch).queue.length < 24 →
      ∃ t, exec (.bundleMessagePlaced ch) s = .next t ∧ OtherChannelsSame ch s t ∧
        (t.channel ch).queue = (s.channel ch).queue ++ [.markUpdate .late removal m] ∧
        (∀ a l, (s.bundle ch).late = a :: l → (t.bundle ch).state = .closing ∧
          (t.bundle ch).late = l ∧ t.store = s.store ∧
          (∀ e, s.entryAt a = some e → sheetOf e.place = some n →
            (t.bundle ch).pendingMsg = some (.markUpdate .late false (s.markOf e))) ∧
          ((∀ e, s.entryAt a = some e → sheetOf e.place ≠ some n) →
            ∃ k, (t.bundle ch).pendingMsg = some (.markUpdate .late true k) ∧ k.addr = a)) ∧
        ((s.bundle ch).late = [] → (s.bundle ch).pendingSheet = none →
          t.store = s.store ∧ (t.bundle ch).state = .idle ∧ (t.bundle ch).pendingMsg = none) ∧
        (∀ p, (s.bundle ch).late = [] → (s.bundle ch).pendingSheet = some p →
          ((s.store.layout = none ∨ ∃ l, s.store.layout = some l ∧ l.sheetCount ≤ p) →
            (t.bundle ch).sheet = some p ∧ (t.bundle ch).pendingSheet = none ∧
            (t.bundle ch).state = .stream ∧ (t.bundle ch).handle = some ⟨0, 0, 127, true⟩ ∧
            t.store = s.store ∧ (t.bundle ch).pendingMsg = some (.bundleHead p 127 0
              (if s.hasCondition .plan then none else s.control.revision) true
              (t.bundle ch).urgent)) ∧
          ((t.bundle ch).urgent = true ↔
            ∃ e ∈ s.entries, sheetOf e.place = some p ∧ 5 ≤ e.state.rank) ∧
          (∀ l k, s.store.layout = some l → p < l.sheetCount → s.store.EngineOk →
            s.store.engine = .idle → k = (l.handleStart + p / 31) % 262144 →
            (t.bundle ch).sheet = some p ∧ (t.bundle ch).pendingSheet = none ∧
            (populated s.control.straps k = true → (t.bundle ch).state = .lookup ∧
              (t.bundle ch).outstanding = (s.bundle ch).outstanding + 1 ∧
              t.store = { s.store with
                engine := .first ⟨.channel ch, .handle p, k, true, (t.bundle ch).urgent⟩ false }) ∧
            (populated s.control.straps k = false → (t.bundle ch).state = .stream ∧
              (t.bundle ch).handle = some ⟨0, 0, 127, true⟩ ∧
              (t.bundle ch).outstanding = (s.bundle ch).outstanding ∧
              t.store = { s.store with absent := min (s.store.absent + 1) 65535 })) ∧
          (∀ l, s.store.layout = some l → p < l.sheetCount → s.store.engine ≠ .idle →
            (t.bundle ch).sheet = some p ∧ (t.bundle ch).pendingSheet = none ∧
            (t.bundle ch).state = .lookup ∧
            (t.bundle ch).outstanding = (s.bundle ch).outstanding + 1)))

/-- The overlay snapshot of a sheet: its marks are the first 96 of the entries on the sheet by rank, local
since and address, and the matching count is the number of those entries. On entering OVERLAY the bundle
takes the snapshot of its sheet, with the cursor at 0 (R143). -/
def Obligations.SnapshotStandsInOverlayOrder : Prop :=
  (∀ (sheet : Nat) (s : State), ∃ es : List Entry,
    es.Perm (s.entries.filter (fun e => sheetOf e.place == some sheet)) ∧
    es.Pairwise (fun a b => b.state.rank < a.state.rank ∨
      (a.state.rank = b.state.rank ∧ (a.localSince < b.localSince ∨
        (a.localSince = b.localSince ∧ ¬ b.addr.before a.addr = true)))) ∧
    snapshotOf s sheet = ((es.take 96).map (fun e =>
      { addr := e.addr, state := e.state, datum := e.datum, place := e.place, loc := e.loc,
        confirmed := e.confirmed, age := min (s.now - e.localSince) 65535 }), es.length)) ∧
  (∀ (n : Nat) (s : State) (b : Bundle), b.sheet = some n →
    enterOverlay s b = { b with
      state := .overlay, snapshot := (snapshotOf s n).1, matching := (snapshotOf s n).2,
      overlayCursor := 0 })

/-! ## Crew channels (chapter 9) -/

/-- The taking of a request (R156): while an answer is pending it is discarded and counted; otherwise it is
answered STARTING, BAD_REQUEST or NOT_ATTACHED by the first case that applies, with no other effect. -/
def Obligations.RequestsAreGated : Prop :=
  ∀ (c : Instr) (ch : Fin 4) (type : Nat) (attaching good : Bool) (s u : State),
    requestOf c = some (ch, type, attaching, good) → c.wellFormed = true →
    s.control.resetHeld = false → u = settle s → u.crew.receiver = [] →
    ∃ t, exec c s = .next t ∧
      ((u.channel ch).pendingAnswer ≠ none →
        SameBesidesCrew u t ∧ (∀ d, t.channel d = u.channel d) ∧ t.crew.linkTimer = 0 ∧
        t.crew.busy = min (u.crew.busy + 1) 65535) ∧
      ((u.channel ch).pendingAnswer = none →
        (u.control.running = false →
          RequestFrame ch u t ∧ BesidesAnswerSame (u.channel ch) (t.channel ch) ∧
          Answered (u.channel ch) (t.channel ch) (.answer type .starting 0)) ∧
        (u.control.running = true → good = false →
          RequestFrame ch u t ∧ BesidesAnswerSame (u.channel ch) (t.channel ch) ∧
          Answered (u.channel ch) (t.channel ch) (.answer type .badRequest 0)) ∧
        (u.control.running = true → good = true → attaching = false → u.isAttached ch = false →
          RequestFrame ch u t ∧ BesidesAnswerSame (u.channel ch) (t.channel ch) ∧
          Answered (u.channel ch) (t.channel ch) (.answer type .notAttached 0)))

/-- ATTACH takes a FREE channel with its role and crew id, or is answered BAD_ROLE or ALREADY (R157); DETACH
leaves the channel as after a reset but for its answer, and its bundle IDLE with its reads cancelled
(R158, R149, R130). -/
def Obligations.AttachAndDetach : Prop :=
  ∀ (ch : Fin 4) (s u : State), s.control.resetHeld = false → u = settle s →
    u.crew.receiver = [] →
    u.control.running = true → (u.channel ch).pendingAnswer = none →
    (∀ r hi lo : Byte, 1 ≤ ofBe16 hi lo → ofBe16 hi lo ≤ 4095 →
      ∃ t, exec (.attach ch [r, hi, lo]) s = .next t ∧ RequestFrame ch u t ∧
        (u.isAttached ch = true → BesidesAnswerSame (u.channel ch) (t.channel ch) ∧
          Answered (u.channel ch) (t.channel ch) (.answer 1 .already 0)) ∧
        (u.isAttached ch = false → 3 < r.toNat → BesidesAnswerSame (u.channel ch) (t.channel ch) ∧
          Answered (u.channel ch) (t.channel ch) (.answer 1 .badRole 0)) ∧
        (u.isAttached ch = false → r.toNat ≤ 3 →
          Answered (u.channel ch) (t.channel ch) (.answer 1 .ok 0) ∧
          (∃ att, (t.channel ch).attached = some att ∧ att.role.code = r.toNat ∧
            att.crew = ofBe16 hi lo) ∧
          (t.channel ch).currentSheet = none ∧ (t.channel ch).watch0 = none ∧
          (t.channel ch).watch1 = none ∧ (t.channel ch).notices = 0 ∧ (t.channel ch).list = none)) ∧
    (u.isAttached ch = true →
      ∃ t, exec (.detach ch []) s = .next t ∧ OtherChannelsSame ch u t ∧
        t.channel ch = { Channel.reset with queue := [.answer 2 .ok 0] } ∧
        (t.bundle ch).state = .idle ∧ (∀ d, d ≠ ch → t.bundle d = u.bundle d) ∧
        t.table = u.table ∧ t.scanner = u.scanner ∧ t.pub = u.pub ∧ t.incident = u.incident ∧
        t.riser = u.riser ∧ t.merge = u.merge ∧ t.control = u.control ∧
        ((u.bundle ch).state ≠ .idle → (t.bundle ch).pendingMsg = none ∧ (t.bundle ch).late = [] ∧
          (t.bundle ch).pendingSheet = none ∧
          (∀ r ∈ t.store.mainQueue, r.who ≠ .channel ch) ∧
          (∀ r ∈ t.store.promoteQueue, r.who ≠ .channel ch) ∧
          (∀ r o, u.store.engine = .first r o → r.who = .channel ch →
            t.store.engine = .first r true) ∧
          (∀ r o, u.store.engine = .second r o → r.who = .channel ch →
            t.store.engine = .second r true)))

/-- WATCH places a watch with the fields its mode uses in its slot and UNWATCH empties the slot (R159);
COLLECT answers the notice set as it was, empties it and withdraws a NOTICE PENDING that waits (R168). Nothing
else of the channel changes but its queue or pending answer. -/
def Obligations.WatchUnwatchAndCollect : Prop :=
  ∀ (ch : Fin 4) (s u : State), s.control.resetHeld = false → u = settle s →
    u.crew.receiver = [] →
    u.control.running = true → (u.channel ch).pendingAnswer = none → u.isAttached ch = true →
    (∀ (k m fl cp st ix rk : Byte) (mode : WatchMode), k.toNat ≤ 1 → rk.toNat ≤ 7 →
      (m.toNat = 0 ∧ 1 ≤ st.toNat ∧ st.toNat ≤ 250 ∧ ix.toNat ≤ 79 ∧
          mode = .point ⟨st.toNat, ix.toNat⟩ ∨
        m.toNat = 1 ∧ fl.toNat ≤ 126 ∧ mode = .floor fl.toNat ∨
        m.toNat = 2 ∧ fl.toNat ≤ 126 ∧ mode = .floorBand fl.toNat ∨
        m.toNat = 3 ∧ fl.toNat ≤ 126 ∧ cp.toNat ≤ 15 ∧ mode = .compartment fl.toNat cp.toNat) →
      ∃ t, exec (.watch ch [k, m, fl, cp, st, ix, rk]) s = .next t ∧ RequestFrame ch u t ∧
        Answered (u.channel ch) (t.channel ch) (.answer 4 .ok 0) ∧
        (t.channel ch).watch0 =
          (if k.toNat = 0 then some ⟨mode, rk.toNat⟩ else (u.channel ch).watch0) ∧
        (t.channel ch).watch1 =
          (if k.toNat = 1 then some ⟨mode, rk.toNat⟩ else (u.channel ch).watch1) ∧
        (t.channel ch).attached = (u.channel ch).attached ∧
        (t.channel ch).currentSheet = (u.channel ch).currentSheet ∧
        (t.channel ch).notices = (u.channel ch).notices ∧
        (t.channel ch).noticePending = (u.channel ch).noticePending ∧
        (t.channel ch).list = (u.channel ch).list ∧
        (t.channel ch).listEnds = (u.channel ch).listEnds) ∧
    (∀ k : Byte, k.toNat ≤ 1 →
      ∃ t, exec (.unwatch ch [k]) s = .next t ∧ RequestFrame ch u t ∧
        Answered (u.channel ch) (t.channel ch) (.answer 5 .ok 0) ∧
        (t.channel ch).watch0 = (if k.toNat = 0 then none else (u.channel ch).watch0) ∧
        (t.channel ch).watch1 = (if k.toNat = 1 then none else (u.channel ch).watch1) ∧
        (t.channel ch).attached = (u.channel ch).attached ∧
        (t.channel ch).currentSheet = (u.channel ch).currentSheet ∧
        (t.channel ch).notices = (u.channel ch).notices ∧
        (t.channel ch).noticePending = (u.channel ch).noticePending ∧
        (t.channel ch).list = (u.channel ch).list ∧
        (t.channel ch).listEnds = (u.channel ch).listEnds) ∧
    ∃ t, exec (.collect ch []) s = .next t ∧ RequestFrame ch u t ∧
      Answered (u.channel ch) (t.channel ch) (.answer 13 .ok (u.channel ch).notices.toNat) ∧
      (t.channel ch).notices = 0 ∧ (t.channel ch).noticePending = false ∧
      (t.channel ch).attached = (u.channel ch).attached ∧
      (t.channel ch).currentSheet = (u.channel ch).currentSheet ∧
      (t.channel ch).watch0 = (u.channel ch).watch0 ∧ (t.channel ch).watch1 = (u.channel ch).watch1 ∧
      (t.channel ch).list = (u.channel ch).list ∧
      (t.channel ch).listEnds = (u.channel ch).listEnds

/-- LIST takes the first 64 in overlay order of the entries in its floor range and rank, and STATIONS begins
a list over its range; either ends a list in progress with a LIST END that carries the replaced flag
(R156, R165, R166). -/
def Obligations.ListsAreTaken : Prop :=
  ∀ (ch : Fin 4) (s u : State), s.control.resetHeld = false → u = settle s →
    u.crew.receiver = [] →
    u.control.running = true → (u.channel ch).pendingAnswer = none → u.isAttached ch = true →
    (∀ low high rank : Byte, low.toNat ≤ 127 → high.toNat ≤ 127 → rank.toNat ≤ 7 →
      ∃ (t : State) (es : List Entry), exec (.list ch [low, high, rank]) s = .next t ∧
        RequestFrame ch u t ∧
        es.Perm (u.entries.filter (fun e => decide (min low.toNat high.toNat ≤ e.loc.floor ∧
          e.loc.floor ≤ max low.toNat high.toNat ∧ rank.toNat ≤ e.state.rank))) ∧
        es.Pairwise (fun a b => b.state.rank < a.state.rank ∨
          (a.state.rank = b.state.rank ∧ (a.localSince < b.localSince ∨
            (a.localSince = b.localSince ∧ ¬ b.addr.before a.addr = true)))) ∧
        t.channel ch = { u.channel ch with
          list := some
            { body := .items ((es.take 64).map fun e => .listItem
                (if e.addr.station = u.own then .own else .origin (u.origin e.addr.station).status)
                (u.markOf e))
              shown := 0, total := es.length }
          listEnds := (u.channel ch).listEnds ++
            (match (u.channel ch).list with
             | some l => [l.endMessage true]
             | none => []) }) ∧
    (∀ low high : Byte, 1 ≤ low.toNat → low.toNat ≤ 250 → 1 ≤ high.toNat → high.toNat ≤ 250 →
      ∃ t, exec (.stations ch [low, high]) s = .next t ∧ RequestFrame ch u t ∧
        t.channel ch = { u.channel ch with
          list := some
            { body := .stations (min low.toNat high.toNat) (max low.toNat high.toNat)
              shown := 0
              total := max low.toNat high.toNat - min low.toNat high.toNat + 1 }
          listEnds := (u.channel ch).listEnds ++
            (match (u.channel ch).list with
             | some l => [l.endMessage true]
             | none => []) })

/-- The crew port receiver reads the bytes that arrive behind those it holds (R186): it hunts for the opening byte,
ends a message at its last check byte, discards one that fails its check or has a bad length and hunts again at
the byte after its opening byte, and counts, answers to or passes over each by R152. How the hub's commands are
bytes on the link is the model's form (DEDUCED, log 16). The link transmitter takes the head of the first
non-empty queue in rotation (R154), with the RESUME of a queue that falls to 8 or fewer (R171); that over empty
queues it is left sending nothing is the model's reading (DEDUCED, log 14). -/
def Obligations.LinkMessagesAndTransmitter : Prop :=
  (∀ (b : Byte) (l : List Byte), b ≠ 0xA5 → linkEvents (b :: l) = linkEvents l) ∧
  (∀ l : List Byte, l.length < 2 ∨ (2 ≤ fieldAt l 0 ∧ fieldAt l 0 ≤ 259 ∧
      l.length < fieldAt l 0 + 4) → linkEvents (0xA5 :: l) = ([], 0xA5 :: l)) ∧
  (∀ l : List Byte, 2 ≤ l.length → fieldAt l 0 < 2 ∨ 259 < fieldAt l 0 →
    linkEvents (0xA5 :: l) = (.badLength :: (linkEvents l).1, (linkEvents l).2)) ∧
  (∀ (l : List Byte) (n : Nat), n = fieldAt l 0 → 2 ≤ n → n ≤ 259 → n + 4 ≤ l.length →
    ((checkWord (l.take (n + 2))).toNat ≠ fieldAt l (n + 2) →
      linkEvents (0xA5 :: l) = (.badCheck :: (linkEvents l).1, (linkEvents l).2)) ∧
    ((checkWord (l.take (n + 2))).toNat = fieldAt l (n + 2) → linkEvents (0xA5 :: l) =
      (.message (l.getD 2 0) (l.getD 3 0) ((l.take (n + 2)).drop 4) ::
        (linkEvents (l.drop (n + 4))).1, (linkEvents (l.drop (n + 4))).2))) ∧
  (∀ s u : State, s.control.resetHeld = false → u = settle s →
    (∀ (c : Instr) (bytes left : List Byte) (es : List LinkEvent), bytesOf c = some bytes →
      linkEvents (u.crew.receiver ++ bytes) = (es, left) →
      exec c s = .next (takeLinkEvents es (u.withCrew { u.crew with receiver := left }))) ∧
    (∀ (c : Instr) (channel ty : Byte) (f : List Byte), bytesOf c = some (messageBytes channel ty f) →
      f.length ≤ 257 → u.crew.receiver = [] →
      exec c s = .next (takeLinkEvent (.message channel ty f) u)) ∧
    (u.crew.receiver = [] →
      (∀ (ch : Fin 4) (f : List Byte), f.length ≤ 257 → exec (.idle ch f) s = .next
        (u.withCrew { u.crew with linkTimer := 0 })) ∧
      (∀ (c ty : Byte) (f : List Byte), 3 < c.toNat → f.length ≤ 257 →
        exec (.strayChannelMessage c (ty :: f)) s = .next (u.withCrew { u.crew with
          linkTimer := 0, stray := min (u.crew.stray + 1) 65535 })) ∧
      (∀ bytes left : List Byte, linkEvents bytes = ([.badCheck], left) →
        exec (.badCheckMessage bytes) s = .next (u.withCrew { u.crew with
          badCheck := min (u.crew.badCheck + 1) 65535, receiver := left })) ∧
      (∀ len : Word16, len.toNat < 2 ∨ 259 < len.toNat →
        ∃ t, exec (.lengthOutOfRange len) s = .next t ∧ t = u.withCrew { u.crew with
          badCheck := min (u.crew.badCheck + 1) 65535, receiver := t.crew.receiver })) ∧
    takeLinkEvents [] u = u ∧ (∀ e, takeLinkEvents [e] u = takeLinkEvent e u) ∧
    (∀ e f l, takeLinkEvents (e :: f :: l) u =
      takeLinkEvents (f :: l) (settle (takeLinkEvent e u))) ∧
    (∀ e, e = .badCheck ∨ e = .badLength → takeLinkEvent e u = u.withCrew { u.crew with
      badCheck := min (u.crew.badCheck + 1) 65535 }) ∧
    (∀ (c ty : Byte) (f : List Byte), 3 < c.toNat → takeLinkEvent (.message c ty f) u =
      u.withCrew { u.crew with linkTimer := 0, stray := min (u.crew.stray + 1) 65535 }) ∧
    (∀ (ch : Fin 4) (f : List Byte), takeLinkEvent (.message (byte ch.val) 0 f) u =
      u.withCrew { u.crew with linkTimer := 0 }) ∧
    ((∀ ch, (u.channel ch).queue = []) →
      exec .linkTransmitterTake s = .next (u.withCrew { u.crew with sending := none })) ∧
    (∀ (ch k : Fin 4) (m : Message) (rest : List Message), ch = u.crew.lastServed + 1 + k →
      (∀ j : Fin 4, j < k → (u.channel (u.crew.lastServed + 1 + j)).queue = []) →
      (u.channel ch).queue = m :: rest →
      ∃ t, exec .linkTransmitterTake s = .next t ∧ SameBesidesCrew u t ∧ OtherChannelsSame ch u t ∧
        t.crew.lastServed = ch ∧ t.crew.sending = some (ch, encodeMessage ch m) ∧
        t.channel ch = { u.channel ch with
          queue := (if (u.channel ch).condensed = true ∧ rest.length ≤ 8 then rest ++ [.resume]
            else rest)
          condensed := if rest.length ≤ 8 then false else (u.channel ch).condensed }))

/-- The hand-out of places to an answer, a NOTICE PENDING and a list message, in that order; each enters the
tail of the queue when a place is free and waits when none is (R165, R166, R167, R170, R171). -/
def Obligations.WaitersArePlaced : Prop :=
  ∀ (ch : Fin 4) (s : State) (c : Channel), s.control.resetHeld = false → c = s.channel ch →
    (∀ m, c.pendingAnswer = some m → c.queue.length < 24 →
      exec (.answerPlaced ch) s = .next (s.setChannel ch { c with
        pendingAnswer := none, queue := c.queue ++ [m]
        condensed := c.condensed || decide (20 < c.queue.length + 1) })) ∧
    (c.pendingAnswer = none → c.noticePending = true → c.queue.length < 24 →
      exec (.noticePendingPlaced ch) s = .next (s.setChannel ch { c with
        noticePending := false, queue := c.queue ++ [.noticePending]
        condensed := c.condensed || decide (20 < c.queue.length + 1) })) ∧
    (c.pendingAnswer = none → c.noticePending = false → c.queue.length < 24 →
      (∀ e l, c.listEnds = e :: l →
        exec (.listMessagePlaced ch) s = .next (s.setChannel ch { c with
          listEnds := l, queue := c.queue ++ [e]
          condensed := c.condensed || decide (20 < c.queue.length + 1) })) ∧
      (∀ m l shown total, c.listEnds = [] → c.list = some ⟨.items (m :: l), shown, total⟩ →
        exec (.listMessagePlaced ch) s = .next (s.setChannel ch { c with
          list := some ⟨.items l, shown + 1, total⟩, queue := c.queue ++ [m]
          condensed := c.condensed || decide (20 < c.queue.length + 1) })) ∧
      (∀ shown total, c.listEnds = [] → c.list = some ⟨.items [], shown, total⟩ →
        exec (.listMessagePlaced ch) s = .next (s.setChannel ch { c with
          list := none, queue := c.queue ++ [.listEnd false shown total false]
          condensed := c.condensed || decide (20 < c.queue.length + 1) })) ∧
      (∀ next high shown total, c.listEnds = [] →
        c.list = some ⟨.stations next high, shown, total⟩ →
        (next ≤ high → ∃ m, exec (.listMessagePlaced ch) s = .next (s.setChannel ch { c with
            list := some ⟨.stations (next + 1) high, shown + 1, total⟩, queue := c.queue ++ [m]
            condensed := c.condensed || decide (20 < c.queue.length + 1) }) ∧
          (next ≠ s.own → m = .stationItem next (.origin (s.origin next).status)
            (s.origin next).silence (s.origin next).overflow (s.origin next).conditions
            (s.origin next).revision (List.replicate 15 0)) ∧
          (next = s.own → m = .stationItem next (.origin .unknown) 0 false
            (some s.control.conditions)
            (if s.hasCondition .plan then none else s.control.revision)
            [s.merge.overrun, s.merge.rejected, s.merge.repeats, s.merge.old,
             s.riser.collisionTotal, s.riser.giveUps, s.riser.checkErrors, s.riser.lengthErrors,
             s.riser.stuckCount, s.store.rereads, s.store.damaged, s.store.absent,
             s.crew.badCheck, s.crew.stray, s.crew.busy])) ∧
        (high < next → exec (.listMessagePlaced ch) s = .next (s.setChannel ch { c with
          list := none, queue := c.queue ++ [.listEnd true shown total false]
          condensed := c.condensed || decide (20 < c.queue.length + 1) })))) ∧
    (24 ≤ c.queue.length → exec (.answerPlaced ch) s = .next s ∧
      exec (.noticePendingPlaced ch) s = .next s ∧ exec (.listMessagePlaced ch) s = .next s)

/-- When a change matches a watch (R164), and the routing of a change on a channel by the first step that
applies: the late set of a bundle in OVERLAY, the current sheet, a watch with the NotifyVector's bit, or
nothing (R163); while the channel is CONDENSED, PICTURE_CHANGED takes the update's place (R171). A change offered to
the late set is also queued as an update where it touches a current sheet that is another (R163 step 1). The
emission of a change tells the Incident Monitor first and then the channels in turn, which is the model's choice
of order (DESIGN CHOICE, log 5). -/
def Obligations.PictureChangeIsRouted : Prop :=
  (∀ (pc : PictureChange) (rank : Nat),
    (∀ a, Watch.matches ⟨.point a, rank⟩ pc = true ↔ pc.entry.addr = a ∧ rank ≤ pc.rank) ∧
    (∀ f, Watch.matches ⟨.floor f, rank⟩ pc = true ↔
      pc.entry.loc.floor ≠ 127 ∧ pc.entry.loc.floor = f ∧ rank ≤ pc.rank) ∧
    (∀ f, Watch.matches ⟨.floorBand f, rank⟩ pc = true ↔
      pc.entry.loc.floor ≠ 127 ∧ pc.entry.loc.floor / 8 = f / 8 ∧ rank ≤ pc.rank) ∧
    (∀ f c, Watch.matches ⟨.compartment f c, rank⟩ pc = true ↔
      pc.entry.loc.floor ≠ 127 ∧ pc.entry.loc.floor = f ∧ pc.entry.loc.compartment = c ∧
        rank ≤ pc.rank) ∧
    (∀ p, pc.kind = .state → pc.prevState = some p → pc.rank = max pc.entry.state.rank p.rank) ∧
    (pc.kind ≠ .state → pc.rank = pc.entry.state.rank)) ∧
  (∀ (pc : PictureChange) (s : State), emit pc s =
    routeOn pc 3 (routeOn pc 2 (routeOn pc 1 (routeOn pc 0 (monitorTakes pc s))))) ∧
  (∀ (pc : PictureChange) (ch : Fin 4) (s : State), s.isAttached ch = false →
    routeOn pc ch s = s) ∧
  (∀ (pc : PictureChange) (ch : Fin 4) (att : Attachment) (s t : State),
    (s.channel ch).attached = some att → t = routeOn pc ch s →
    (∀ n, pc.touches n = true ↔ sheetOf pc.entry.place = some n ∨ pc.prevSheet = some (some n)) ∧
    OtherChannelsSame ch s t ∧ t.table = s.table ∧ t.incident = s.incident ∧
    (∀ n, (s.bundle ch).state = .overlay → (s.bundle ch).sheet = some n → pc.touches n = true →
      (pc.entry.addr ∉ (s.bundle ch).late → (s.bundle ch).late.length < 32 →
        pc.entry.addr ∈ (t.bundle ch).late ∧
        (t.bundle ch).late.length = (s.bundle ch).late.length + 1) ∧
      (pc.entry.addr ∈ (s.bundle ch).late → t.bundles = s.bundles) ∧
      (pc.entry.addr ∉ (s.bundle ch).late → 32 ≤ (s.bundle ch).late.length →
        t.bundles = s.bundles ∧ NoticeSet.has (t.channel ch).notices .sheetStale = true) ∧
      (pc.entry.addr ∈ (s.bundle ch).late ∨ (s.bundle ch).late.length < 32 →
        (∀ m, (s.channel ch).currentSheet = some m → m = n ∨ pc.touches m = false) →
        t.crew = s.crew) ∧
      (∀ (m : Nat) (c : Channel), (s.channel ch).currentSheet = some m → m ≠ n → pc.touches m = true →
        c = (if pc.entry.addr ∉ (s.bundle ch).late ∧ 32 ≤ (s.bundle ch).late.length then
          (s.channel ch).raise .sheetStale else s.channel ch) →
        (c.condensed = false → (t.channel ch).queue = c.queue ++
          [.markUpdate pc.kind (decide (pc.kind = .remove ∨ pc.kind = .evict ∨
            (pc.prevSheet = some (some m) ∧ sheetOf pc.entry.place ≠ some m))) (s.markOf pc.entry)]) ∧
        (c.condensed = true → NoticeSet.has (t.channel ch).notices .pictureChanged = true ∧
          ∀ msg ∈ (t.channel ch).queue, msg ∈ c.queue ∨ msg = .noticePending))) ∧
    ((s.bundle ch).state ≠ .overlay ∨ (∀ n, (s.bundle ch).sheet = some n → pc.touches n = false) →
      t.bundles = s.bundles ∧
      (∀ m, (s.channel ch).currentSheet = some m → pc.touches m = true →
        ((s.channel ch).condensed = false → (t.channel ch).queue = (s.channel ch).queue ++
          [.markUpdate pc.kind (decide (pc.kind = .remove ∨ pc.kind = .evict ∨
            (pc.prevSheet = some (some m) ∧ sheetOf pc.entry.place ≠ some m))) (s.markOf pc.entry)]) ∧
        ((s.channel ch).condensed = true →
          NoticeSet.has (t.channel ch).notices .pictureChanged = true ∧
          ∀ msg ∈ (t.channel ch).queue, msg ∈ (s.channel ch).queue ∨ msg = .noticePending)) ∧
      ((∀ m, (s.channel ch).currentSheet = some m → pc.touches m = false) →
        ((∃ w, ((s.channel ch).watch0 = some w ∨ (s.channel ch).watch1 = some w) ∧
            w.matches pc = true) →
          s.crew.notifyVector.getLsbD (pc.entry.state.classCode * 4 + att.role.code) = true →
          ((s.channel ch).condensed = false → (t.channel ch).queue = (s.channel ch).queue ++
            [.markUpdate pc.kind (decide (pc.kind = .remove ∨ pc.kind = .evict))
              (s.markOf pc.entry)]) ∧
          ((s.channel ch).condensed = true →
            NoticeSet.has (t.channel ch).notices .pictureChanged = true)) ∧
        ((∀ w, ((s.channel ch).watch0 = some w ∨ (s.channel ch).watch1 = some w) →
            w.matches pc = false) ∨
          s.crew.notifyVector.getLsbD (pc.entry.state.classCode * 4 + att.role.code) = false →
          t = s))))

/-! ## What every step keeps -/

/-- Every step keeps each outbound queue at 24 messages or fewer, and at 20 or fewer while the condensed flag
is clear (R170, R171). -/
def Obligations.StepsKeepTheQueuesInBounds : Prop :=
  ∀ s t : State, QueuesOk s → step s = .next t → QueuesOk t

/-- Every step keeps the Picture Table in rising address within its pool, the alarm count equal to the number
of ALARM entries held, and the Monitor's state, record and timer in agreement (R17, R107). -/
def Obligations.StepsKeepThePicture : Prop :=
  ∀ s t : State, PictureOk s → step s = .next t → PictureOk t

/-- Every step keeps each late set within 32 addresses without duplicates, and empty while its bundle is
IDLE (R137, R145). -/
def Obligations.StepsKeepTheLateSets : Prop :=
  ∀ s t : State, LateSetsOk s → step s = .next t → LateSetsOk t

/-- Every step keeps the sizes and counters of SizesOk in their ranges and every channel within its read
budget of two, and never lets the read engine idle over work (R5, R42, R48, R82, R86, R126, R127, R137, R153). -/
def Obligations.StepsKeepTheSizes : Prop :=
  ∀ s t : State, SizesOk s → step s = .next t → SizesOk t

/-- What every step keeps holds at State.reset. -/
def Obligations.InvariantsHoldAtReset : Prop :=
  QueuesOk State.reset ∧ PictureOk State.reset ∧ LateSetsOk State.reset ∧ SizesOk State.reset

/-! ## Formats (chapter 11) -/

/-- What the part encodes it reads back: a record in the ranges of R183 gives itself, the records of a body
come back in order, and a frame in the ranges of R181 is received good with its own fields (R180 to R184). -/
def Obligations.EncodedFramesReadBack : Prop :=
  (∀ r : Record, r.InRange → decodeRecord (encodeRecord r) = some r) ∧
  (∀ l : List Record, (∀ r ∈ l, r.InRange) →
    (recordChunks l.length (encodeBody (.records l))).map decodeRecord = l.map some) ∧
  (∀ f : TxFrame, f.InRange → frameFate (encodeFrame f) false false = .good f.received)
end

