-- ==== Sys2Proof/Laws/State.lean ====
section
/-!
SUPPORT. Each field of the state after each update of a block, true by rfl, and the lemmas of the four
channels and of the named updates.
-/
namespace Sys2Proof.Machine

/-! ## One block replaced -/

@[simp] theorem withControl_control (s : State) (v : StationControl) : (s.withControl v).control = v := rfl
@[simp] theorem withControl_scanner (s : State) (v : StationControl) : (s.withControl v).scanner = s.scanner := rfl
@[simp] theorem withControl_table (s : State) (v : StationControl) : (s.withControl v).table = s.table := rfl
@[simp] theorem withControl_merge (s : State) (v : StationControl) : (s.withControl v).merge = s.merge := rfl
@[simp] theorem withControl_riser (s : State) (v : StationControl) : (s.withControl v).riser = s.riser := rfl
@[simp] theorem withControl_pub (s : State) (v : StationControl) : (s.withControl v).pub = s.pub := rfl
@[simp] theorem withControl_incident (s : State) (v : StationControl) : (s.withControl v).incident = s.incident := rfl
@[simp] theorem withControl_store (s : State) (v : StationControl) : (s.withControl v).store = s.store := rfl
@[simp] theorem withControl_bundles (s : State) (v : StationControl) : (s.withControl v).bundles = s.bundles := rfl
@[simp] theorem withControl_crew (s : State) (v : StationControl) : (s.withControl v).crew = s.crew := rfl
@[simp] theorem withControl_due (s : State) (v : StationControl) : (s.withControl v).due = s.due := rfl
@[simp] theorem withControl_pending (s : State) (v : StationControl) : (s.withControl v).pending = s.pending := rfl

@[simp] theorem withScanner_control (s : State) (v : Scanner) : (s.withScanner v).control = s.control := rfl
@[simp] theorem withScanner_scanner (s : State) (v : Scanner) : (s.withScanner v).scanner = v := rfl
@[simp] theorem withScanner_table (s : State) (v : Scanner) : (s.withScanner v).table = s.table := rfl
@[simp] theorem withScanner_merge (s : State) (v : Scanner) : (s.withScanner v).merge = s.merge := rfl
@[simp] theorem withScanner_riser (s : State) (v : Scanner) : (s.withScanner v).riser = s.riser := rfl
@[simp] theorem withScanner_pub (s : State) (v : Scanner) : (s.withScanner v).pub = s.pub := rfl
@[simp] theorem withScanner_incident (s : State) (v : Scanner) : (s.withScanner v).incident = s.incident := rfl
@[simp] theorem withScanner_store (s : State) (v : Scanner) : (s.withScanner v).store = s.store := rfl
@[simp] theorem withScanner_bundles (s : State) (v : Scanner) : (s.withScanner v).bundles = s.bundles := rfl
@[simp] theorem withScanner_crew (s : State) (v : Scanner) : (s.withScanner v).crew = s.crew := rfl
@[simp] theorem withScanner_due (s : State) (v : Scanner) : (s.withScanner v).due = s.due := rfl
@[simp] theorem withScanner_pending (s : State) (v : Scanner) : (s.withScanner v).pending = s.pending := rfl

@[simp] theorem withTable_control (s : State) (v : PictureTable) : (s.withTable v).control = s.control := rfl
@[simp] theorem withTable_scanner (s : State) (v : PictureTable) : (s.withTable v).scanner = s.scanner := rfl
@[simp] theorem withTable_table (s : State) (v : PictureTable) : (s.withTable v).table = v := rfl
@[simp] theorem withTable_merge (s : State) (v : PictureTable) : (s.withTable v).merge = s.merge := rfl
@[simp] theorem withTable_riser (s : State) (v : PictureTable) : (s.withTable v).riser = s.riser := rfl
@[simp] theorem withTable_pub (s : State) (v : PictureTable) : (s.withTable v).pub = s.pub := rfl
@[simp] theorem withTable_incident (s : State) (v : PictureTable) : (s.withTable v).incident = s.incident := rfl
@[simp] theorem withTable_store (s : State) (v : PictureTable) : (s.withTable v).store = s.store := rfl
@[simp] theorem withTable_bundles (s : State) (v : PictureTable) : (s.withTable v).bundles = s.bundles := rfl
@[simp] theorem withTable_crew (s : State) (v : PictureTable) : (s.withTable v).crew = s.crew := rfl
@[simp] theorem withTable_due (s : State) (v : PictureTable) : (s.withTable v).due = s.due := rfl
@[simp] theorem withTable_pending (s : State) (v : PictureTable) : (s.withTable v).pending = s.pending := rfl

@[simp] theorem withMerge_control (s : State) (v : MergeUnit) : (s.withMerge v).control = s.control := rfl
@[simp] theorem withMerge_scanner (s : State) (v : MergeUnit) : (s.withMerge v).scanner = s.scanner := rfl
@[simp] theorem withMerge_table (s : State) (v : MergeUnit) : (s.withMerge v).table = s.table := rfl
@[simp] theorem withMerge_merge (s : State) (v : MergeUnit) : (s.withMerge v).merge = v := rfl
@[simp] theorem withMerge_riser (s : State) (v : MergeUnit) : (s.withMerge v).riser = s.riser := rfl
@[simp] theorem withMerge_pub (s : State) (v : MergeUnit) : (s.withMerge v).pub = s.pub := rfl
@[simp] theorem withMerge_incident (s : State) (v : MergeUnit) : (s.withMerge v).incident = s.incident := rfl
@[simp] theorem withMerge_store (s : State) (v : MergeUnit) : (s.withMerge v).store = s.store := rfl
@[simp] theorem withMerge_bundles (s : State) (v : MergeUnit) : (s.withMerge v).bundles = s.bundles := rfl
@[simp] theorem withMerge_crew (s : State) (v : MergeUnit) : (s.withMerge v).crew = s.crew := rfl
@[simp] theorem withMerge_due (s : State) (v : MergeUnit) : (s.withMerge v).due = s.due := rfl
@[simp] theorem withMerge_pending (s : State) (v : MergeUnit) : (s.withMerge v).pending = s.pending := rfl

@[simp] theorem withRiser_control (s : State) (v : RiserLine) : (s.withRiser v).control = s.control := rfl
@[simp] theorem withRiser_scanner (s : State) (v : RiserLine) : (s.withRiser v).scanner = s.scanner := rfl
@[simp] theorem withRiser_table (s : State) (v : RiserLine) : (s.withRiser v).table = s.table := rfl
@[simp] theorem withRiser_merge (s : State) (v : RiserLine) : (s.withRiser v).merge = s.merge := rfl
@[simp] theorem withRiser_riser (s : State) (v : RiserLine) : (s.withRiser v).riser = v := rfl
@[simp] theorem withRiser_pub (s : State) (v : RiserLine) : (s.withRiser v).pub = s.pub := rfl
@[simp] theorem withRiser_incident (s : State) (v : RiserLine) : (s.withRiser v).incident = s.incident := rfl
@[simp] theorem withRiser_store (s : State) (v : RiserLine) : (s.withRiser v).store = s.store := rfl
@[simp] theorem withRiser_bundles (s : State) (v : RiserLine) : (s.withRiser v).bundles = s.bundles := rfl
@[simp] theorem withRiser_crew (s : State) (v : RiserLine) : (s.withRiser v).crew = s.crew := rfl
@[simp] theorem withRiser_due (s : State) (v : RiserLine) : (s.withRiser v).due = s.due := rfl
@[simp] theorem withRiser_pending (s : State) (v : RiserLine) : (s.withRiser v).pending = s.pending := rfl

@[simp] theorem withPub_control (s : State) (v : Publisher) : (s.withPub v).control = s.control := rfl
@[simp] theorem withPub_scanner (s : State) (v : Publisher) : (s.withPub v).scanner = s.scanner := rfl
@[simp] theorem withPub_table (s : State) (v : Publisher) : (s.withPub v).table = s.table := rfl
@[simp] theorem withPub_merge (s : State) (v : Publisher) : (s.withPub v).merge = s.merge := rfl
@[simp] theorem withPub_riser (s : State) (v : Publisher) : (s.withPub v).riser = s.riser := rfl
@[simp] theorem withPub_pub (s : State) (v : Publisher) : (s.withPub v).pub = v := rfl
@[simp] theorem withPub_incident (s : State) (v : Publisher) : (s.withPub v).incident = s.incident := rfl
@[simp] theorem withPub_store (s : State) (v : Publisher) : (s.withPub v).store = s.store := rfl
@[simp] theorem withPub_bundles (s : State) (v : Publisher) : (s.withPub v).bundles = s.bundles := rfl
@[simp] theorem withPub_crew (s : State) (v : Publisher) : (s.withPub v).crew = s.crew := rfl
@[simp] theorem withPub_due (s : State) (v : Publisher) : (s.withPub v).due = s.due := rfl
@[simp] theorem withPub_pending (s : State) (v : Publisher) : (s.withPub v).pending = s.pending := rfl

@[simp] theorem withIncident_control (s : State) (v : IncidentMonitor) : (s.withIncident v).control = s.control := rfl
@[simp] theorem withIncident_scanner (s : State) (v : IncidentMonitor) : (s.withIncident v).scanner = s.scanner := rfl
@[simp] theorem withIncident_table (s : State) (v : IncidentMonitor) : (s.withIncident v).table = s.table := rfl
@[simp] theorem withIncident_merge (s : State) (v : IncidentMonitor) : (s.withIncident v).merge = s.merge := rfl
@[simp] theorem withIncident_riser (s : State) (v : IncidentMonitor) : (s.withIncident v).riser = s.riser := rfl
@[simp] theorem withIncident_pub (s : State) (v : IncidentMonitor) : (s.withIncident v).pub = s.pub := rfl
@[simp] theorem withIncident_incident (s : State) (v : IncidentMonitor) : (s.withIncident v).incident = v := rfl
@[simp] theorem withIncident_store (s : State) (v : IncidentMonitor) : (s.withIncident v).store = s.store := rfl
@[simp] theorem withIncident_bundles (s : State) (v : IncidentMonitor) : (s.withIncident v).bundles = s.bundles := rfl
@[simp] theorem withIncident_crew (s : State) (v : IncidentMonitor) : (s.withIncident v).crew = s.crew := rfl
@[simp] theorem withIncident_due (s : State) (v : IncidentMonitor) : (s.withIncident v).due = s.due := rfl
@[simp] theorem withIncident_pending (s : State) (v : IncidentMonitor) : (s.withIncident v).pending = s.pending := rfl

@[simp] theorem withStore_control (s : State) (v : PlanStore) : (s.withStore v).control = s.control := rfl
@[simp] theorem withStore_scanner (s : State) (v : PlanStore) : (s.withStore v).scanner = s.scanner := rfl
@[simp] theorem withStore_table (s : State) (v : PlanStore) : (s.withStore v).table = s.table := rfl
@[simp] theorem withStore_merge (s : State) (v : PlanStore) : (s.withStore v).merge = s.merge := rfl
@[simp] theorem withStore_riser (s : State) (v : PlanStore) : (s.withStore v).riser = s.riser := rfl
@[simp] theorem withStore_pub (s : State) (v : PlanStore) : (s.withStore v).pub = s.pub := rfl
@[simp] theorem withStore_incident (s : State) (v : PlanStore) : (s.withStore v).incident = s.incident := rfl
@[simp] theorem withStore_store (s : State) (v : PlanStore) : (s.withStore v).store = v := rfl
@[simp] theorem withStore_bundles (s : State) (v : PlanStore) : (s.withStore v).bundles = s.bundles := rfl
@[simp] theorem withStore_crew (s : State) (v : PlanStore) : (s.withStore v).crew = s.crew := rfl
@[simp] theorem withStore_due (s : State) (v : PlanStore) : (s.withStore v).due = s.due := rfl
@[simp] theorem withStore_pending (s : State) (v : PlanStore) : (s.withStore v).pending = s.pending := rfl

@[simp] theorem withBundles_control (s : State) (v : Four Bundle) : (s.withBundles v).control = s.control := rfl
@[simp] theorem withBundles_scanner (s : State) (v : Four Bundle) : (s.withBundles v).scanner = s.scanner := rfl
@[simp] theorem withBundles_table (s : State) (v : Four Bundle) : (s.withBundles v).table = s.table := rfl
@[simp] theorem withBundles_merge (s : State) (v : Four Bundle) : (s.withBundles v).merge = s.merge := rfl
@[simp] theorem withBundles_riser (s : State) (v : Four Bundle) : (s.withBundles v).riser = s.riser := rfl
@[simp] theorem withBundles_pub (s : State) (v : Four Bundle) : (s.withBundles v).pub = s.pub := rfl
@[simp] theorem withBundles_incident (s : State) (v : Four Bundle) : (s.withBundles v).incident = s.incident := rfl
@[simp] theorem withBundles_store (s : State) (v : Four Bundle) : (s.withBundles v).store = s.store := rfl
@[simp] theorem withBundles_bundles (s : State) (v : Four Bundle) : (s.withBundles v).bundles = v := rfl
@[simp] theorem withBundles_crew (s : State) (v : Four Bundle) : (s.withBundles v).crew = s.crew := rfl
@[simp] theorem withBundles_due (s : State) (v : Four Bundle) : (s.withBundles v).due = s.due := rfl
@[simp] theorem withBundles_pending (s : State) (v : Four Bundle) : (s.withBundles v).pending = s.pending := rfl

@[simp] theorem withCrew_control (s : State) (v : CrewUnit) : (s.withCrew v).control = s.control := rfl
@[simp] theorem withCrew_scanner (s : State) (v : CrewUnit) : (s.withCrew v).scanner = s.scanner := rfl
@[simp] theorem withCrew_table (s : State) (v : CrewUnit) : (s.withCrew v).table = s.table := rfl
@[simp] theorem withCrew_merge (s : State) (v : CrewUnit) : (s.withCrew v).merge = s.merge := rfl
@[simp] theorem withCrew_riser (s : State) (v : CrewUnit) : (s.withCrew v).riser = s.riser := rfl
@[simp] theorem withCrew_pub (s : State) (v : CrewUnit) : (s.withCrew v).pub = s.pub := rfl
@[simp] theorem withCrew_incident (s : State) (v : CrewUnit) : (s.withCrew v).incident = s.incident := rfl
@[simp] theorem withCrew_store (s : State) (v : CrewUnit) : (s.withCrew v).store = s.store := rfl
@[simp] theorem withCrew_bundles (s : State) (v : CrewUnit) : (s.withCrew v).bundles = s.bundles := rfl
@[simp] theorem withCrew_crew (s : State) (v : CrewUnit) : (s.withCrew v).crew = v := rfl
@[simp] theorem withCrew_due (s : State) (v : CrewUnit) : (s.withCrew v).due = s.due := rfl
@[simp] theorem withCrew_pending (s : State) (v : CrewUnit) : (s.withCrew v).pending = s.pending := rfl

@[simp] theorem withDue_control (s : State) (v : TickDue) : (s.withDue v).control = s.control := rfl
@[simp] theorem withDue_scanner (s : State) (v : TickDue) : (s.withDue v).scanner = s.scanner := rfl
@[simp] theorem withDue_table (s : State) (v : TickDue) : (s.withDue v).table = s.table := rfl
@[simp] theorem withDue_merge (s : State) (v : TickDue) : (s.withDue v).merge = s.merge := rfl
@[simp] theorem withDue_riser (s : State) (v : TickDue) : (s.withDue v).riser = s.riser := rfl
@[simp] theorem withDue_pub (s : State) (v : TickDue) : (s.withDue v).pub = s.pub := rfl
@[simp] theorem withDue_incident (s : State) (v : TickDue) : (s.withDue v).incident = s.incident := rfl
@[simp] theorem withDue_store (s : State) (v : TickDue) : (s.withDue v).store = s.store := rfl
@[simp] theorem withDue_bundles (s : State) (v : TickDue) : (s.withDue v).bundles = s.bundles := rfl
@[simp] theorem withDue_crew (s : State) (v : TickDue) : (s.withDue v).crew = s.crew := rfl
@[simp] theorem withDue_due (s : State) (v : TickDue) : (s.withDue v).due = v := rfl
@[simp] theorem withDue_pending (s : State) (v : TickDue) : (s.withDue v).pending = s.pending := rfl

@[simp] theorem withPending_control (s : State) (v : List Instr) : (s.withPending v).control = s.control := rfl
@[simp] theorem withPending_scanner (s : State) (v : List Instr) : (s.withPending v).scanner = s.scanner := rfl
@[simp] theorem withPending_table (s : State) (v : List Instr) : (s.withPending v).table = s.table := rfl
@[simp] theorem withPending_merge (s : State) (v : List Instr) : (s.withPending v).merge = s.merge := rfl
@[simp] theorem withPending_riser (s : State) (v : List Instr) : (s.withPending v).riser = s.riser := rfl
@[simp] theorem withPending_pub (s : State) (v : List Instr) : (s.withPending v).pub = s.pub := rfl
@[simp] theorem withPending_incident (s : State) (v : List Instr) : (s.withPending v).incident = s.incident := rfl
@[simp] theorem withPending_store (s : State) (v : List Instr) : (s.withPending v).store = s.store := rfl
@[simp] theorem withPending_bundles (s : State) (v : List Instr) : (s.withPending v).bundles = s.bundles := rfl
@[simp] theorem withPending_crew (s : State) (v : List Instr) : (s.withPending v).crew = s.crew := rfl
@[simp] theorem withPending_due (s : State) (v : List Instr) : (s.withPending v).due = s.due := rfl
@[simp] theorem withPending_pending (s : State) (v : List Instr) : (s.withPending v).pending = v := rfl

/-! ## Named updates that change one block -/

@[simp] theorem setChannel_control (s : State) (ch : Fin 4) (c : Channel) : (s.setChannel ch c).control = s.control := rfl
@[simp] theorem setChannel_scanner (s : State) (ch : Fin 4) (c : Channel) : (s.setChannel ch c).scanner = s.scanner := rfl
@[simp] theorem setChannel_table (s : State) (ch : Fin 4) (c : Channel) : (s.setChannel ch c).table = s.table := rfl
@[simp] theorem setChannel_merge (s : State) (ch : Fin 4) (c : Channel) : (s.setChannel ch c).merge = s.merge := rfl
@[simp] theorem setChannel_riser (s : State) (ch : Fin 4) (c : Channel) : (s.setChannel ch c).riser = s.riser := rfl
@[simp] theorem setChannel_pub (s : State) (ch : Fin 4) (c : Channel) : (s.setChannel ch c).pub = s.pub := rfl
@[simp] theorem setChannel_incident (s : State) (ch : Fin 4) (c : Channel) : (s.setChannel ch c).incident = s.incident := rfl
@[simp] theorem setChannel_store (s : State) (ch : Fin 4) (c : Channel) : (s.setChannel ch c).store = s.store := rfl
@[simp] theorem setChannel_bundles (s : State) (ch : Fin 4) (c : Channel) : (s.setChannel ch c).bundles = s.bundles := rfl
@[simp] theorem setChannel_due (s : State) (ch : Fin 4) (c : Channel) : (s.setChannel ch c).due = s.due := rfl
@[simp] theorem setChannel_pending (s : State) (ch : Fin 4) (c : Channel) : (s.setChannel ch c).pending = s.pending := rfl

@[simp] theorem setBundle_control (s : State) (ch : Fin 4) (b : Bundle) : (s.setBundle ch b).control = s.control := rfl
@[simp] theorem setBundle_scanner (s : State) (ch : Fin 4) (b : Bundle) : (s.setBundle ch b).scanner = s.scanner := rfl
@[simp] theorem setBundle_table (s : State) (ch : Fin 4) (b : Bundle) : (s.setBundle ch b).table = s.table := rfl
@[simp] theorem setBundle_merge (s : State) (ch : Fin 4) (b : Bundle) : (s.setBundle ch b).merge = s.merge := rfl
@[simp] theorem setBundle_riser (s : State) (ch : Fin 4) (b : Bundle) : (s.setBundle ch b).riser = s.riser := rfl
@[simp] theorem setBundle_pub (s : State) (ch : Fin 4) (b : Bundle) : (s.setBundle ch b).pub = s.pub := rfl
@[simp] theorem setBundle_incident (s : State) (ch : Fin 4) (b : Bundle) : (s.setBundle ch b).incident = s.incident := rfl
@[simp] theorem setBundle_store (s : State) (ch : Fin 4) (b : Bundle) : (s.setBundle ch b).store = s.store := rfl
@[simp] theorem setBundle_crew (s : State) (ch : Fin 4) (b : Bundle) : (s.setBundle ch b).crew = s.crew := rfl
@[simp] theorem setBundle_due (s : State) (ch : Fin 4) (b : Bundle) : (s.setBundle ch b).due = s.due := rfl
@[simp] theorem setBundle_pending (s : State) (ch : Fin 4) (b : Bundle) : (s.setBundle ch b).pending = s.pending := rfl

@[simp] theorem enqueue_control (s : State) (ch : Fin 4) (m : Message) : (s.enqueue ch m).control = s.control := rfl
@[simp] theorem enqueue_scanner (s : State) (ch : Fin 4) (m : Message) : (s.enqueue ch m).scanner = s.scanner := rfl
@[simp] theorem enqueue_table (s : State) (ch : Fin 4) (m : Message) : (s.enqueue ch m).table = s.table := rfl
@[simp] theorem enqueue_merge (s : State) (ch : Fin 4) (m : Message) : (s.enqueue ch m).merge = s.merge := rfl
@[simp] theorem enqueue_riser (s : State) (ch : Fin 4) (m : Message) : (s.enqueue ch m).riser = s.riser := rfl
@[simp] theorem enqueue_pub (s : State) (ch : Fin 4) (m : Message) : (s.enqueue ch m).pub = s.pub := rfl
@[simp] theorem enqueue_incident (s : State) (ch : Fin 4) (m : Message) : (s.enqueue ch m).incident = s.incident := rfl
@[simp] theorem enqueue_store (s : State) (ch : Fin 4) (m : Message) : (s.enqueue ch m).store = s.store := rfl
@[simp] theorem enqueue_bundles (s : State) (ch : Fin 4) (m : Message) : (s.enqueue ch m).bundles = s.bundles := rfl
@[simp] theorem enqueue_due (s : State) (ch : Fin 4) (m : Message) : (s.enqueue ch m).due = s.due := rfl
@[simp] theorem enqueue_pending (s : State) (ch : Fin 4) (m : Message) : (s.enqueue ch m).pending = s.pending := rfl

@[simp] theorem raise_control (s : State) (n : Notice) (ch : Fin 4) : (s.raise n ch).control = s.control := rfl
@[simp] theorem raise_scanner (s : State) (n : Notice) (ch : Fin 4) : (s.raise n ch).scanner = s.scanner := rfl
@[simp] theorem raise_table (s : State) (n : Notice) (ch : Fin 4) : (s.raise n ch).table = s.table := rfl
@[simp] theorem raise_merge (s : State) (n : Notice) (ch : Fin 4) : (s.raise n ch).merge = s.merge := rfl
@[simp] theorem raise_riser (s : State) (n : Notice) (ch : Fin 4) : (s.raise n ch).riser = s.riser := rfl
@[simp] theorem raise_pub (s : State) (n : Notice) (ch : Fin 4) : (s.raise n ch).pub = s.pub := rfl
@[simp] theorem raise_incident (s : State) (n : Notice) (ch : Fin 4) : (s.raise n ch).incident = s.incident := rfl
@[simp] theorem raise_store (s : State) (n : Notice) (ch : Fin 4) : (s.raise n ch).store = s.store := rfl
@[simp] theorem raise_bundles (s : State) (n : Notice) (ch : Fin 4) : (s.raise n ch).bundles = s.bundles := rfl
@[simp] theorem raise_due (s : State) (n : Notice) (ch : Fin 4) : (s.raise n ch).due = s.due := rfl
@[simp] theorem raise_pending (s : State) (n : Notice) (ch : Fin 4) : (s.raise n ch).pending = s.pending := rfl

@[simp] theorem setEntries_control (s : State) (l : List Entry) : (s.setEntries l).control = s.control := rfl
@[simp] theorem setEntries_scanner (s : State) (l : List Entry) : (s.setEntries l).scanner = s.scanner := rfl
@[simp] theorem setEntries_merge (s : State) (l : List Entry) : (s.setEntries l).merge = s.merge := rfl
@[simp] theorem setEntries_riser (s : State) (l : List Entry) : (s.setEntries l).riser = s.riser := rfl
@[simp] theorem setEntries_pub (s : State) (l : List Entry) : (s.setEntries l).pub = s.pub := rfl
@[simp] theorem setEntries_incident (s : State) (l : List Entry) : (s.setEntries l).incident = s.incident := rfl
@[simp] theorem setEntries_store (s : State) (l : List Entry) : (s.setEntries l).store = s.store := rfl
@[simp] theorem setEntries_bundles (s : State) (l : List Entry) : (s.setEntries l).bundles = s.bundles := rfl
@[simp] theorem setEntries_crew (s : State) (l : List Entry) : (s.setEntries l).crew = s.crew := rfl
@[simp] theorem setEntries_due (s : State) (l : List Entry) : (s.setEntries l).due = s.due := rfl
@[simp] theorem setEntries_pending (s : State) (l : List Entry) : (s.setEntries l).pending = s.pending := rfl

@[simp] theorem putEntry_control (s : State) (e : Entry) : (s.putEntry e).control = s.control := rfl
@[simp] theorem putEntry_scanner (s : State) (e : Entry) : (s.putEntry e).scanner = s.scanner := rfl
@[simp] theorem putEntry_merge (s : State) (e : Entry) : (s.putEntry e).merge = s.merge := rfl
@[simp] theorem putEntry_riser (s : State) (e : Entry) : (s.putEntry e).riser = s.riser := rfl
@[simp] theorem putEntry_pub (s : State) (e : Entry) : (s.putEntry e).pub = s.pub := rfl
@[simp] theorem putEntry_incident (s : State) (e : Entry) : (s.putEntry e).incident = s.incident := rfl
@[simp] theorem putEntry_store (s : State) (e : Entry) : (s.putEntry e).store = s.store := rfl
@[simp] theorem putEntry_bundles (s : State) (e : Entry) : (s.putEntry e).bundles = s.bundles := rfl
@[simp] theorem putEntry_crew (s : State) (e : Entry) : (s.putEntry e).crew = s.crew := rfl
@[simp] theorem putEntry_due (s : State) (e : Entry) : (s.putEntry e).due = s.due := rfl
@[simp] theorem putEntry_pending (s : State) (e : Entry) : (s.putEntry e).pending = s.pending := rfl

@[simp] theorem dropEntry_control (s : State) (a : Address) : (s.dropEntry a).control = s.control := rfl
@[simp] theorem dropEntry_scanner (s : State) (a : Address) : (s.dropEntry a).scanner = s.scanner := rfl
@[simp] theorem dropEntry_merge (s : State) (a : Address) : (s.dropEntry a).merge = s.merge := rfl
@[simp] theorem dropEntry_riser (s : State) (a : Address) : (s.dropEntry a).riser = s.riser := rfl
@[simp] theorem dropEntry_pub (s : State) (a : Address) : (s.dropEntry a).pub = s.pub := rfl
@[simp] theorem dropEntry_incident (s : State) (a : Address) : (s.dropEntry a).incident = s.incident := rfl
@[simp] theorem dropEntry_store (s : State) (a : Address) : (s.dropEntry a).store = s.store := rfl
@[simp] theorem dropEntry_bundles (s : State) (a : Address) : (s.dropEntry a).bundles = s.bundles := rfl
@[simp] theorem dropEntry_crew (s : State) (a : Address) : (s.dropEntry a).crew = s.crew := rfl
@[simp] theorem dropEntry_due (s : State) (a : Address) : (s.dropEntry a).due = s.due := rfl
@[simp] theorem dropEntry_pending (s : State) (a : Address) : (s.dropEntry a).pending = s.pending := rfl

@[simp] theorem setChange_control (s : State) (i : Nat) : (s.setChange i).control = s.control := rfl
@[simp] theorem setChange_scanner (s : State) (i : Nat) : (s.setChange i).scanner = s.scanner := rfl
@[simp] theorem setChange_table (s : State) (i : Nat) : (s.setChange i).table = s.table := rfl
@[simp] theorem setChange_merge (s : State) (i : Nat) : (s.setChange i).merge = s.merge := rfl
@[simp] theorem setChange_riser (s : State) (i : Nat) : (s.setChange i).riser = s.riser := rfl
@[simp] theorem setChange_incident (s : State) (i : Nat) : (s.setChange i).incident = s.incident := rfl
@[simp] theorem setChange_store (s : State) (i : Nat) : (s.setChange i).store = s.store := rfl
@[simp] theorem setChange_bundles (s : State) (i : Nat) : (s.setChange i).bundles = s.bundles := rfl
@[simp] theorem setChange_crew (s : State) (i : Nat) : (s.setChange i).crew = s.crew := rfl
@[simp] theorem setChange_due (s : State) (i : Nat) : (s.setChange i).due = s.due := rfl
@[simp] theorem setChange_pending (s : State) (i : Nat) : (s.setChange i).pending = s.pending := rfl

@[simp] theorem setLevelMark_control (s : State) (i : Nat) : (s.setLevelMark i).control = s.control := rfl
@[simp] theorem setLevelMark_scanner (s : State) (i : Nat) : (s.setLevelMark i).scanner = s.scanner := rfl
@[simp] theorem setLevelMark_table (s : State) (i : Nat) : (s.setLevelMark i).table = s.table := rfl
@[simp] theorem setLevelMark_merge (s : State) (i : Nat) : (s.setLevelMark i).merge = s.merge := rfl
@[simp] theorem setLevelMark_riser (s : State) (i : Nat) : (s.setLevelMark i).riser = s.riser := rfl
@[simp] theorem setLevelMark_incident (s : State) (i : Nat) : (s.setLevelMark i).incident = s.incident := rfl
@[simp] theorem setLevelMark_store (s : State) (i : Nat) : (s.setLevelMark i).store = s.store := rfl
@[simp] theorem setLevelMark_bundles (s : State) (i : Nat) : (s.setLevelMark i).bundles = s.bundles := rfl
@[simp] theorem setLevelMark_crew (s : State) (i : Nat) : (s.setLevelMark i).crew = s.crew := rfl
@[simp] theorem setLevelMark_due (s : State) (i : Nat) : (s.setLevelMark i).due = s.due := rfl
@[simp] theorem setLevelMark_pending (s : State) (i : Nat) : (s.setLevelMark i).pending = s.pending := rfl

@[simp] theorem setCopy_control (s : State) (i : Nat) (c : Option ClearingCopy) : (s.setCopy i c).control = s.control := rfl
@[simp] theorem setCopy_scanner (s : State) (i : Nat) (c : Option ClearingCopy) : (s.setCopy i c).scanner = s.scanner := rfl
@[simp] theorem setCopy_table (s : State) (i : Nat) (c : Option ClearingCopy) : (s.setCopy i c).table = s.table := rfl
@[simp] theorem setCopy_merge (s : State) (i : Nat) (c : Option ClearingCopy) : (s.setCopy i c).merge = s.merge := rfl
@[simp] theorem setCopy_riser (s : State) (i : Nat) (c : Option ClearingCopy) : (s.setCopy i c).riser = s.riser := rfl
@[simp] theorem setCopy_incident (s : State) (i : Nat) (c : Option ClearingCopy) : (s.setCopy i c).incident = s.incident := rfl
@[simp] theorem setCopy_store (s : State) (i : Nat) (c : Option ClearingCopy) : (s.setCopy i c).store = s.store := rfl
@[simp] theorem setCopy_bundles (s : State) (i : Nat) (c : Option ClearingCopy) : (s.setCopy i c).bundles = s.bundles := rfl
@[simp] theorem setCopy_crew (s : State) (i : Nat) (c : Option ClearingCopy) : (s.setCopy i c).crew = s.crew := rfl
@[simp] theorem setCopy_due (s : State) (i : Nat) (c : Option ClearingCopy) : (s.setCopy i c).due = s.due := rfl
@[simp] theorem setCopy_pending (s : State) (i : Nat) (c : Option ClearingCopy) : (s.setCopy i c).pending = s.pending := rfl

@[simp] theorem modChan_control (s : State) (i : Nat) (f : ScanChannel → ScanChannel) : (s.modChan i f).control = s.control := rfl
@[simp] theorem modChan_table (s : State) (i : Nat) (f : ScanChannel → ScanChannel) : (s.modChan i f).table = s.table := rfl
@[simp] theorem modChan_merge (s : State) (i : Nat) (f : ScanChannel → ScanChannel) : (s.modChan i f).merge = s.merge := rfl
@[simp] theorem modChan_riser (s : State) (i : Nat) (f : ScanChannel → ScanChannel) : (s.modChan i f).riser = s.riser := rfl
@[simp] theorem modChan_pub (s : State) (i : Nat) (f : ScanChannel → ScanChannel) : (s.modChan i f).pub = s.pub := rfl
@[simp] theorem modChan_incident (s : State) (i : Nat) (f : ScanChannel → ScanChannel) : (s.modChan i f).incident = s.incident := rfl
@[simp] theorem modChan_store (s : State) (i : Nat) (f : ScanChannel → ScanChannel) : (s.modChan i f).store = s.store := rfl
@[simp] theorem modChan_bundles (s : State) (i : Nat) (f : ScanChannel → ScanChannel) : (s.modChan i f).bundles = s.bundles := rfl
@[simp] theorem modChan_crew (s : State) (i : Nat) (f : ScanChannel → ScanChannel) : (s.modChan i f).crew = s.crew := rfl
@[simp] theorem modChan_due (s : State) (i : Nat) (f : ScanChannel → ScanChannel) : (s.modChan i f).due = s.due := rfl
@[simp] theorem modChan_pending (s : State) (i : Nat) (f : ScanChannel → ScanChannel) : (s.modChan i f).pending = s.pending := rfl

@[simp] theorem clearCondition_scanner (s : State) (c : Condition) : (s.clearCondition c).scanner = s.scanner := rfl
@[simp] theorem clearCondition_table (s : State) (c : Condition) : (s.clearCondition c).table = s.table := rfl
@[simp] theorem clearCondition_merge (s : State) (c : Condition) : (s.clearCondition c).merge = s.merge := rfl
@[simp] theorem clearCondition_riser (s : State) (c : Condition) : (s.clearCondition c).riser = s.riser := rfl
@[simp] theorem clearCondition_pub (s : State) (c : Condition) : (s.clearCondition c).pub = s.pub := rfl
@[simp] theorem clearCondition_incident (s : State) (c : Condition) : (s.clearCondition c).incident = s.incident := rfl
@[simp] theorem clearCondition_store (s : State) (c : Condition) : (s.clearCondition c).store = s.store := rfl
@[simp] theorem clearCondition_bundles (s : State) (c : Condition) : (s.clearCondition c).bundles = s.bundles := rfl
@[simp] theorem clearCondition_crew (s : State) (c : Condition) : (s.clearCondition c).crew = s.crew := rfl
@[simp] theorem clearCondition_due (s : State) (c : Condition) : (s.clearCondition c).due = s.due := rfl
@[simp] theorem clearCondition_pending (s : State) (c : Condition) : (s.clearCondition c).pending = s.pending := rfl

@[simp] theorem atStep_scanner (s : State) (k : LoadStep) : (s.atStep k).scanner = s.scanner := rfl
@[simp] theorem atStep_table (s : State) (k : LoadStep) : (s.atStep k).table = s.table := rfl
@[simp] theorem atStep_merge (s : State) (k : LoadStep) : (s.atStep k).merge = s.merge := rfl
@[simp] theorem atStep_riser (s : State) (k : LoadStep) : (s.atStep k).riser = s.riser := rfl
@[simp] theorem atStep_pub (s : State) (k : LoadStep) : (s.atStep k).pub = s.pub := rfl
@[simp] theorem atStep_incident (s : State) (k : LoadStep) : (s.atStep k).incident = s.incident := rfl
@[simp] theorem atStep_store (s : State) (k : LoadStep) : (s.atStep k).store = s.store := rfl
@[simp] theorem atStep_bundles (s : State) (k : LoadStep) : (s.atStep k).bundles = s.bundles := rfl
@[simp] theorem atStep_crew (s : State) (k : LoadStep) : (s.atStep k).crew = s.crew := rfl
@[simp] theorem atStep_due (s : State) (k : LoadStep) : (s.atStep k).due = s.due := rfl
@[simp] theorem atStep_pending (s : State) (k : LoadStep) : (s.atStep k).pending = s.pending := rfl

/-- `modOrigin` changes the origin records alone. -/
theorem modOrigin_eq (s : State) (x : Nat) (f : OriginRecord → OriginRecord) :
    s.modOrigin x f =
      s.withTable { s.table with
        origins := if x = 0 then s.table.origins else updAt s.table.origins (x - 1) f } := by
  unfold State.modOrigin
  split <;> rfl

@[simp] theorem modOrigin_control (s : State) (x : Nat) (f : OriginRecord → OriginRecord) : (s.modOrigin x f).control = s.control := by simp [modOrigin_eq]
@[simp] theorem modOrigin_scanner (s : State) (x : Nat) (f : OriginRecord → OriginRecord) : (s.modOrigin x f).scanner = s.scanner := by simp [modOrigin_eq]
@[simp] theorem modOrigin_merge (s : State) (x : Nat) (f : OriginRecord → OriginRecord) : (s.modOrigin x f).merge = s.merge := by simp [modOrigin_eq]
@[simp] theorem modOrigin_riser (s : State) (x : Nat) (f : OriginRecord → OriginRecord) : (s.modOrigin x f).riser = s.riser := by simp [modOrigin_eq]
@[simp] theorem modOrigin_pub (s : State) (x : Nat) (f : OriginRecord → OriginRecord) : (s.modOrigin x f).pub = s.pub := by simp [modOrigin_eq]
@[simp] theorem modOrigin_incident (s : State) (x : Nat) (f : OriginRecord → OriginRecord) : (s.modOrigin x f).incident = s.incident := by simp [modOrigin_eq]
@[simp] theorem modOrigin_store (s : State) (x : Nat) (f : OriginRecord → OriginRecord) : (s.modOrigin x f).store = s.store := by simp [modOrigin_eq]
@[simp] theorem modOrigin_bundles (s : State) (x : Nat) (f : OriginRecord → OriginRecord) : (s.modOrigin x f).bundles = s.bundles := by simp [modOrigin_eq]
@[simp] theorem modOrigin_crew (s : State) (x : Nat) (f : OriginRecord → OriginRecord) : (s.modOrigin x f).crew = s.crew := by simp [modOrigin_eq]
@[simp] theorem modOrigin_due (s : State) (x : Nat) (f : OriginRecord → OriginRecord) : (s.modOrigin x f).due = s.due := by simp [modOrigin_eq]
@[simp] theorem modOrigin_pending (s : State) (x : Nat) (f : OriginRecord → OriginRecord) : (s.modOrigin x f).pending = s.pending := by simp [modOrigin_eq]
@[simp] theorem modOrigin_table_entries (s : State) (x : Nat) (f : OriginRecord → OriginRecord) : (s.modOrigin x f).table.entries = s.table.entries := by simp [modOrigin_eq]
@[simp] theorem modOrigin_table_recovery (s : State) (x : Nat) (f : OriginRecord → OriginRecord) : (s.modOrigin x f).table.recovery = s.table.recovery := by simp [modOrigin_eq]
@[simp] theorem modOrigin_table_clearHold (s : State) (x : Nat) (f : OriginRecord → OriginRecord) : (s.modOrigin x f).table.clearHold = s.table.clearHold := by simp [modOrigin_eq]

/-! ## The four channels -/

@[simp] theorem Four.get_set_same {α : Type} (f : Four α) (ch : Fin 4) (a : α) :
    (f.set ch a).get ch = a := by
  fin_cases ch <;> rfl

theorem Four.get_set_ne {α : Type} (f : Four α) {c d : Fin 4} (a : α) (h : d ≠ c) :
    (f.set c a).get d = f.get d := by
  fin_cases c <;> fin_cases d <;> first | rfl | exact absurd rfl h

theorem Four.get_set {α : Type} (f : Four α) (c d : Fin 4) (a : α) :
    (f.set c a).get d = if d = c then a else f.get d := by
  by_cases h : d = c
  · subst h; simp
  · simp [h, Four.get_set_ne f a h]

@[simp] theorem Four.get_all {α : Type} (a : α) (ch : Fin 4) : (Four.all a).get ch = a := by
  fin_cases ch <;> rfl

@[simp] theorem channel_setChannel_same (s : State) (ch : Fin 4) (c : Channel) :
    (s.setChannel ch c).channel ch = c := by
  simp [State.channel, State.setChannel]

theorem channel_setChannel (s : State) (c d : Fin 4) (v : Channel) :
    (s.setChannel c v).channel d = if d = c then v else s.channel d := by
  simp [State.channel, State.setChannel, Four.get_set]

theorem channel_setChannel_ne (s : State) {c d : Fin 4} (v : Channel) (h : d ≠ c) :
    (s.setChannel c v).channel d = s.channel d := by
  simp [channel_setChannel, h]

@[simp] theorem bundle_setBundle_same (s : State) (ch : Fin 4) (b : Bundle) :
    (s.setBundle ch b).bundle ch = b := by
  simp [State.bundle, State.setBundle]

theorem bundle_setBundle (s : State) (c d : Fin 4) (v : Bundle) :
    (s.setBundle c v).bundle d = if d = c then v else s.bundle d := by
  simp [State.bundle, State.setBundle, Four.get_set]

@[simp] theorem channel_setBundle (s : State) (c d : Fin 4) (b : Bundle) :
    (s.setBundle c b).channel d = s.channel d := rfl

@[simp] theorem bundle_setChannel (s : State) (c d : Fin 4) (v : Channel) :
    (s.setChannel c v).bundle d = s.bundle d := rfl

/-- What holds before and is kept by an operation on each channel holds after the four. -/
theorem eachChannel_keeps {σ : Type} {P : σ → Prop} {f : Fin 4 → σ → σ}
    (keeps : ∀ ch t, P t → P (f ch t)) (s : σ) (h : P s) : P (eachChannel f s) :=
  keeps _ _ (keeps _ _ (keeps _ _ (keeps _ _ h)))

/-- What holds before and is kept by each step of a fold holds after it. -/
theorem foldl_keeps {α σ : Type} {P : σ → Prop} {f : σ → α → σ}
    (keeps : ∀ t a, P t → P (f t a)) (l : List α) (s : σ) (h : P s) : P (l.foldl f s) := by
  induction l generalizing s with
  | nil => exact h
  | cons a l ih => exact ih _ (keeps _ _ h)

end Sys2Proof.Machine
end

