-- ==== Sys2Proof/Laws/Told.lean ====
section
/-!
SUPPORT. What telling the crews and the Incident Monitor can change: notices, queues, late sets and the
Monitor's own state. Each operation of that kind is stated once, for provers to cite.
-/
namespace Sys2Proof.Machine

/-- What a notice or a mark update leaves of a channel. -/
structure ChannelTold (c d : Channel) : Prop where
  attached : d.attached = c.attached
  currentSheet : d.currentSheet = c.currentSheet
  watch0 : d.watch0 = c.watch0
  watch1 : d.watch1 = c.watch1
  pendingAnswer : d.pendingAnswer = c.pendingAnswer
  list : d.list = c.list
  listEnds : d.listEnds = c.listEnds
  /-- What stood in the queue stands at its front. -/
  queue : c.queue <+: d.queue

/-- What a picture change leaves of a bundle: everything but the late set. -/
structure BundleTold (b d : Bundle) : Prop where
  same : ∃ l, d = { b with late := l }

/-- What telling the crews and the Incident Monitor leaves of the state. -/
structure Told (s t : State) : Prop where
  control : t.control = s.control
  scanner : t.scanner = s.scanner
  table : t.table = s.table
  merge : t.merge = s.merge
  riser : t.riser = s.riser
  pub : t.pub = s.pub
  store : t.store = s.store
  due : t.due = s.due
  pending : t.pending = s.pending
  crew : ∃ l, t.crew = { s.crew with channels := l }
  channel : ∀ ch, ChannelTold (s.channel ch) (t.channel ch)
  bundle : ∀ ch, BundleTold (s.bundle ch) (t.bundle ch)

theorem ChannelTold.refl (c : Channel) : ChannelTold c c :=
  ⟨rfl, rfl, rfl, rfl, rfl, rfl, rfl, List.prefix_refl _⟩

theorem ChannelTold.trans {a b c : Channel} (h : ChannelTold a b) (k : ChannelTold b c) :
    ChannelTold a c :=
  ⟨k.attached.trans h.attached, k.currentSheet.trans h.currentSheet, k.watch0.trans h.watch0,
    k.watch1.trans h.watch1, k.pendingAnswer.trans h.pendingAnswer, k.list.trans h.list,
    k.listEnds.trans h.listEnds, h.queue.trans k.queue⟩

theorem BundleTold.refl (b : Bundle) : BundleTold b b := ⟨⟨b.late, rfl⟩⟩

theorem BundleTold.trans {a b c : Bundle} (h : BundleTold a b) (k : BundleTold b c) :
    BundleTold a c := by
  obtain ⟨l, rfl⟩ := h.same
  obtain ⟨m, rfl⟩ := k.same
  exact ⟨⟨m, rfl⟩⟩

theorem Told.refl (s : State) : Told s s :=
  ⟨rfl, rfl, rfl, rfl, rfl, rfl, rfl, rfl, rfl, ⟨_, rfl⟩, fun _ => .refl _, fun _ => .refl _⟩

theorem Told.trans {s t u : State} (h : Told s t) (k : Told t u) : Told s u := by
  refine ⟨k.control.trans h.control, k.scanner.trans h.scanner, k.table.trans h.table,
    k.merge.trans h.merge, k.riser.trans h.riser, k.pub.trans h.pub, k.store.trans h.store,
    k.due.trans h.due, k.pending.trans h.pending, ?_, fun ch => (h.channel ch).trans (k.channel ch),
    fun ch => (h.bundle ch).trans (k.bundle ch)⟩
  obtain ⟨l, hl⟩ := h.crew
  obtain ⟨m, hm⟩ := k.crew
  exact ⟨m, by rw [hm, hl]⟩

/-! ## Channels -/

theorem push_told (c : Channel) (m : Message) : ChannelTold c (c.push m) :=
  ⟨rfl, rfl, rfl, rfl, rfl, rfl, rfl, List.prefix_append _ _⟩

theorem composeNoticePending_told (c : Channel) : ChannelTold c c.composeNoticePending := by
  unfold Channel.composeNoticePending
  split
  · exact push_told _ _
  · exact ⟨rfl, rfl, rfl, rfl, rfl, rfl, rfl, List.prefix_refl _⟩

theorem channelRaise_told (c : Channel) (n : Notice) : ChannelTold c (c.raise n) := by
  have joined : ChannelTold c { c with notices := setBit c.notices n.bit } :=
    ⟨rfl, rfl, rfl, rfl, rfl, rfl, rfl, List.prefix_refl _⟩
  unfold Channel.raise
  split
  · exact .refl _
  · split
    · exact .refl _
    · dsimp only
      split
      · exact joined.trans (composeNoticePending_told _)
      · exact joined

/-! ## The state -/

/-- A channel replaced by one that it was told into. -/
theorem setChannel_told (s : State) (ch : Fin 4) (c : Channel) (h : ChannelTold (s.channel ch) c) :
    Told s (s.setChannel ch c) := by
  refine ⟨rfl, rfl, rfl, rfl, rfl, rfl, rfl, rfl, rfl, ⟨_, rfl⟩, fun d => ?_, fun _ => .refl _⟩
  rw [channel_setChannel]
  split
  · next e => subst e; exact h
  · exact .refl _

theorem raise_told (s : State) (n : Notice) (ch : Fin 4) : Told s (s.raise n ch) :=
  setChannel_told _ _ _ (channelRaise_told _ _)

theorem enqueue_told (s : State) (ch : Fin 4) (m : Message) : Told s (s.enqueue ch m) :=
  setChannel_told _ _ _ (push_told _ _)

theorem raiseAll_told (s : State) (n : Notice) : Told s (s.raiseAll n) :=
  eachChannel_keeps (P := Told s) (fun _ _ h => h.trans (raise_told _ _ _)) s (.refl s)

theorem queueUpdate_told (pc : PictureChange) (f : Option Nat) (ch : Fin 4) (s : State) :
    Told s (queueUpdate pc f ch s) := by
  unfold queueUpdate
  split
  · exact raise_told _ _ _
  · exact enqueue_told _ _ _

theorem offerLate_told (a : Address) (ch : Fin 4) (s : State) : Told s (offerLate a ch s) := by
  unfold offerLate
  dsimp only
  split
  · exact .refl _
  · split
    · refine ⟨rfl, rfl, rfl, rfl, rfl, rfl, rfl, rfl, rfl, ⟨_, rfl⟩, fun _ => .refl _, fun d => ?_⟩
      rw [bundle_setBundle]
      split
      · next e => subst e; exact ⟨⟨_, rfl⟩⟩
      · exact .refl _
    · exact raise_told _ _ _

theorem routeOn_told (pc : PictureChange) (ch : Fin 4) (s : State) : Told s (routeOn pc ch s) := by
  unfold routeOn
  dsimp only
  split
  · exact .refl _
  · split
    · split
      · exact (offerLate_told _ _ _).trans (queueUpdate_told _ _ _ _)
      · exact offerLate_told _ _ _
    · split
      · exact queueUpdate_told _ _ _ _
      · split
        · exact queueUpdate_told _ _ _ _
        · exact .refl _

theorem routeChange_told (pc : PictureChange) (s : State) : Told s (routeChange pc s) :=
  eachChannel_keeps (P := Told s) (fun _ _ h => h.trans (routeOn_told _ _ _)) s (.refl s)

/-- The Incident Monitor's own state replaced. -/
theorem withIncident_told (s : State) (m : IncidentMonitor) : Told s (s.withIncident m) :=
  ⟨rfl, rfl, rfl, rfl, rfl, rfl, rfl, rfl, rfl, ⟨_, rfl⟩, fun _ => .refl _, fun _ => .refl _⟩

theorem noteMove_told (b : Option IncidentOrigin) (s : State) : Told s (noteMove b s) := by
  unfold noteMove
  split
  · split
    · exact .refl _
    · exact raiseAll_told _ _
  · exact .refl _

theorem alarmRises_told (e : Entry) (s : State) : Told s (alarmRises e s) := by
  unfold alarmRises
  dsimp only
  split
  · exact withIncident_told _ _
  · split
    · split
      · exact (withIncident_told _ _).trans (noteMove_told _ _)
      · exact withIncident_told _ _
    · exact (withIncident_told _ _).trans (noteMove_told _ _)

theorem alarmFalls_told (e : Entry) (s : State) : Told s (alarmFalls e s) := by
  unfold alarmFalls
  dsimp only
  split
  · split
    · split <;> exact withIncident_told _ _
    · exact withIncident_told _ _
  · split
    · split
      · exact (withIncident_told _ _).trans (noteMove_told _ _)
      · exact withIncident_told _ _
    · exact withIncident_told _ _

theorem followLocation_told (e : Entry) (s : State) : Told s (followLocation e s) := by
  unfold followLocation
  split
  · split
    · exact withIncident_told _ _
    · exact .refl _
  · exact .refl _

theorem checkVertical_told (e : Entry) (s : State) : Told s (checkVertical e s) := by
  unfold checkVertical
  split
  · split
    · exact (withIncident_told _ _).trans (raiseAll_told _ _)
    · exact .refl _
  · exact .refl _

theorem checkLateral_told (e : Entry) (s : State) : Told s (checkLateral e s) := by
  unfold checkLateral
  split
  · split
    · exact (withIncident_told _ _).trans (raiseAll_told _ _)
    · exact .refl _
  · exact .refl _

theorem monitorTakes_told (pc : PictureChange) (s : State) : Told s (monitorTakes pc s) := by
  unfold monitorTakes
  split
  · exact ((alarmRises_told _ _).trans (checkVertical_told _ _)).trans (checkLateral_told _ _)
  · split
    · exact alarmFalls_told _ _
    · split
      · exact followLocation_told _ _
      · exact .refl _

theorem monitorHearsSilent_told (x : Nat) (s : State) : Told s (monitorHearsSilent x s) := by
  unfold monitorHearsSilent
  split
  · exact raiseAll_told _ _
  · exact .refl _

/-- Everything the emission of a picture change can do besides the Monitor's state (R21, R163). -/
theorem emit_told (pc : PictureChange) (s : State) : Told s (emit pc s) :=
  (monitorTakes_told _ _).trans (routeChange_told _ _)

@[simp] theorem emit_table (pc : PictureChange) (s : State) : (emit pc s).table = s.table :=
  (emit_told pc s).table

@[simp] theorem emit_control (pc : PictureChange) (s : State) : (emit pc s).control = s.control :=
  (emit_told pc s).control

@[simp] theorem emit_scanner (pc : PictureChange) (s : State) : (emit pc s).scanner = s.scanner :=
  (emit_told pc s).scanner

@[simp] theorem emit_pub (pc : PictureChange) (s : State) : (emit pc s).pub = s.pub :=
  (emit_told pc s).pub

@[simp] theorem emit_riser (pc : PictureChange) (s : State) : (emit pc s).riser = s.riser :=
  (emit_told pc s).riser

@[simp] theorem emit_merge (pc : PictureChange) (s : State) : (emit pc s).merge = s.merge :=
  (emit_told pc s).merge

@[simp] theorem emit_store (pc : PictureChange) (s : State) : (emit pc s).store = s.store :=
  (emit_told pc s).store

@[simp] theorem emit_pending (pc : PictureChange) (s : State) : (emit pc s).pending = s.pending :=
  (emit_told pc s).pending

/-- A condition set changes the conditions and tells the crews (R178). -/
theorem setCondition_told (s : State) (c : Condition) :
    Told (s.withControl { s.control with
      conditions := if s.hasCondition c then s.control.conditions
                    else setBit s.control.conditions c.bit }) (s.setCondition c) := by
  unfold State.setCondition
  by_cases h : s.hasCondition c = true
  · rw [if_pos h, if_pos h]
    exact ⟨rfl, rfl, rfl, rfl, rfl, rfl, rfl, rfl, rfl, ⟨_, rfl⟩, fun _ => .refl _, fun _ => .refl _⟩
  · rw [if_neg h, if_neg h]
    exact raiseAll_told _ _

end Sys2Proof.Machine
end

