-- ==== Sys2Proof/Laws/Kept.lean ====
section
/-!
SUPPORT. What hardly any operation changes: the queue of commands, the reset input, the straps, the tick
counter and the own sequence number. One lemma for each operation says that it keeps all five.
-/
namespace Sys2Proof.Machine

/-- The queue of commands, the reset input, the straps, the tick counter and the own sequence number stand. -/
structure Kept (s t : State) : Prop where
  pending : t.pending = s.pending
  resetHeld : t.control.resetHeld = s.control.resetHeld
  straps : t.control.straps = s.control.straps
  tick : t.control.tick = s.control.tick
  seq : t.pub.seq = s.pub.seq

@[simp] theorem Kept.refl (s : State) : Kept s s := ⟨rfl, rfl, rfl, rfl, rfl⟩

theorem Kept.trans {s t u : State} (h : Kept s t) (k : Kept t u) : Kept s u :=
  ⟨k.pending.trans h.pending, k.resetHeld.trans h.resetHeld, k.straps.trans h.straps,
    k.tick.trans h.tick, k.seq.trans h.seq⟩

theorem Told.kept {s t : State} (h : Told s t) : Kept s t :=
  ⟨h.pending, by rw [h.control], by rw [h.control], by rw [h.control], by rw [h.pub]⟩

variable {s t : State}

/-! ## The blocks -/

@[simp] theorem withScanner_kept (h : Kept s t) (v : Scanner) : Kept s (t.withScanner v) := h.trans ⟨rfl, rfl, rfl, rfl, rfl⟩
@[simp] theorem withTable_kept (h : Kept s t) (v : PictureTable) : Kept s (t.withTable v) := h.trans ⟨rfl, rfl, rfl, rfl, rfl⟩
@[simp] theorem withMerge_kept (h : Kept s t) (v : MergeUnit) : Kept s (t.withMerge v) := h.trans ⟨rfl, rfl, rfl, rfl, rfl⟩
@[simp] theorem withRiser_kept (h : Kept s t) (v : RiserLine) : Kept s (t.withRiser v) := h.trans ⟨rfl, rfl, rfl, rfl, rfl⟩
@[simp] theorem withIncident_kept (h : Kept s t) (v : IncidentMonitor) : Kept s (t.withIncident v) := h.trans ⟨rfl, rfl, rfl, rfl, rfl⟩
@[simp] theorem withStore_kept (h : Kept s t) (v : PlanStore) : Kept s (t.withStore v) := h.trans ⟨rfl, rfl, rfl, rfl, rfl⟩
@[simp] theorem withBundles_kept (h : Kept s t) (v : Four Bundle) : Kept s (t.withBundles v) := h.trans ⟨rfl, rfl, rfl, rfl, rfl⟩
@[simp] theorem withCrew_kept (h : Kept s t) (v : CrewUnit) : Kept s (t.withCrew v) := h.trans ⟨rfl, rfl, rfl, rfl, rfl⟩
@[simp] theorem withDue_kept (h : Kept s t) (v : TickDue) : Kept s (t.withDue v) := h.trans ⟨rfl, rfl, rfl, rfl, rfl⟩

@[simp] theorem setChannel_kept (h : Kept s t) (ch : Fin 4) (c : Channel) : Kept s (t.setChannel ch c) :=
  withCrew_kept h _

@[simp] theorem setBundle_kept (h : Kept s t) (ch : Fin 4) (b : Bundle) : Kept s (t.setBundle ch b) :=
  withBundles_kept h _

@[simp] theorem setEntries_kept (h : Kept s t) (l : List Entry) : Kept s (t.setEntries l) := withTable_kept h _
@[simp] theorem putEntry_kept (h : Kept s t) (e : Entry) : Kept s (t.putEntry e) := withTable_kept h _
@[simp] theorem dropEntry_kept (h : Kept s t) (a : Address) : Kept s (t.dropEntry a) := withTable_kept h _
@[simp] theorem setChange_kept (h : Kept s t) (i : Nat) : Kept s (t.setChange i) := h.trans ⟨rfl, rfl, rfl, rfl, rfl⟩
@[simp] theorem setLevelMark_kept (h : Kept s t) (i : Nat) : Kept s (t.setLevelMark i) := h.trans ⟨rfl, rfl, rfl, rfl, rfl⟩
@[simp] theorem setCopy_kept (h : Kept s t) (i : Nat) (c : Option ClearingCopy) : Kept s (t.setCopy i c) := h.trans ⟨rfl, rfl, rfl, rfl, rfl⟩
@[simp] theorem atStep_kept (h : Kept s t) (k : LoadStep) : Kept s (t.atStep k) := h.trans ⟨rfl, rfl, rfl, rfl, rfl⟩

/-- The Publisher replaced by one of the same sequence number. -/
theorem withPub_kept (h : Kept s t) (v : Publisher) (e : v.seq = t.pub.seq) : Kept s (t.withPub v) :=
  h.trans ⟨rfl, rfl, rfl, rfl, e⟩

/-- Station Control replaced by one of the same reset input, straps and tick counter. -/
theorem withControl_kept (h : Kept s t) (v : StationControl) (r : v.resetHeld = t.control.resetHeld)
    (p : v.straps = t.control.straps) (k : v.tick = t.control.tick) : Kept s (t.withControl v) :=
  h.trans ⟨rfl, r, p, k, rfl⟩

@[simp] theorem modOrigin_kept (h : Kept s t) (x : Nat) (f : OriginRecord → OriginRecord) :
    Kept s (t.modOrigin x f) := by
  rw [modOrigin_eq]
  exact withTable_kept h _

@[simp] theorem raise_kept (h : Kept s t) (n : Notice) (ch : Fin 4) : Kept s (t.raise n ch) :=
  h.trans (raise_told _ _ _).kept

@[simp] theorem raiseAll_kept (h : Kept s t) (n : Notice) : Kept s (t.raiseAll n) :=
  h.trans (raiseAll_told _ _).kept

@[simp] theorem enqueue_kept (h : Kept s t) (ch : Fin 4) (m : Message) : Kept s (t.enqueue ch m) :=
  h.trans (enqueue_told _ _ _).kept

@[simp] theorem emit_kept (h : Kept s t) (pc : PictureChange) : Kept s (emit pc t) :=
  h.trans (emit_told _ _).kept

@[simp] theorem monitorHearsSilent_kept (h : Kept s t) (x : Nat) : Kept s (monitorHearsSilent x t) :=
  h.trans (monitorHearsSilent_told _ _).kept

@[simp] theorem setCondition_kept (h : Kept s t) (c : Condition) : Kept s (t.setCondition c) :=
  (withControl_kept h _ (by rfl) (by rfl) (by rfl)).trans (setCondition_told t c).kept

@[simp] theorem clearCondition_kept (h : Kept s t) (c : Condition) : Kept s (t.clearCondition c) :=
  h.trans ⟨rfl, rfl, rfl, rfl, rfl⟩

@[simp] theorem kept_ite {p : Prop} [Decidable p] {a b : State} (h : Kept s a) (k : Kept s b) :
    Kept s (if p then a else b) := by
  split
  · exact h
  · exact k

/-! ## The Picture Table -/
@[simp] theorem handCopy_kept (h : Kept s t) (e : Entry) : Kept s (handCopy e t) := by
  unfold handCopy
  repeat' split
  all_goals simp (maxDischargeDepth := 30) [h]

@[simp] theorem removeByHold_kept (h : Kept s t) (e : Entry) : Kept s (removeByHold e t) := by
  unfold removeByHold
  simp (maxDischargeDepth := 30) [h]

@[simp] theorem removeHeldOut_kept (h : Kept s t) : Kept s (removeHeldOut t) := by
  unfold removeHeldOut
  exact foldl_keeps (P := Kept s) (fun _ _ k => removeByHold_kept k _) _ _ h

@[simp] theorem placeEntry_kept (h : Kept s t) (e : Entry) : Kept s (placeEntry e t) := by
  unfold placeEntry
  simp (maxDischargeDepth := 30) [h]

@[simp] theorem rewriteEntry_kept (h : Kept s t) (a b : Entry) : Kept s (rewriteEntry a b t) := by
  unfold rewriteEntry
  dsimp only
  repeat' split
  all_goals simp (maxDischargeDepth := 30) [h]

@[simp] theorem setSweep_kept (h : Kept s t) (x : Nat) (b : Bool) : Kept s (setSweep x b t) := by
  unfold setSweep
  simp (maxDischargeDepth := 30) [h]

@[simp] theorem unconfirmEntry_kept (h : Kept s t) (e : Entry) : Kept s (unconfirmEntry e t) := by
  unfold unconfirmEntry
  repeat' split
  all_goals simp (maxDischargeDepth := 30) [h]

@[simp] theorem unconfirmOrigin_kept (h : Kept s t) (x : Nat) : Kept s (unconfirmOrigin x t) := by
  unfold unconfirmOrigin
  exact foldl_keeps (P := Kept s) (fun _ _ k => unconfirmEntry_kept k _) _ _ (setSweep_kept h _ _)

@[simp] theorem removeBySweep_kept (h : Kept s t) (e : Entry) : Kept s (removeBySweep e t) := by
  unfold removeBySweep
  simp (maxDischargeDepth := 30) [h]

@[simp] theorem sweepOrigin_kept (h : Kept s t) (x : Nat) : Kept s (sweepOrigin x t) := by
  unfold sweepOrigin
  exact foldl_keeps (P := Kept s) (fun _ _ k => removeBySweep_kept k _) _ _ h

@[simp] theorem noteLoss_kept (h : Kept s t) (x : Nat) : Kept s (noteLoss x t) := by
  unfold noteLoss
  dsimp only
  repeat' split
  all_goals simp (maxDischargeDepth := 30) [h]

@[simp] theorem emptyRecovery_kept (h : Kept s t) : Kept s (emptyRecovery t) := by
  unfold emptyRecovery
  dsimp only
  simp (maxDischargeDepth := 30) [h]

@[simp] theorem failRecovery_kept (h : Kept s t) (x : Nat) : Kept s (failRecovery x t) := by
  unfold failRecovery
  repeat' split
  all_goals simp (maxDischargeDepth := 30) [h]

@[simp] theorem endRecovery_kept (h : Kept s t) (x : Nat) : Kept s (endRecovery x t) := by
  unfold endRecovery
  dsimp only
  repeat' split
  all_goals simp (maxDischargeDepth := 30) [h]

@[simp] theorem clearLoss_kept (h : Kept s t) (x : Nat) : Kept s (clearLoss x t) := by
  unfold clearLoss
  dsimp only
  repeat' split
  all_goals simp (maxDischargeDepth := 30) [h]

@[simp] theorem wantSeries_kept (h : Kept s t) (x : Nat) : Kept s (wantSeries x t) := by
  unfold wantSeries
  simp (maxDischargeDepth := 30) [h]

@[simp] theorem startRecovery_kept (h : Kept s t) : Kept s (startRecovery t) := by
  unfold startRecovery
  dsimp only
  repeat' split
  all_goals simp (maxDischargeDepth := 30) [h]

@[simp] theorem evictEntry_kept (h : Kept s t) (v : Entry) : Kept s (evictEntry v t) := by
  unfold evictEntry
  simp (maxDischargeDepth := 30) [h]

@[simp] theorem presentRecord_kept (h : Kept s t) (x : Nat) (r : Record) :
    Kept s (presentRecord x r t) := by
  unfold presentRecord
  repeat' split
  all_goals simp (maxDischargeDepth := 30) [h]

@[simp] theorem applyLevel_kept (h : Kept s t) (e : Entry) (r : Record) :
    Kept s (applyLevel e r t) := by
  unfold applyLevel
  dsimp only
  repeat' split
  all_goals simp (maxDischargeDepth := 30) [h]

@[simp] theorem applyRecord_kept (h : Kept s t) (x : Nat) (r : Record) :
    Kept s (applyRecord x r t) := by
  unfold applyRecord
  repeat' split
  all_goals simp (maxDischargeDepth := 30) [h]

@[simp] theorem applyRecordBytes_kept (h : Kept s t) (x : Nat) (b : List Byte) :
    Kept s (applyRecordBytes x t b) := by
  unfold applyRecordBytes
  repeat' split
  all_goals simp (maxDischargeDepth := 30) [h]

@[simp] theorem createMarker_kept (h : Kept s t) (i : Nat) (k : PointState) (crew : Nat) (p : Option Place) (l : Location) :
    Kept s (createMarker i k crew p l t) := by
  unfold createMarker
  dsimp only
  simp (maxDischargeDepth := 30) [h]

@[simp] theorem clearMarker_kept (h : Kept s t) (e : Entry) : Kept s (clearMarker e t) := by
  unfold clearMarker
  repeat' split
  all_goals simp (maxDischargeDepth := 30) [h]


/-! ## The Point Scanner -/
@[simp] theorem modChan_kept (h : Kept s t) (i : Nat) (f : ScanChannel → ScanChannel) :
    Kept s (t.modChan i f) := by
  unfold State.modChan
  dsimp only
  simp (maxDischargeDepth := 30) [h]

@[simp] theorem publishLevel_kept (h : Kept s t) (i : Nat) (r : Option Nat) :
    Kept s (publishLevel i r t) := by
  unfold publishLevel
  repeat' split
  all_goals simp (maxDischargeDepth := 30) [h]

@[simp] theorem writeOwn_kept (h : Kept s t) (i : Nat) (k : PointState) (r : Option Nat) :
    Kept s (writeOwn i k r t) := by
  unfold writeOwn
  dsimp only
  repeat' split
  all_goals simp (maxDischargeDepth := 30) [h]

@[simp] theorem noteSupply_kept (h : Kept s t) (i : Nat) (a b : ScanState) :
    Kept s (noteSupply i a b t) := by
  unfold noteSupply
  repeat' split
  all_goals simp (maxDischargeDepth := 30) [h]

@[simp] theorem changeScanState_kept (h : Kept s t) (i : Nat) (n : ScanState) (r : Option Nat) :
    Kept s (changeScanState i n r t) := by
  unfold changeScanState
  dsimp only
  simp (maxDischargeDepth := 30) [h]

@[simp] theorem scanChannel_kept (h : Kept s t) (r : Readings) (i : Nat) :
    Kept s (scanChannel r t i) := by
  unfold scanChannel
  dsimp only
  repeat' split
  all_goals simp (maxDischargeDepth := 30) [h]

@[simp] theorem writeLevel_kept (h : Kept s t) (i v : Nat) : Kept s (writeLevel i v t) := by
  unfold writeLevel
  repeat' split
  all_goals simp (maxDischargeDepth := 30) [h]

@[simp] theorem checkLevel_kept (h : Kept s t) (r : Readings) (i : Nat) :
    Kept s (checkLevel r t i) := by
  unfold checkLevel
  dsimp only
  repeat' split
  all_goals simp (maxDischargeDepth := 30) [h]

@[simp] theorem levelCheck_kept (h : Kept s t) (r : Readings) : Kept s (levelCheck r t) := by
  unfold levelCheck
  split
  · exact withScanner_kept h _
  · exact withScanner_kept (foldl_keeps (P := Kept s) (fun _ _ k => checkLevel_kept k _ _) _ _ h) _

@[simp] theorem scan_kept (h : Kept s t) (r : Readings) : Kept s (scan r t) := by
  unfold scan
  exact levelCheck_kept (foldl_keeps (P := Kept s) (fun _ _ k => scanChannel_kept k _ _) _ _ h) _

@[simp] theorem isolatePoint_kept (h : Kept s t) (i : Nat) : Kept s (isolatePoint i t) := by
  unfold isolatePoint
  repeat' split
  all_goals simp (maxDischargeDepth := 30) [h]

@[simp] theorem deisolatePoint_kept (h : Kept s t) (i : Nat) : Kept s (deisolatePoint i t) := by
  unfold deisolatePoint
  repeat' split
  all_goals simp (maxDischargeDepth := 30) [h]

@[simp] theorem restorePoint_kept (h : Kept s t) (i : Nat) : Kept s (restorePoint i t) := by
  unfold restorePoint
  repeat' split
  all_goals simp (maxDischargeDepth := 30) [h]

@[simp] theorem rewriteSupplyPlace_kept (h : Kept s t) : Kept s (rewriteSupplyPlace t) := by
  unfold rewriteSupplyPlace
  repeat' split
  all_goals simp (maxDischargeDepth := 30) [h]


/-! ## The Bundle Engine -/
@[simp] theorem askStore_kept (h : Kept s t) (r : ReadRequest) : Kept s ((askStore r t).1) := by
  unfold askStore
  dsimp only
  simp (maxDischargeDepth := 30) [h]

@[simp] theorem issueRead_kept (h : Kept s t) (ch : Fin 4) : Kept s ((issueRead ch t).1) := by
  unfold issueRead
  dsimp only
  repeat' split
  all_goals simp (maxDischargeDepth := 30) [h]

@[simp] theorem issueReads_kept (h : Kept s t) (ch : Fin 4) : Kept s ((issueReads ch t).1) := by
  unfold issueReads
  dsimp only
  simp (maxDischargeDepth := 30) [h]

@[simp] theorem composeBundle_kept (h : Kept s t) (ch : Fin 4) : Kept s (composeBundle ch t) := by
  unfold composeBundle
  simp (maxDischargeDepth := 30) [h]

@[simp] theorem beginBundle_kept (h : Kept s t) (ch : Fin 4) (n : Nat) :
    Kept s ((beginBundle ch n t).1) := by
  unfold beginBundle
  dsimp only
  simp (maxDischargeDepth := 30) [h]

@[simp] theorem bundleHears_kept (h : Kept s t) (rep : StoreReport) :
    Kept s ((bundleHears rep t).1) := by
  unfold bundleHears
  dsimp only
  repeat' split
  all_goals simp (maxDischargeDepth := 30) [h]

@[simp] theorem afterPlacing_kept (h : Kept s t) (ch : Fin 4) (m : Message) :
    Kept s ((afterPlacing ch m t).1) := by
  unfold afterPlacing
  dsimp only
  repeat' split
  all_goals simp (maxDischargeDepth := 30) [h]

@[simp] theorem cancelReads_kept (h : Kept s t) (ch : Fin 4) : Kept s (cancelReads ch t) := by
  unfold cancelReads
  dsimp only
  simp (maxDischargeDepth := 30) [h]

@[simp] theorem abortForSheet_kept (h : Kept s t) (ch : Fin 4) (n : Nat) :
    Kept s ((abortForSheet ch n t).1) := by
  unfold abortForSheet
  dsimp only
  simp (maxDischargeDepth := 30) [h]

@[simp] theorem abortForDetach_kept (h : Kept s t) (ch : Fin 4) :
    Kept s (abortForDetach ch t) := by
  unfold abortForDetach
  dsimp only
  repeat' split
  all_goals simp (maxDischargeDepth := 30) [h]

@[simp] theorem sheetRequest_kept (h : Kept s t) (ch : Fin 4) (n : Nat) :
    Kept s ((sheetRequest ch n t).1) := by
  unfold sheetRequest
  dsimp only
  repeat' split
  all_goals simp (maxDischargeDepth := 30) [h]


/-! ## Station Control -/
@[simp] theorem enterRunning_kept (h : Kept s t) : Kept s (enterRunning t) := by
  unfold enterRunning
  dsimp only
  refine withCrew_kept (withIncident_kept (withPub_kept (withTable_kept (rewriteSupplyPlace_kept
    (withScanner_kept (withControl_kept h _ (by rfl) (by rfl) (by rfl)) _)) _) _ (by rfl)) _) _

@[simp] theorem runOnDefaults_kept (h : Kept s t) : Kept s (runOnDefaults t) := by
  unfold runOnDefaults
  exact enterRunning_kept (withControl_kept (setCondition_kept h _) _ (by rfl) (by rfl) (by rfl))

@[simp] theorem takeHeader_kept (h : Kept s t) (code : ReadCode) (c : List Byte) :
    Kept s ((takeHeader code c t).1) := by
  unfold takeHeader
  dsimp only
  split
  · exact askStore_kept (atStep_kept (withControl_kept (withStore_kept h _) _ (by rfl) (by rfl)
      (by rfl)) _) _
  · exact runOnDefaults_kept (setCondition_kept h _)

@[simp] theorem takeConfig_kept (h : Kept s t) (code : ReadCode) (c : List Byte) :
    Kept s ((takeConfig code c t).1) := by
  unfold takeConfig
  dsimp only
  split
  · split
    · exact askStore_kept (atStep_kept (withControl_kept h _ (by rfl) (by rfl) (by rfl)) _) _
    · exact runOnDefaults_kept h
  · exact runOnDefaults_kept h

@[simp] theorem takeDirectory_kept (h : Kept s t) (k : Nat) (code : ReadCode) (c : List Byte) :
    Kept s ((takeDirectory k code c t).1) := by
  unfold takeDirectory
  dsimp only
  split
  · split
    · exact askStore_kept (atStep_kept (withControl_kept h _ (by rfl) (by rfl) (by rfl)) _) _
    · exact enterRunning_kept (withControl_kept h _ (by rfl) (by rfl) (by rfl))
  · exact enterRunning_kept (withControl_kept h _ (by rfl) (by rfl) (by rfl))

@[simp] theorem loaderHears_kept (h : Kept s t) (code : ReadCode) (c : List Byte) :
    Kept s ((loaderHears code c t).1) := by
  unfold loaderHears
  repeat' split
  all_goals simp (maxDischargeDepth := 30) [h]

@[simp] theorem hears_kept (h : Kept s t) (rep : StoreReport) : Kept s ((hears rep t).1) := by
  unfold hears
  repeat' split
  all_goals simp (maxDischargeDepth := 30) [h]

@[simp] theorem deliver_kept (h : Kept s t) (n : Nat) (l : List StoreReport) :
    Kept s (deliver n l t) := by
  induction n generalizing l t with
  | zero => exact h
  | succ n ih =>
    match l with
    | [] => exact h
    | rep :: l => exact ih (hears_kept h rep) _

@[simp] theorem settleReports_kept {out : State × List StoreReport} (h : Kept s out.1) :
    Kept s (settleReports out) := deliver_kept h _ _


/-! ## The Riser Line Interface -/
@[simp] theorem startSending_kept (h : Kept s t) (f : TxFrame) (n : Nat) :
    Kept s (startSending f n t) := by
  unfold startSending
  dsimp only
  simp (maxDischargeDepth := 30) [h]

@[simp] theorem sendOrWait_kept (h : Kept s t) (f : TxFrame) (n : Nat) :
    Kept s (sendOrWait f n t) := by
  unfold sendOrWait
  dsimp only
  repeat' split
  all_goals simp (maxDischargeDepth := 30) [h]

@[simp] theorem placeFrame_kept (h : Kept s t) (f : TxFrame) : Kept s (placeFrame f t) := by
  unfold placeFrame
  simp (maxDischargeDepth := 30) [h]

@[simp] theorem lineQuiet_kept (h : Kept s t) : Kept s (lineQuiet t) := by
  unfold lineQuiet
  dsimp only
  repeat' split
  all_goals simp (maxDischargeDepth := 30) [h]

@[simp] theorem lineActive_kept (h : Kept s t) (gap : Bool) : Kept s (lineActive gap t) := by
  unfold lineActive
  dsimp only
  repeat' split
  all_goals simp (maxDischargeDepth := 30) [h]

@[simp] theorem remarkRecord_kept (h : Kept s t) (r : Record) : Kept s (remarkRecord t r) := by
  unfold remarkRecord
  repeat' split
  all_goals simp (maxDischargeDepth := 30) [h]

@[simp] theorem remarkFrame_kept (h : Kept s t) (f : TxFrame) : Kept s (remarkFrame f t) := by
  unfold remarkFrame
  split
  · exact foldl_keeps (P := Kept s) (fun _ _ k => remarkRecord_kept k _) _ _ h
  · exact h
  · exact h

@[simp] theorem rollBack_kept (h : Kept s t) (f : TxFrame) : Kept s (rollBack f t) := by
  unfold rollBack
  repeat' split
  · exact withPub_kept h _ (by rfl)
  · exact withPub_kept h _ (by rfl)
  · exact h

@[simp] theorem giveUp_kept (h : Kept s t) (f : TxFrame) : Kept s (giveUp f t) := by
  unfold giveUp
  exact setCondition_kept (withRiser_kept (withPub_kept (rollBack_kept (remarkFrame_kept h _) _) _ (by rfl)) _) _

@[simp] theorem awaitOrigin_kept (h : Kept s t) (x : Nat) : Kept s (awaitOrigin t x) := by
  unfold awaitOrigin
  simp (maxDischargeDepth := 30) [h]

@[simp] theorem enterBackoff_kept (h : Kept s t) (f : TxFrame) (n : Nat) :
    Kept s (enterBackoff f n t) := by
  unfold enterBackoff
  dsimp only
  repeat' split
  all_goals simp (maxDischargeDepth := 30) [h]

@[simp] theorem mismatchAt_kept (h : Kept s t) (f : TxFrame) (c n : Nat) :
    Kept s (mismatchAt f c n t) := by
  unfold mismatchAt
  dsimp only
  repeat' split
  all_goals simp (maxDischargeDepth := 30) [h]

@[simp] theorem backoffExpires_kept (h : Kept s t) : Kept s (backoffExpires t) := by
  unfold backoffExpires
  repeat' split
  all_goals simp (maxDischargeDepth := 30) [h]

@[simp] theorem offerFrame_kept (h : Kept s t) (f : RxFrame) : Kept s (offerFrame f t) := by
  unfold offerFrame
  dsimp only
  repeat' split
  all_goals simp (maxDischargeDepth := 30) [h]

@[simp] theorem frameArrives_kept (h : Kept s t) (f : RxFrame) : Kept s (frameArrives f t) := by
  unfold frameArrives
  dsimp only
  repeat' split
  all_goals simp (maxDischargeDepth := 30) [h]

@[simp] theorem frameEnds_kept (h : Kept s t) (l : List Byte) (b : Bool) :
    Kept s (frameEnds l b t) := by
  unfold frameEnds
  dsimp only
  repeat' split
  all_goals simp (maxDischargeDepth := 30) [h]

@[simp] theorem stuckEvent_kept (h : Kept s t) : Kept s (stuckEvent t) := by
  unfold stuckEvent
  dsimp only
  simp (maxDischargeDepth := 30) [h]


/-! ## The Publisher -/
@[simp] theorem buildState_kept (h : Kept s t) : Kept s (buildState t) := by
  unfold buildState
  dsimp only
  split
  · exact withPub_kept h _ (by rfl)
  · exact placeFrame_kept (withPub_kept h _ (by rfl)) _

@[simp] theorem buildFullset_kept (h : Kept s t) : Kept s (buildFullset t) := by
  unfold buildFullset
  exact placeFrame_kept (withPub_kept h _ (by rfl)) _

@[simp] theorem buildSummary_kept (h : Kept s t) : Kept s (buildSummary t) := by
  unfold buildSummary
  exact placeFrame_kept (withPub_kept h _ (by rfl)) _

@[simp] theorem buildResync_kept (h : Kept s t) : Kept s (buildResync t) := by
  unfold buildResync
  exact placeFrame_kept (withPub_kept h _ (by rfl)) _

@[simp] theorem buildItem_kept (h : Kept s t) (i : FrameItem) : Kept s (buildItem i t) := by
  unfold buildItem
  repeat' split
  all_goals simp (maxDischargeDepth := 30) [h]

@[simp] theorem publish_kept (h : Kept s t) (n : Nat) : Kept s (publish n t) := by
  induction n generalizing t with
  | zero => exact h
  | succ n ih =>
    unfold publish
    split
    · exact ih (buildItem_kept h _)
    · exact h

@[simp] theorem hearName_kept (h : Kept s t) (x : Nat) : Kept s (hearName t x) := by
  unfold hearName
  repeat' split
  · exact withPub_kept h _ (by rfl)
  · exact awaitOrigin_kept h _
  · exact h

@[simp] theorem hearNames_kept (h : Kept s t) (l : List Nat) : Kept s (hearNames l t) := by
  unfold hearNames
  exact foldl_keeps (P := Kept s) (fun _ _ k => hearName_kept k _) _ _ h

@[simp] theorem hearFirst_kept (h : Kept s t) (x : Nat) : Kept s (hearFirst x t) := by
  unfold hearFirst
  simp (maxDischargeDepth := 30) [h]


/-! ## The Merge Unit -/
@[simp] theorem moveStatus_kept (h : Kept s t) (x : Nat) (c : FrameClass) :
    Kept s (moveStatus x c t) := by
  unfold moveStatus
  dsimp only
  repeat' split
  all_goals simp (maxDischargeDepth := 30) [h]

@[simp] theorem beginSeries_kept (h : Kept s t) (x : Nat) : Kept s (beginSeries x t) := by
  unfold beginSeries
  simp (maxDischargeDepth := 30) [h]

@[simp] theorem finishSeries_kept (h : Kept s t) (x : Nat) : Kept s (finishSeries x t) := by
  unfold finishSeries
  simp (maxDischargeDepth := 30) [h]

@[simp] theorem hearRevision_kept (h : Kept s t) (r : Nat) : Kept s (hearRevision r t) := by
  unfold hearRevision
  repeat' split
  all_goals simp (maxDischargeDepth := 30) [h]

@[simp] theorem applySummary_kept (h : Kept s t) (x : Nat) (b : List Byte) :
    Kept s (applySummary x b t) := by
  unfold applySummary
  dsimp only
  repeat' split
  all_goals simp (maxDischargeDepth := 30) [h]

@[simp] theorem checkCount_kept (h : Kept s t) (x n : Nat) : Kept s (checkCount x n t) := by
  unfold checkCount
  dsimp only
  repeat' split
  all_goals simp (maxDischargeDepth := 30) [h]

@[simp] theorem applyRecords_kept (h : Kept s t) (x : Nat) (f : RxFrame) :
    Kept s (applyRecords x f t) := by
  unfold applyRecords
  exact foldl_keeps (P := Kept s) (fun _ _ k => applyRecordBytes_kept k _ _) _ _ h

@[simp] theorem applyBody_kept (h : Kept s t) (x : Nat) (f : RxFrame) :
    Kept s (applyBody x f t) := by
  unfold applyBody
  repeat' split
  all_goals simp (maxDischargeDepth := 30) [h]

@[simp] theorem applyFrame_kept (h : Kept s t) (f : RxFrame) (c : FrameClass) :
    Kept s (applyFrame f c t) := by
  unfold applyFrame
  dsimp only
  repeat' split
  all_goals simp (maxDischargeDepth := 30) [h]

@[simp] theorem takeFrame_kept (h : Kept s t) (f : RxFrame) : Kept s (takeFrame f t) := by
  unfold takeFrame
  dsimp only
  repeat' split
  all_goals simp (maxDischargeDepth := 30) [h]

@[simp] theorem takeHead_kept (h : Kept s t) (k : FrameKind) : Kept s (takeHead k t) := by
  unfold takeHead
  dsimp only
  repeat' split
  all_goals simp (maxDischargeDepth := 30) [h]

@[simp] theorem becomeSilent_kept (h : Kept s t) (x : Nat) : Kept s (becomeSilent x t) := by
  unfold becomeSilent
  dsimp only
  simp (maxDischargeDepth := 30) [h]

@[simp] theorem expireAwait_kept (h : Kept s t) (x : Nat) : Kept s (expireAwait x t) := by
  unfold expireAwait
  repeat' split
  all_goals simp (maxDischargeDepth := 30) [h]


/-! ## The Crew Channel Unit -/
@[simp] theorem linkAlive_kept (h : Kept s t) : Kept s (linkAlive t) := by
  unfold linkAlive
  simp (maxDischargeDepth := 30) [h]

@[simp] theorem countBad_kept (h : Kept s t) : Kept s (countBad t) := by
  unfold countBad
  simp (maxDischargeDepth := 30) [h]

@[simp] theorem countStray_kept (h : Kept s t) : Kept s (countStray t) := by
  unfold countStray
  dsimp only
  simp (maxDischargeDepth := 30) [h]

@[simp] theorem answerWith_kept (h : Kept s t) (y : Nat) (st : Status) (x : Nat) (ch : Fin 4) :
    Kept s (answerWith y st x ch t) := by
  unfold answerWith
  simp (maxDischargeDepth := 30) [h]

@[simp] theorem answer_kept (h : Kept s t) (y : Nat) (st : Status) (ch : Fin 4) :
    Kept s (answer y st ch t) := by
  unfold answer
  simp (maxDischargeDepth := 30) [h]

/-- A request taken keeps what its carrying out keeps. -/
theorem takeRequest_kept {α : Type} (h : Kept s t) (y : Nat) (p : Option α) (b : Bool) (ch : Fin 4)
    {carry : α → State → State} (k : ∀ a, Kept s (carry a t)) :
    Kept s (takeRequest y p b ch carry t) := by
  unfold takeRequest
  split
  · exact withCrew_kept h _
  · split
    · exact answer_kept h _ _ _
    · split
      · exact answer_kept h _ _ _
      · split
        · exact answer_kept h _ _ _
        · exact k _

@[simp] theorem attachRequest_kept (h : Kept s t) (ch : Fin 4) (r : Nat × Nat) :
    Kept s (attachRequest ch r t) := by
  unfold attachRequest
  dsimp only
  repeat' split
  all_goals simp (maxDischargeDepth := 30) [h]

@[simp] theorem detachChannel_kept (h : Kept s t) (ch : Fin 4) : Kept s (detachChannel ch t) := by
  unfold detachChannel
  dsimp only
  simp (maxDischargeDepth := 30) [h]

@[simp] theorem detachRequest_kept (h : Kept s t) (ch : Fin 4) (r : Unit) :
    Kept s (detachRequest ch r t) := by
  unfold detachRequest
  simp (maxDischargeDepth := 30) [h]

@[simp] theorem linkLost_kept (h : Kept s t) : Kept s (linkLost t) := by
  unfold linkLost
  exact eachChannel_keeps (P := Kept s) (fun _ _ k => detachChannel_kept k _) _ h

@[simp] theorem watchRequest_kept (h : Kept s t) (ch : Fin 4) (r : WatchSlot × Watch) :
    Kept s (watchRequest ch r t) := by
  unfold watchRequest
  simp (maxDischargeDepth := 30) [h]

@[simp] theorem unwatchRequest_kept (h : Kept s t) (ch : Fin 4) (k : WatchSlot) :
    Kept s (unwatchRequest ch k t) := by
  unfold unwatchRequest
  simp (maxDischargeDepth := 30) [h]

@[simp] theorem markRequest_kept (h : Kept s t) (ch : Fin 4) (r : MarkRequest) :
    Kept s (markRequest ch r t) := by
  unfold markRequest
  repeat' split
  all_goals simp (maxDischargeDepth := 30) [h]

@[simp] theorem unmarkRequest_kept (h : Kept s t) (ch : Fin 4) (i : Nat) :
    Kept s (unmarkRequest ch i t) := by
  unfold unmarkRequest
  repeat' split
  all_goals simp (maxDischargeDepth := 30) [h]

@[simp] theorem sheetCarried_kept (h : Kept s t) (ch : Fin 4) (n : Nat) :
    Kept s (sheetCarried ch n t) := by
  unfold sheetCarried
  simp (maxDischargeDepth := 30) [h]

/-- A request of the scanner keeps what its effect keeps. -/
theorem scannerRequest_kept (h : Kept s t) (y : Nat) (q : ScanRequest) {effect : Nat → State → State}
    (k : ∀ i, Kept s (effect i t)) (ch : Fin 4) (i : Nat) :
    Kept s (scannerRequest y q effect ch i t) := by
  unfold scannerRequest
  split
  · exact answer_kept h _ _ _
  · split
    · exact answer_kept (k i) _ _ _
    · exact answer_kept h _ _ _

@[simp] theorem listRequest_kept (h : Kept s t) (ch : Fin 4) (r : ListRequest) :
    Kept s (listRequest ch r t) := by
  unfold listRequest
  simp (maxDischargeDepth := 30) [h]

@[simp] theorem stationsRequest_kept (h : Kept s t) (ch : Fin 4) (r : Nat × Nat) :
    Kept s (stationsRequest ch r t) := by
  unfold stationsRequest
  simp (maxDischargeDepth := 30) [h]

@[simp] theorem collectRequest_kept (h : Kept s t) (ch : Fin 4) (r : Unit) :
    Kept s (collectRequest ch r t) := by
  unfold collectRequest
  dsimp only
  simp (maxDischargeDepth := 30) [h]

@[simp] theorem placeAnswer_kept (h : Kept s t) (ch : Fin 4) : Kept s (placeAnswer ch t) := by
  unfold placeAnswer
  dsimp only
  repeat' split
  all_goals simp (maxDischargeDepth := 30) [h]

@[simp] theorem placeNotice_kept (h : Kept s t) (ch : Fin 4) : Kept s (placeNotice ch t) := by
  unfold placeNotice
  dsimp only
  simp (maxDischargeDepth := 30) [h]

@[simp] theorem placeListMessage_kept (h : Kept s t) (ch : Fin 4) :
    Kept s (placeListMessage ch t) := by
  unfold placeListMessage
  repeat' split
  all_goals simp (maxDischargeDepth := 30) [h]

@[simp] theorem placeBundleMessage_kept (h : Kept s t) (ch : Fin 4) :
    Kept s (placeBundleMessage ch t) := by
  unfold placeBundleMessage
  dsimp only
  repeat' split
  all_goals simp (maxDischargeDepth := 30) [h]

@[simp] theorem place_kept (h : Kept s t) (w : Waiter) (ch : Fin 4) : Kept s (place w ch t) := by
  unfold place
  repeat' split
  all_goals simp (maxDischargeDepth := 30) [h]

@[simp] theorem placeIfNext_kept (h : Kept s t) (w : Waiter) (ch : Fin 4) :
    Kept s (placeIfNext w ch t) := by
  unfold placeIfNext
  repeat' split
  all_goals simp (maxDischargeDepth := 30) [h]

@[simp] theorem linkTake_kept (h : Kept s t) : Kept s (linkTake t) := by
  unfold linkTake
  dsimp only
  repeat' split
  all_goals simp (maxDischargeDepth := 30) [h]


/-! ## The part at rest -/
@[simp] theorem takeSilence_kept (h : Kept s t) (x : Nat) : Kept s (takeSilence x t) := by
  unfold takeSilence
  dsimp only
  repeat' split
  all_goals simp (maxDischargeDepth := 30) [h]

@[simp] theorem takeHolds_kept (h : Kept s t) : Kept s (takeHolds t) := by
  unfold takeHolds
  dsimp only
  repeat' split
  all_goals simp (maxDischargeDepth := 30) [h]

@[simp] theorem takeRecovery_kept (h : Kept s t) : Kept s (takeRecovery t) := by
  unfold takeRecovery
  dsimp only
  repeat' split
  all_goals simp (maxDischargeDepth := 30) [h]

@[simp] theorem takeIncidentHold_kept (h : Kept s t) : Kept s (takeIncidentHold t) := by
  unfold takeIncidentHold
  dsimp only
  repeat' split
  all_goals simp (maxDischargeDepth := 30) [h]

@[simp] theorem takeSummary_kept (h : Kept s t) : Kept s (takeSummary t) := by
  unfold takeSummary
  split
  · exact withPub_kept h _ (by rfl)
  · exact h

@[simp] theorem takeStuck_kept (h : Kept s t) : Kept s (takeStuck t) := by
  unfold takeStuck
  dsimp only
  repeat' split
  all_goals simp (maxDischargeDepth := 30) [h]

@[simp] theorem takeLinkLoss_kept (h : Kept s t) : Kept s (takeLinkLoss t) := by
  unfold takeLinkLoss
  dsimp only
  repeat' split
  all_goals simp (maxDischargeDepth := 30) [h]

@[simp] theorem takeSilences_kept (h : Kept s t) : Kept s (takeSilences t) := by
  unfold takeSilences
  exact foldl_keeps (P := Kept s) (fun _ _ k => takeSilence_kept k _) _ _ h

@[simp] theorem takeAwaits_kept (h : Kept s t) : Kept s (takeAwaits t) := by
  unfold takeAwaits
  exact foldl_keeps (P := Kept s) (fun _ _ k => expireAwait_kept k _) _ _ h

@[simp] theorem takeDue_kept (h : Kept s t) : Kept s (takeDue t) := by
  unfold takeDue
  simp (maxDischargeDepth := 30) [h]

@[simp] theorem placeOn_kept (h : Kept s t) (n : Nat) (ch : Fin 4) : Kept s (placeOn n ch t) := by
  induction n generalizing t with
  | zero => exact h
  | succ n ih =>
    unfold placeOn
    split
    · exact ih (place_kept h _ _)
    · exact h

@[simp] theorem placeAll_kept (h : Kept s t) : Kept s (placeAll t) := by
  unfold placeAll
  exact eachChannel_keeps (P := Kept s) (fun _ _ k => placeOn_kept k _ _) _ h

@[simp] theorem atOnce_kept (h : Kept s t) : Kept s (atOnce t) := by
  unfold atOnce
  simp (maxDischargeDepth := 30) [h]

@[simp] theorem settle_kept (h : Kept s t) : Kept s (settle t) := by
  unfold settle
  simp (maxDischargeDepth := 30) [h]

/-- What a command from outside does keeps what its effect keeps after the part is at rest. -/
theorem external_kept {f : State → State} (k : ∀ u, Kept s u → Kept s (f u)) (h : Kept s t) :
    Kept s (external f t) := by
  unfold external
  split
  · exact h
  · exact k _ (settle_kept h)

/-- What the take of a frame does keeps what its effect keeps after the part's steps at once. -/
theorem framed_kept {f : State → State} (k : ∀ u, Kept s u → Kept s (f u)) (h : Kept s t) :
    Kept s (framed f t) := by
  unfold framed
  split
  · exact h
  · exact k _ (atOnce_kept h)

/-- What a step of the part's own does keeps what its effect keeps. -/
theorem internal_kept {f : State → State} (k : ∀ u, Kept s u → Kept s (f u)) (h : Kept s t) :
    Kept s (internal f t) := by
  unfold internal
  split
  · exact h
  · exact k _ h

/-! ## The crew port receiver -/

theorem takeByType_kept (h : Kept s t) (ch : Fin 4) (n : Nat) (f : List Byte) :
    Kept s (takeByType ch n f t) := by
  unfold takeByType
  split
  all_goals refine takeRequest_kept h _ _ _ _ (fun a => ?_)
  all_goals first
    | exact scannerRequest_kept h _ _ (fun i => by simp (maxDischargeDepth := 30) [h]) _ _
    | simp (maxDischargeDepth := 30) [h]

theorem takeMessage_kept (h : Kept s t) (c n : Byte) (f : List Byte) :
    Kept s (takeMessage c n f t) := by
  unfold takeMessage
  repeat' split
  · exact linkAlive_kept h
  · exact takeByType_kept (linkAlive_kept h) _ _ _
  · exact countStray_kept (linkAlive_kept h)

theorem takeLinkEvent_kept (h : Kept s t) (e : LinkEvent) : Kept s (takeLinkEvent e t) := by
  cases e
  · exact countBad_kept h
  · exact countBad_kept h
  · exact takeMessage_kept h _ _ _

theorem takeLinkEvents_kept (h : Kept s t) (l : List LinkEvent) : Kept s (takeLinkEvents l t) := by
  induction l generalizing t with
  | nil => exact h
  | cons e l ih =>
    cases l with
    | nil => exact takeLinkEvent_kept h e
    | cons f l => exact ih (settle_kept (takeLinkEvent_kept h e))

/-- Bytes that arrive at the crew port keep what every message's take keeps. -/
@[simp] theorem receive_kept (h : Kept s t) (l : List Byte) : Kept s (receive l t) :=
  takeLinkEvents_kept (withCrew_kept h _) _

@[simp] theorem hubMessage_kept (h : Kept s t) (ch : Fin 4) (n : Nat) (f : List Byte) :
    Kept s (hubMessage ch n f t) := receive_kept h _

@[simp] theorem strayMessage_kept (h : Kept s t) (c : Byte) (l : List Byte) :
    Kept s (strayMessage c l t) := by
  unfold strayMessage
  repeat' split
  · exact receive_kept h _
  · exact h
  · exact h

end Sys2Proof.Machine
end

