-- ==== Sys2Proof/Laws/Store.lean ====
section
/-!
SUPPORT. What each operation of the Plan Store Controller does to its queues and its read engine.
-/
namespace Sys2Proof.Machine

/-! ## The read engine (R127) -/

theorem pop_none {p : PlanStore} (h : p.pop = none) : p.mainQueue = [] ∧ p.promoteQueue = [] := by
  unfold PlanStore.pop at h
  split at h
  · exact absurd h (by simp)
  · exact absurd h (by simp)
  · next a b => exact ⟨b, a⟩

/-- A request taken shortens one of the two queues by one. -/
theorem pop_some {p q : PlanStore} {r : ReadRequest} (h : p.pop = some (r, q)) :
    p.promoteQueue.length + p.mainQueue.length = q.promoteQueue.length + q.mainQueue.length + 1 ∧
      q.promoteQueue.length ≤ p.promoteQueue.length ∧ q.engine = p.engine ∧ q.layout = p.layout ∧
      q.rereads = p.rereads ∧ q.damaged = p.damaged ∧ q.absent = p.absent := by
  unfold PlanStore.pop at h
  split at h
  · next e =>
    simp only [Option.some.injEq, Prod.mk.injEq] at h
    obtain ⟨rfl, rfl⟩ := h
    exact ⟨by simp only [e, List.length_cons]; omega, by simp only [e, List.length_cons]; omega, rfl, rfl,
      rfl, rfl, rfl⟩
  · next e f =>
    simp only [Option.some.injEq, Prod.mk.injEq] at h
    obtain ⟨rfl, rfl⟩ := h
    exact ⟨by simp only [e, f, List.length_cons, List.length_nil]; omega, by simp only [e, le_refl], rfl, rfl,
      rfl, rfl, rfl⟩
  · exact absurd h (by simp)

/-- An IDLE engine that takes requests ends at work or with nothing waiting, and moves no count but that of
the ABSENT answers. -/
theorem takeNext_spec (st : Straps) (n : Nat) (p : PlanStore)
    (enough : p.promoteQueue.length + p.mainQueue.length ≤ n) :
    (takeNext st n p).1.EngineOk ∧
      (takeNext st n p).1.promoteQueue.length ≤ p.promoteQueue.length ∧
      (takeNext st n p).1.layout = p.layout ∧ (takeNext st n p).1.rereads = p.rereads ∧
      (takeNext st n p).1.damaged = p.damaged := by
  induction n generalizing p with
  | zero =>
    have a : p.promoteQueue = [] := List.length_eq_zero_iff.mp (by omega)
    have b : p.mainQueue = [] := List.length_eq_zero_iff.mp (by omega)
    exact ⟨fun _ => ⟨b, a⟩, le_refl _, rfl, rfl, rfl⟩
  | succ n ih =>
    unfold takeNext
    split
    · next e => exact ⟨fun _ => pop_none e, le_refl _, rfl, rfl, rfl⟩
    · next r q e =>
      obtain ⟨len, pro, eng, lay, rer, dam, abs⟩ := pop_some e
      split
      · exact ⟨(fun k => nomatch k), pro, lay, rer, dam⟩
      · obtain ⟨a, b, c, d, f⟩ := ih { q with absent := sat16 q.absent } (by dsimp only; omega)
        exact ⟨a, b.trans pro, c.trans lay, d.trans rer, f.trans dam⟩

/-- The engine that looks for its next request never idles over work (R127). -/
theorem advance_spec (p : PlanStore) (st : Straps) :
    (p.advance st).1.EngineOk ∧ (p.advance st).1.promoteQueue.length ≤ p.promoteQueue.length ∧
      (p.advance st).1.layout = p.layout ∧ (p.advance st).1.rereads = p.rereads ∧
      (p.advance st).1.damaged = p.damaged := by
  unfold PlanStore.advance
  split
  · exact takeNext_spec st _ p (le_refl _)
  · next h =>
    refine ⟨fun k => ?_, le_refl _, rfl, rfl, rfl⟩
    rw [k] at h
    exact absurd rfl h

/-! ## The queues (R126) -/

/-- A request enters the tail of exactly one queue, the promote queue only while it has room. -/
theorem enter_spec (p : PlanStore) (r : ReadRequest) :
    ((p.enter r).promoteQueue = p.promoteQueue ++ [r] ∧ (p.enter r).mainQueue = p.mainQueue ∧
        p.promoteQueue.length < 2 ∧ r.demand = true ∧ r.urgent = true ∨
      (p.enter r).mainQueue = p.mainQueue ++ [r] ∧ (p.enter r).promoteQueue = p.promoteQueue) ∧
      (p.enter r).engine = p.engine ∧ (p.enter r).layout = p.layout ∧
      (p.enter r).rereads = p.rereads ∧ (p.enter r).damaged = p.damaged ∧
      (p.enter r).absent = p.absent := by
  unfold PlanStore.enter
  split
  · next h =>
    simp only [Bool.and_eq_true, decide_eq_true_eq] at h
    exact ⟨.inl ⟨rfl, rfl, h.1.2, h.1.1.1, h.1.1.2⟩, rfl, rfl, rfl, rfl, rfl⟩
  · exact ⟨.inr ⟨rfl, rfl⟩, rfl, rfl, rfl, rfl, rfl⟩

/-- The promote queue holds at most two requests (R126). -/
theorem enter_promote_le (p : PlanStore) (r : ReadRequest) (h : p.promoteQueue.length ≤ 2) :
    (p.enter r).promoteQueue.length ≤ 2 := by
  rcases (enter_spec p r).1 with ⟨e, _, k, _, _⟩ | ⟨_, e⟩
  · rw [e, List.length_append, List.length_cons, List.length_nil]
    omega
  · rw [e]
    exact h

/-- What a request offered to the controller keeps (R126, R127, R134). -/
theorem request_spec (p : PlanStore) (st : Straps) (r : ReadRequest) (h : p.EngineOk)
    (k : p.promoteQueue.length ≤ 2) :
    (p.request st r).1.EngineOk ∧ (p.request st r).1.promoteQueue.length ≤ 2 ∧
      (p.request st r).1.layout = p.layout ∧ (p.request st r).1.rereads = p.rereads ∧
      (p.request st r).1.damaged = p.damaged := by
  have entered (q : ReadRequest) : ((p.enter q).advance st).1.EngineOk ∧
      ((p.enter q).advance st).1.promoteQueue.length ≤ 2 ∧
      ((p.enter q).advance st).1.layout = p.layout ∧
      ((p.enter q).advance st).1.rereads = p.rereads ∧
      ((p.enter q).advance st).1.damaged = p.damaged := by
    obtain ⟨a, b, c, d, e⟩ := advance_spec (p.enter q) st
    obtain ⟨_, _, lay, rer, dam, _⟩ := enter_spec p q
    exact ⟨a, b.trans (enter_promote_le p q k), c.trans lay, d.trans rer, e.trans dam⟩
  unfold PlanStore.request
  split
  · exact ⟨h, k, rfl, rfl, rfl⟩
  · split
    · exact ⟨h, k, rfl, rfl, rfl⟩
    · exact entered _
  · exact entered _

/-- A cancel leaves nothing of the channel in the queues and moves no count (R130). -/
theorem cancel_spec (p : PlanStore) (ch : Fin 4) :
    (∀ r ∈ (p.cancel ch).mainQueue, r.who ≠ .channel ch) ∧
      (∀ r ∈ (p.cancel ch).promoteQueue, r.who ≠ .channel ch) ∧
      (p.cancel ch).promoteQueue.length ≤ p.promoteQueue.length ∧
      (p.cancel ch).layout = p.layout ∧ (p.cancel ch).rereads = p.rereads ∧
      (p.cancel ch).damaged = p.damaged ∧ (p.cancel ch).absent = p.absent ∧
      (p.EngineOk → (p.cancel ch).EngineOk) := by
  refine ⟨fun r m => ?_, fun r m => ?_, List.length_filter_le _ _, rfl, rfl, rfl, rfl, fun h k => ?_⟩
  · simpa using (List.mem_filter.mp m).2
  · simpa using (List.mem_filter.mp m).2
  · unfold PlanStore.cancel at k ⊢
    dsimp only at k ⊢
    split at k
    · next e =>
      obtain ⟨a, b⟩ := h e
      exact ⟨by rw [a]; rfl, by rw [b]; rfl⟩
    · exact nomatch k
    · exact nomatch k

/-- The end of a transfer never leaves the engine IDLE over work (R127, R128). -/
theorem transferEnd_engineOk (p : PlanStore) (st : Straps) (b : BlockBytes) (h : p.EngineOk) :
    (p.transferEnd st b).1.EngineOk := by
  unfold PlanStore.transferEnd
  dsimp only
  split
  · exact h
  · split
    · exact (advance_spec _ st).1
    · split
      · exact (advance_spec _ st).1
      · exact fun k => nomatch k
  · split <;> exact (advance_spec _ st).1

/-- The end of a transfer keeps the promote queue within its two places (R126). -/
theorem transferEnd_promote_le (p : PlanStore) (st : Straps) (b : BlockBytes)
    (h : p.promoteQueue.length ≤ 2) : (p.transferEnd st b).1.promoteQueue.length ≤ 2 := by
  have next (q : PlanStore) (e : q.promoteQueue.length ≤ 2) :
      (q.advance st).1.promoteQueue.length ≤ 2 := (advance_spec q st).2.1.trans e
  unfold PlanStore.transferEnd
  dsimp only
  split
  · exact h
  · split
    · exact next _ h
    · split
      · exact next _ h
      · exact h
  · split <;> exact next _ h

end Sys2Proof.Machine
end

