-- ==== Sys2Proof/Laws/Reads.lean ====
section
/-!
SUPPORT. The reads that the Plan Store Controller owes its requesters, through every one of its operations: a
read is neither lost nor made (R126 to R130).
-/
namespace Sys2Proof.Machine

/-- The requests of a requester that the reports answer. -/
def answersTo (who : Requester) (l : List StoreReport) : List ReadRequest :=
  l.filterMap fun
    | .answer r _ _ => if r.who = who then some r else none
    | .orphanEnd _ => none

/-- The number of a channel's orphaned reads that the reports end. -/
def endsOf (ch : Fin 4) (l : List StoreReport) : Nat :=
  l.countP fun
    | .answer .. => false
    | .orphanEnd d => d == ch

theorem answersTo_nil (who : Requester) : answersTo who [] = [] := rfl

theorem endsOf_nil (ch : Fin 4) : endsOf ch [] = 0 := rfl

theorem answersTo_append (who : Requester) (l m : List StoreReport) :
    answersTo who (l ++ m) = answersTo who l ++ answersTo who m := List.filterMap_append

theorem endsOf_append (ch : Fin 4) (l m : List StoreReport) :
    endsOf ch (l ++ m) = endsOf ch l + endsOf ch m := List.countP_append

/-- A request, in the list of those of a requester. -/
def ofWho (who : Requester) (r : ReadRequest) : List ReadRequest := if r.who = who then [r] else []

theorem filter_singleton_who (who : Requester) (r : ReadRequest) :
    [r].filter (fun q => q.who == who) = ofWho who r := by
  unfold ofWho
  by_cases h : r.who = who <;> simp [h]

theorem who_cases (r : ReadRequest) (who : Requester) :
    r.who = who ∧ (r.who == who) = true ∨ r.who ≠ who ∧ (r.who == who) = false := by
  by_cases h : r.who = who <;> simp [h]

theorem answersTo_answer (who : Requester) (r : ReadRequest) (c : ReadCode) (d : List Byte)
    (l : List StoreReport) : answersTo who (.answer r c d :: l) = ofWho who r ++ answersTo who l := by
  unfold answersTo ofWho
  by_cases h : r.who = who <;> simp [h]

theorem answersTo_orphanEnd (who : Requester) (ch : Fin 4) (l : List StoreReport) :
    answersTo who (.orphanEnd ch :: l) = answersTo who l := rfl

theorem endsOf_answer (ch : Fin 4) (r : ReadRequest) (c : ReadCode) (d : List Byte)
    (l : List StoreReport) : endsOf ch (.answer r c d :: l) = endsOf ch l := by
  simp [endsOf]

theorem endsOf_orphanEnd (ch d : Fin 4) (l : List StoreReport) :
    endsOf ch (.orphanEnd d :: l) = (if d = ch then 1 else 0) + endsOf ch l := by
  unfold endsOf
  rw [List.countP_cons, Nat.add_comm]
  simp

/-! ## The engine -/

theorem readsOf_idle {p : PlanStore} (h : p.engine = .idle) (who : Requester) :
    p.readsOf who = p.promoteQueue.filter (fun r => r.who == who) ++
      p.mainQueue.filter (fun r => r.who == who) := by
  unfold PlanStore.readsOf
  rw [h]
  rfl

theorem orphan_idle {p : PlanStore} (h : p.engine = .idle) : p.orphan = none := by
  unfold PlanStore.orphan
  rw [h]

theorem orphansOf_eq {p q : PlanStore} (h : q.orphan = p.orphan) (ch : Fin 4) :
    q.orphansOf ch = p.orphansOf ch := by
  unfold PlanStore.orphansOf
  rw [h]

/-- The read in flight stands before those that wait. -/
theorem readsOf_first {p : PlanStore} {r : ReadRequest} (h : p.engine = .first r false) (who : Requester) :
    p.readsOf who = ofWho who r ++ PlanStore.readsOf { p with engine := .idle } who := by
  unfold PlanStore.readsOf
  rw [h]
  dsimp only
  rw [filter_singleton_who, List.append_assoc, List.append_assoc]
  rfl

theorem readsOf_second {p : PlanStore} {r : ReadRequest} (h : p.engine = .second r false)
    (who : Requester) :
    p.readsOf who = ofWho who r ++ PlanStore.readsOf { p with engine := .idle } who := by
  unfold PlanStore.readsOf
  rw [h]
  dsimp only
  rw [filter_singleton_who, List.append_assoc, List.append_assoc]
  rfl

/-- An orphaned read is none of those owed. -/
theorem readsOf_orphaned {p : PlanStore} {r : ReadRequest}
    (h : p.engine = .first r true ∨ p.engine = .second r true) (who : Requester) :
    p.readsOf who = PlanStore.readsOf { p with engine := .idle } who := by
  unfold PlanStore.readsOf
  rcases h with h | h <;> rw [h]

/-- The request taken stood first. -/
theorem pop_reads {p q : PlanStore} {r : ReadRequest} (idle : p.engine = .idle) (h : p.pop = some (r, q))
    (who : Requester) : p.readsOf who = ofWho who r ++ q.readsOf who := by
  have e := (pop_some h).2.2.1
  rw [readsOf_idle idle, readsOf_idle (e.trans idle)]
  unfold PlanStore.pop at h
  split at h
  · next f =>
    simp only [Option.some.injEq, Prod.mk.injEq] at h
    obtain ⟨rfl, rfl⟩ := h
    rw [f, ← List.singleton_append, List.filter_append, filter_singleton_who, List.append_assoc]
  · next f g =>
    simp only [Option.some.injEq, Prod.mk.injEq] at h
    obtain ⟨rfl, rfl⟩ := h
    rw [f, g, ← List.singleton_append, List.filter_append, filter_singleton_who]
    rfl
  · exact absurd h (by simp)

/-- An operation of the controller keeps its word: every read owed before is owed after or answered by the
reports, and no orphaned read is made or lost. -/
structure Owes (p : PlanStore) (out : PlanStore × List StoreReport) : Prop where
  reads : ∀ who, p.readsOf who = answersTo who out.2 ++ out.1.readsOf who
  orphan : out.1.orphan = p.orphan
  ends : ∀ ch, endsOf ch out.2 = 0

theorem Owes.refl (p : PlanStore) : Owes p (p, []) := ⟨fun _ => rfl, rfl, fun _ => rfl⟩

theorem takeNext_owes (st : Straps) (n : Nat) (p : PlanStore) (idle : p.engine = .idle) :
    Owes p (takeNext st n p) := by
  induction n generalizing p with
  | zero => exact .refl p
  | succ n ih =>
    unfold takeNext
    split
    · exact .refl p
    · next r q e =>
      have eng : q.engine = .idle := (pop_some e).2.2.1.trans idle
      split
      · refine ⟨fun who => ?_, (orphan_idle idle).symm, fun _ => rfl⟩
        rw [pop_reads idle e who, readsOf_first (p := { q with engine := .first r false }) rfl who]
        dsimp only [answersTo_nil, List.nil_append]
        congr 1
        rw [readsOf_idle eng, readsOf_idle rfl]
      · obtain ⟨a, b, c⟩ := ih { q with absent := sat16 q.absent } eng
        refine ⟨fun who => ?_, b.trans ((orphan_idle (p := { q with absent := sat16 q.absent }) eng).trans
          (orphan_idle idle).symm), fun ch => (endsOf_answer _ _ _ _ _).trans (c ch)⟩
        dsimp only
        rw [pop_reads idle e who, answersTo_answer, List.append_assoc, ← a who]
        congr 1

theorem advance_owes (p : PlanStore) (st : Straps) : Owes p (p.advance st) := by
  unfold PlanStore.advance
  split
  · next h =>
    refine takeNext_owes st _ p ?_
    cases e : p.engine with
    | idle => rfl
    | first r o => rw [e] at h; exact absurd h (by simp [ReadEngine.isIdle])
    | second r o => rw [e] at h; exact absurd h (by simp [ReadEngine.isIdle])
  · exact .refl p

/-! ## Requests (R126, R134) -/

/-- A request entered is owed from then on. -/
theorem enter_reads (p : PlanStore) (r : ReadRequest) (who : Requester) :
    ((p.enter r).readsOf who).Perm (p.readsOf who ++ ofWho who r) := by
  unfold PlanStore.readsOf
  obtain ⟨queues, eng, _⟩ := enter_spec p r
  rw [eng]
  rcases queues with ⟨a, b, _⟩ | ⟨b, a⟩
  · rw [a, b, List.filter_append, filter_singleton_who]
    simp only [List.append_assoc]
    exact .append_left _ (.append_left _ List.perm_append_comm)
  · rw [a, b, List.filter_append, filter_singleton_who, ← List.append_assoc]

theorem enter_orphan (p : PlanStore) (r : ReadRequest) : (p.enter r).orphan = p.orphan := by
  unfold PlanStore.orphan
  rw [(enter_spec p r).2.1]

/-- A request offered is owed or answered at once, under its own requester and kind, and nothing else
changes hands. -/
theorem request_owes (p : PlanStore) (st : Straps) (r : ReadRequest) :
    (∀ who, ((answersTo who (p.request st r).2 ++ (p.request st r).1.readsOf who).map ReadRequest.what).Perm
        ((p.readsOf who ++ ofWho who r).map ReadRequest.what)) ∧
      (p.request st r).1.orphan = p.orphan ∧ ∀ ch, endsOf ch (p.request st r).2 = 0 := by
  have entered (q : ReadRequest) (w : q.who = r.who) (k : q.what = r.what) :
      (∀ who, ((answersTo who ((p.enter q).advance st).2 ++ ((p.enter q).advance st).1.readsOf who).map
        ReadRequest.what).Perm ((p.readsOf who ++ ofWho who r).map ReadRequest.what)) ∧
      ((p.enter q).advance st).1.orphan = p.orphan ∧ ∀ ch, endsOf ch ((p.enter q).advance st).2 = 0 := by
    obtain ⟨a, b, c⟩ := advance_owes (p.enter q) st
    refine ⟨fun who => ?_, b.trans (enter_orphan p q), c⟩
    rw [← a who]
    refine ((enter_reads p q who).map _).trans (.of_eq ?_)
    rw [List.map_append, List.map_append]
    unfold ofWho
    rw [w]
    split <;> simp [k]
  have absent : (∀ who, ((answersTo who [StoreReport.answer r .absent []] ++ p.readsOf who).map
      ReadRequest.what).Perm ((p.readsOf who ++ ofWho who r).map ReadRequest.what)) ∧
      p.orphan = p.orphan ∧ ∀ ch, endsOf ch [StoreReport.answer r .absent []] = 0 := by
    refine ⟨fun who => ?_, rfl, fun _ => rfl⟩
    rw [answersTo_answer, answersTo_nil, List.append_nil]
    exact List.perm_append_comm.map _
  unfold PlanStore.request
  split
  · exact absent
  · split
    · exact absent
    · exact entered _ rfl rfl
  · exact entered _ rfl rfl

/-! ## Cancels (R130) -/

/-- A cancel takes every read of the channel: those that wait are removed, and the one in flight is
orphaned. -/
theorem cancel_own (p : PlanStore) (ch : Fin 4) :
    (p.cancel ch).readsOf (.channel ch) = [] ∧
      (p.readsOf (.channel ch)).length + p.orphansOf ch =
        p.queuedFor ch + (p.cancel ch).orphansOf ch := by
  have gone (l : List ReadRequest) : (l.filter (fun r => !(r.who == .channel ch))).filter
      (fun r => r.who == .channel ch) = [] := by
    rw [List.filter_eq_nil_iff]
    intro r m
    have := (List.mem_filter.mp m).2
    simpa using this
  unfold PlanStore.cancel PlanStore.readsOf PlanStore.orphansOf PlanStore.orphan PlanStore.queuedFor
  dsimp only
  rw [gone, gone]
  cases p.engine with
  | idle => exact ⟨rfl, by simp; omega⟩
  | first r o =>
    rcases who_cases r (.channel ch) with ⟨h, k⟩ | ⟨h, k⟩ <;> cases o <;> simp [h, k] <;> omega
  | second r o =>
    rcases who_cases r (.channel ch) with ⟨h, k⟩ | ⟨h, k⟩ <;> cases o <;> simp [h, k] <;> omega

/-- A cancel leaves every other requester's reads alone. -/
theorem cancel_other (p : PlanStore) (ch : Fin 4) (who : Requester) (h : who ≠ .channel ch) :
    (p.cancel ch).readsOf who = p.readsOf who := by
  have kept (l : List ReadRequest) : (l.filter (fun r => !(r.who == .channel ch))).filter
      (fun r => r.who == who) = l.filter (fun r => r.who == who) := by
    rw [List.filter_filter]
    refine List.filter_congr fun r _ => ?_
    by_cases k : r.who = who
    · rw [k]; simp [h]
    · simp [k]
  unfold PlanStore.cancel PlanStore.readsOf
  dsimp only
  rw [kept, kept]
  congr 2
  cases p.engine with
  | idle => rfl
  | first r o =>
    rcases who_cases r (.channel ch) with ⟨k, e⟩ | ⟨k, e⟩ <;> cases o <;> simp [k, e, h.symm]
  | second r o =>
    rcases who_cases r (.channel ch) with ⟨k, e⟩ | ⟨k, e⟩ <;> cases o <;> simp [k, e, h.symm]

theorem cancel_orphan_other (p : PlanStore) (ch d : Fin 4) (h : d ≠ ch) :
    (p.cancel ch).orphansOf d = p.orphansOf d := by
  unfold PlanStore.cancel PlanStore.orphansOf PlanStore.orphan
  dsimp only
  cases p.engine with
  | idle => rfl
  | first r o =>
    rcases who_cases r (.channel ch) with ⟨k, e⟩ | ⟨k, e⟩ <;> cases o <;> simp [k, e, h.symm]
  | second r o =>
    rcases who_cases r (.channel ch) with ⟨k, e⟩ | ⟨k, e⟩ <;> cases o <;> simp [k, e, h.symm]

/-- What a cancel makes an orphan is a read of its channel. -/
theorem cancel_orphan (p : PlanStore) (ch : Fin 4) (r : ReadRequest) (h : (p.cancel ch).orphan = some r) :
    p.orphan = some r ∨ r.who = .channel ch := by
  unfold PlanStore.cancel PlanStore.orphan at *
  dsimp only at *
  cases e : p.engine with
  | idle => rw [e] at h; exact nomatch h
  | first q o =>
    rw [e] at h
    rcases who_cases q (.channel ch) with ⟨k, _⟩ | ⟨k, _⟩ <;> cases o <;> simp [k] at h ⊢ <;>
      simp [← h, k]
  | second q o =>
    rw [e] at h
    rcases who_cases q (.channel ch) with ⟨k, _⟩ | ⟨k, _⟩ <;> cases o <;> simp [k] at h ⊢ <;>
      simp [← h, k]

/-! ## The end of a transfer (R128, R130) -/

/-- The end of a transfer answers the read in flight, makes it once more, or ends it as an orphan; every other
read is owed or answered, and none is made. -/
theorem transferEnd_owes (p : PlanStore) (st : Straps) (b : BlockBytes)
    (loader : ∀ r, p.orphan = some r → r.who ≠ .loader) :
    (∀ who, p.readsOf who = answersTo who (p.transferEnd st b).2 ++ (p.transferEnd st b).1.readsOf who) ∧
      (∀ ch, endsOf ch (p.transferEnd st b).2 + (p.transferEnd st b).1.orphansOf ch = p.orphansOf ch) ∧
      (∀ r, (p.transferEnd st b).1.orphan = some r → p.orphan = some r) := by
  have next (q : PlanStore) : Owes { q with engine := .idle }
      (PlanStore.advance { q with engine := .idle } st) := advance_owes _ _
  have none (q : PlanStore) : (PlanStore.advance { q with engine := .idle } st).1.orphan = none :=
    (next q).orphan.trans (orphan_idle rfl)
  have zero (q : PlanStore) (ch : Fin 4) :
      (PlanStore.advance { q with engine := .idle } st).1.orphansOf ch = 0 := by
    unfold PlanStore.orphansOf
    rw [none q]
    rfl
  -- a read in flight that is owed, and completes
  have answers (q : PlanStore) (r : ReadRequest) (code : ReadCode) (c : List Byte)
      (e : p.engine = .first r false ∨ p.engine = .second r false)
      (same : ∀ who, PlanStore.readsOf { q with engine := .idle } who =
        PlanStore.readsOf { p with engine := .idle } who) :
      (∀ who, p.readsOf who =
        answersTo who (endReport r false code c :: (PlanStore.advance { q with engine := .idle } st).2) ++
          (PlanStore.advance { q with engine := .idle } st).1.readsOf who) ∧
      (∀ ch, endsOf ch (endReport r false code c :: (PlanStore.advance { q with engine := .idle } st).2) +
        (PlanStore.advance { q with engine := .idle } st).1.orphansOf ch = p.orphansOf ch) ∧
      (∀ x, (PlanStore.advance { q with engine := .idle } st).1.orphan = some x → p.orphan = some x) := by
    have report : endReport r false code c = .answer r code (answerData r c) := rfl
    have orphan : p.orphan = Option.none := by
      unfold PlanStore.orphan
      rcases e with e | e <;> rw [e]
    refine ⟨fun who => ?_, fun ch => ?_, fun x h => ?_⟩
    · rw [report, answersTo_answer, List.append_assoc, ← (next q).reads who, same who]
      rcases e with e | e
      · exact readsOf_first e who
      · exact readsOf_second e who
    · rw [report, endsOf_answer, (next q).ends ch, zero q ch]
      unfold PlanStore.orphansOf
      rw [orphan]
      rfl
    · rw [none q] at h
      exact nomatch h
  -- an orphaned read in flight, which ends
  have ends (q : PlanStore) (r : ReadRequest) (code : ReadCode) (c : List Byte)
      (e : p.engine = .first r true ∨ p.engine = .second r true)
      (same : ∀ who, PlanStore.readsOf { q with engine := .idle } who =
        PlanStore.readsOf { p with engine := .idle } who) :
      (∀ who, p.readsOf who =
        answersTo who (endReport r true code c :: (PlanStore.advance { q with engine := .idle } st).2) ++
          (PlanStore.advance { q with engine := .idle } st).1.readsOf who) ∧
      (∀ ch, endsOf ch (endReport r true code c :: (PlanStore.advance { q with engine := .idle } st).2) +
        (PlanStore.advance { q with engine := .idle } st).1.orphansOf ch = p.orphansOf ch) ∧
      (∀ x, (PlanStore.advance { q with engine := .idle } st).1.orphan = some x → p.orphan = some x) := by
    have orphan : p.orphan = some r := by
      unfold PlanStore.orphan
      rcases e with e | e <;> rw [e]
    cases w : r.who with
    | loader => exact absurd w (loader r orphan)
    | channel d =>
      have report : endReport r true code c = .orphanEnd d := by
        unfold endReport
        rw [w]
      refine ⟨fun who => ?_, fun ch => ?_, fun x h => ?_⟩
      · rw [report, answersTo_orphanEnd, ← (next q).reads who, same who]
        exact readsOf_orphaned e who
      · rw [report, endsOf_orphanEnd, (next q).ends ch, zero q ch]
        unfold PlanStore.orphansOf
        rw [orphan]
        simp [w]
      · rw [none q] at h
        exact nomatch h
  unfold PlanStore.transferEnd
  dsimp only
  split
  · exact ⟨fun _ => rfl, fun _ => Nat.zero_add _, fun _ h => h⟩
  · next r o e =>
    cases o with
    | false =>
      split
      · exact answers p r _ _ (.inl e) fun _ => rfl
      · rw [if_neg Bool.false_ne_true]
        refine ⟨fun who => ?_, fun ch => ?_, fun x h => nomatch h⟩
        · rw [readsOf_first e who, readsOf_second (p := { p with
            engine := .second r false, rereads := sat16 p.rereads }) rfl who]
          rfl
        · unfold PlanStore.orphansOf PlanStore.orphan
          rw [e]
          rfl
    | true =>
      split
      · exact ends p r _ _ (.inl e) fun _ => rfl
      · exact ends p r _ _ (.inl e) fun _ => rfl
  · next r o e =>
    cases o with
    | false =>
      split
      · exact answers p r _ _ (.inr e) fun _ => rfl
      · exact answers { p with damaged := sat16 p.damaged } r _ _ (.inr e) fun _ => rfl
    | true =>
      split
      · exact ends p r _ _ (.inr e) fun _ => rfl
      · exact ends { p with damaged := sat16 p.damaged } r _ _ (.inr e) fun _ => rfl

end Sys2Proof.Machine
end

