-- ==== Sys2Proof/Laws/Budget.lean ====
section
/-!
SUPPORT. The read budget of the bundles through the operations of the Bundle Engine and the loader, and the
delivery of the controller's reports, which always comes to an end (R125, R129, R137 to R150).
-/
namespace Sys2Proof.Machine

/-! ## One bundle -/

/-- Only the kinds of the reads matter, and not their order. -/
theorem Bundle.ReadsOk.perm {b : Bundle} {l m : List ReadRequest} {n : Nat} (h : b.ReadsOk l n)
    (p : (l.map ReadRequest.what).Perm (m.map ReadRequest.what)) : b.ReadsOk m n := by
  have len : m.length = l.length := by
    have := p.length_eq
    rw [List.length_map, List.length_map] at this
    exact this.symm
  obtain ⟨out, budget, msg, rest⟩ := h
  refine ⟨by rw [len]; exact out, budget, msg, ?_⟩
  revert rest
  cases b.state with
  | lookup =>
    rintro ⟨⟨r, k, rfl, hk⟩, rest⟩
    obtain ⟨q, rfl⟩ := List.length_eq_one_iff.mp len
    refine ⟨⟨q, k, rfl, ?_⟩, rest⟩
    have := List.perm_singleton.mp p.symm
    simp only [List.map_cons, List.map_nil, List.cons.injEq, and_true] at this
    exact this.trans hk
  | stream =>
    rintro ⟨all, k, hk, rest⟩
    refine ⟨fun r hr => ?_, k, hk, by rw [len]; exact rest⟩
    obtain ⟨q, hq, e⟩ := List.mem_map.mp (p.symm.subset (List.mem_map_of_mem hr))
    exact e ▸ all q hq
  | idle =>
    rintro ⟨rfl, rest⟩
    exact ⟨List.length_eq_zero_iff.mp len, rest⟩
  | overlay =>
    rintro ⟨rfl, rest⟩
    exact ⟨List.length_eq_zero_iff.mp len, rest⟩
  | closing =>
    rintro ⟨rfl, rest⟩
    exact ⟨List.length_eq_zero_iff.mp len, rest⟩

/-- The late set is no part of the reads. -/
theorem Bundle.ReadsOk.late {b : Bundle} {l : List ReadRequest} {n : Nat} (h : b.ReadsOk l n)
    (a : List Address) : Bundle.ReadsOk { b with late := a } l n := h

/-- A bundle that awaits nothing and holds no block and no message. -/
theorem Bundle.readsOk_quiet {b : Bundle} {n : Nat} (state : b.state = .idle) (msg : b.pendingMsg = none)
    (buffer : b.buffer = []) (out : b.outstanding = n) (le : n ≤ 2) : b.ReadsOk [] n := by
  unfold Bundle.ReadsOk Bundle.PendingOk
  rw [state, msg, buffer, out]
  exact ⟨(Nat.zero_add n).symm, le, trivial, rfl, rfl⟩

theorem Bundle.pendingOk_none {b : Bundle} (h : b.pendingMsg = none) : b.PendingOk := by
  unfold Bundle.PendingOk
  rw [h]
  trivial

theorem lateMark_update (s : State) (sheet : Nat) (a : Address) :
    ∃ removal m, lateMark s sheet a = .markUpdate .late removal m := by
  unfold lateMark
  split
  · split <;> exact ⟨_, _, rfl⟩
  · exact ⟨_, _, rfl⟩

theorem overlayNext_cases (b : Bundle) : (∃ n l, overlayNext b = .overlay n l) ∨
    (∃ n s m l d, overlayNext b = .bundleEnd n s m l d .absent) ∨
    ∃ n s m l d, overlayNext b = .bundleEnd n s m l d .complete := by
  unfold overlayNext endMessage
  split
  · split
    · exact .inr (.inl ⟨_, _, _, _, _, rfl⟩)
    · exact .inr (.inr ⟨_, _, _, _, _, rfl⟩)
  · exact .inl ⟨_, _, rfl⟩

/-- A bundle in OVERLAY composes an OVERLAY, or its END, which is none of an aborted bundle. -/
theorem overlayNext_pendingOk {b : Bundle} (h : b.state = .overlay) :
    (b.awaiting (overlayNext b)).PendingOk := by
  rcases overlayNext_cases b with ⟨_, _, e⟩ | ⟨_, _, _, _, _, e⟩ | ⟨_, _, _, _, _, e⟩
  all_goals
    rw [e]
    unfold Bundle.PendingOk Bundle.awaiting
    dsimp only
    rw [h]
  · trivial
  · exact fun k => nomatch k
  · exact fun k => nomatch k

/-- The next message is composed within the reads (R139, R142 to R147). -/
theorem composeNext_readsOk (s : State) {b : Bundle} {l : List ReadRequest} {n : Nat}
    (h : b.ReadsOk l n) : (composeNext s b).ReadsOk l n := by
  unfold composeNext
  split
  · exact h
  · obtain ⟨out, budget, msg, rest⟩ := h
    have stays : b.ReadsOk l n := ⟨out, budget, msg, rest⟩
    cases st : b.state with
    | idle => exact stays
    | lookup => exact stays
    | closing =>
      rw [st] at rest
      dsimp only
      split
      · next a _ _ =>
        obtain ⟨removal, m, e⟩ := lateMark_update s (b.sheet.getD 0) a
        rw [e]
        refine ⟨out, budget, ?_, ?_⟩
        · unfold Bundle.PendingOk Bundle.awaiting
          dsimp only
          rw [st]
          trivial
        · unfold Bundle.awaiting
          dsimp only
          rw [st]
          exact rest
      · exact stays
    | overlay =>
      rw [st] at rest
      refine ⟨out, budget, overlayNext_pendingOk st, ?_⟩
      unfold Bundle.awaiting
      dsimp only
      rw [st]
      exact rest
    | stream =>
      rw [st] at rest
      obtain ⟨all, k, hk, cursor, count⟩ := rest
      dsimp only
      split
      · refine ⟨out, budget, ?_, ?_⟩
        · unfold Bundle.PendingOk Bundle.awaiting headMessage
          dsimp only
          rw [st]
        · unfold Bundle.awaiting
          dsimp only
          rw [st]
          exact ⟨all, k, hk, cursor, count⟩
      · exact stays
      · next placed =>
        split
        · next done =>
          rw [hk] at done
          have done : b.blockCursor = k.blockCount := done
          have none : l = [] := List.length_eq_zero_iff.mp (by omega)
          have empty : b.buffer = [] := List.length_eq_zero_iff.mp (by omega)
          exact ⟨out, budget, overlayNext_pendingOk rfl, none, empty⟩
        · split
          · next x y e =>
            split
            · refine ⟨out, budget, ?_, ?_⟩
              · unfold Bundle.PendingOk Bundle.awaiting
                dsimp only
                rw [st]
                exact ⟨placed, by rw [e]; exact List.cons_ne_nil _ _⟩
              · unfold Bundle.awaiting
                dsimp only
                rw [st]
                exact ⟨all, k, hk, cursor, count⟩
            · exact stays
          · exact stays

/-- A block read is asked for where R141 allows it. -/
theorem Bundle.ReadsOk.issue {b : Bundle} {l : List ReadRequest} {n : Nat} (h : b.ReadsOk l n)
    (may : b.mayRead = true) (r : ReadRequest) (block : r.what = .block) :
    Bundle.ReadsOk { b with readCursor := b.readCursor + 1, outstanding := b.outstanding + 1 } (l ++ [r]) n := by
  obtain ⟨out, budget, msg, rest⟩ := h
  unfold Bundle.mayRead at may
  split at may
  · next k hk =>
    simp only [Bool.and_eq_true, beq_iff_eq, decide_eq_true_eq] at may
    obtain ⟨⟨⟨st, _⟩, more⟩, room⟩ := may
    rw [st] at rest
    obtain ⟨all, q, hq, cursor, count⟩ := rest
    rw [hk] at hq
    cases hq
    refine ⟨?_, ?_, msg, ?_⟩
    · dsimp only
      rw [List.length_append, List.length_singleton]
      omega
    · dsimp only
      omega
    · dsimp only
      rw [st]
      refine ⟨fun x hx => ?_, k, hk, ?_, by omega⟩
      · rcases List.mem_append.mp hx with hx | hx
        · exact all x hx
        · rw [List.mem_singleton.mp hx]
          exact block
      · rw [List.length_append, List.length_singleton]
        omega
  · exact absurd may Bool.false_ne_true

/-- An orphaned read has ended (R130). -/
theorem Bundle.ReadsOk.ended {b : Bundle} {l : List ReadRequest} {n : Nat} (h : b.ReadsOk l (n + 1)) :
    Bundle.ReadsOk { b with outstanding := b.outstanding - 1 } l n := by
  obtain ⟨out, budget, msg, rest⟩ := h
  exact ⟨by dsimp only; omega, by dsimp only; omega, msg, rest⟩

/-- The handle has come (R139). -/
theorem Bundle.ReadsOk.takeHandle {b : Bundle} {r : ReadRequest} {l : List ReadRequest} {n : Nat}
    (h : b.ReadsOk (r :: l) n) (st : b.state = .lookup) (k : Handle) :
    (Machine.takeHandle b k).ReadsOk l n := by
  obtain ⟨out, budget, msg, rest⟩ := h
  rw [st] at rest
  obtain ⟨⟨q, x, e, _⟩, buffer, head, reads, blocks⟩ := rest
  have none : l = [] := (List.cons.inj e).2
  subst none
  unfold Machine.takeHandle
  refine ⟨?_, ?_, ?_, ?_⟩
  · dsimp only
    rw [out]
    simp
  · dsimp only
    omega
  · unfold Bundle.PendingOk at *
    dsimp only at *
    rw [st] at msg
    split at msg
    · split <;> simp_all
    · next e _ => rw [e]; exact head
    all_goals simp_all
  · exact ⟨fun _ hr => absurd hr List.not_mem_nil, k, rfl, by dsimp only; rw [reads, blocks, buffer]; rfl,
      by dsimp only; omega⟩

/-- A block has come (R142). -/
theorem Bundle.ReadsOk.takeBlock {b : Bundle} {r : ReadRequest} {l : List ReadRequest} {n : Nat}
    (h : b.ReadsOk (r :: l) n) (st : b.state = .stream) (code : ReadCode) (data : List Byte) :
    (Machine.takeBlock b code data).ReadsOk l n := by
  obtain ⟨out, budget, msg, rest⟩ := h
  rw [st] at rest
  obtain ⟨all, k, hk, cursor, count⟩ := rest
  rw [List.length_cons] at out cursor
  unfold Machine.takeBlock
  refine ⟨by dsimp only; omega, ?_, ?_, ?_⟩
  · dsimp only
    rw [List.length_append, List.length_singleton]
    omega
  · unfold Bundle.PendingOk at *
    dsimp only at *
    rw [st] at msg ⊢
    split at msg <;> simp_all
  · dsimp only
    rw [st]
    refine ⟨fun x hx => all x (List.mem_cons_of_mem _ hx), k, hk, ?_, count⟩
    rw [List.length_append, List.length_singleton]
    omega

/-- A bundle begins where its channel owes no read that is not orphaned (R138). -/
theorem Bundle.readsOk_begun {b : Bundle} {n : Nat} (out : b.outstanding = n) (le : n ≤ 1)
    (msg : b.pendingMsg = none ∨ ∃ s m x l d, b.pendingMsg = some (.bundleEnd s m x l d .aborted))
    (sheet : Nat) (urgent : Bool) (r : ReadRequest) (k : Nat) (handle : r.what = .handle k) :
    (b.begun sheet urgent).ReadsOk [r] n := by
  unfold Bundle.begun
  refine ⟨?_, ?_, ?_, ?_⟩
  · dsimp only
    rw [List.length_singleton]
    omega
  · dsimp only
    rw [List.length_nil]
    omega
  · unfold Bundle.PendingOk
    dsimp only
    rcases msg with e | ⟨_, _, _, _, _, e⟩ <;> rw [e] <;> trivial
  · exact ⟨⟨r, k, rfl, handle⟩, rfl, rfl, rfl, rfl⟩

/-! ## The state, with reports on their way -/

/-- What ReadsOk says of a state, with the reports that are still to be delivered counted in. -/
structure Reading (l : List StoreReport) (s : State) : Prop where
  bundle : ∀ ch, (s.bundle ch).ReadsOk
    (answersTo (.channel ch) l ++ s.store.readsOf (.channel ch)) (endsOf ch l + s.store.orphansOf ch)
  loader : (answersTo .loader l ++ s.store.readsOf .loader).length ≤ if s.control.running then 0 else 1
  idle : s.control.running = false → ∀ ch, (s.bundle ch).state = .idle
  orphan : ∀ r, s.store.orphan = some r → r.who ≠ .loader

theorem readsOk_iff (s : State) : ReadsOk s ↔ (s.control.resetHeld = false → Reading [] s) := by
  have same (ch : Fin 4) : endsOf ch [] + s.store.orphansOf ch = s.store.orphansOf ch := Nat.zero_add _
  constructor
  · intro h held
    obtain ⟨a, b, c, d⟩ := h held
    exact ⟨fun ch => by rw [same]; exact a ch, b, c, d⟩
  · intro h held
    obtain ⟨a, b, c, d⟩ := h held
    exact ⟨fun ch => by have := a ch; rw [same] at this; exact this, b, c, d⟩

variable {l : List StoreReport} {s t : State} {ch : Fin 4}

/-- The bundles but for their late sets, the store and whether the station runs are all that matters. -/
theorem Reading.of_same (h : Reading l s) (bundle : ∀ ch, BundleTold (s.bundle ch) (t.bundle ch))
    (store : t.store = s.store) (running : t.control.running = s.control.running) : Reading l t := by
  refine ⟨fun ch => ?_, by rw [store, running]; exact h.loader, fun off ch => ?_, by
    rw [store]; exact h.orphan⟩
  · obtain ⟨a, e⟩ := (bundle ch).same
    rw [e, store]
    exact (h.bundle ch).late a
  · obtain ⟨a, e⟩ := (bundle ch).same
    rw [e]
    exact h.idle (running ▸ off) ch

theorem Reading.told (h : Reading l s) (k : Told s t) : Reading l t :=
  h.of_same k.bundle k.store (by rw [k.control])

theorem Reading.of_eq (h : Reading l s) (bundles : t.bundles = s.bundles) (store : t.store = s.store)
    (running : t.control.running = s.control.running) : Reading l t :=
  h.of_same (fun ch => by unfold State.bundle; rw [bundles]; exact .refl _) store running

theorem Reading.setBundle (h : Reading l s) (b : Bundle)
    (ok : b.ReadsOk (answersTo (.channel ch) l ++ s.store.readsOf (.channel ch))
      (endsOf ch l + s.store.orphansOf ch))
    (idle : s.control.running = false → b.state = .idle) : Reading l (s.setBundle ch b) := by
  refine ⟨fun d => ?_, h.loader, fun off d => ?_, h.orphan⟩
  · rw [bundle_setBundle]
    split
    · next e => subst e; exact ok
    · exact h.bundle d
  · rw [bundle_setBundle]
    split
    · exact idle off
    · exact h.idle off d

/-- The next message composed. -/
theorem Reading.composeBundle (h : Reading l s) (ch : Fin 4) : Reading l (composeBundle ch s) := by
  refine h.setBundle _ (composeNext_readsOk s (h.bundle ch)) fun off => ?_
  unfold composeNext
  rw [h.idle off ch]
  split
  · exact h.idle off ch
  · exact h.idle off ch

/-- A request offered to the controller is owed, or on its way back, from then on. -/
theorem reading_askStore {r : ReadRequest}
    (bundle : ∀ ch, (s.bundle ch).ReadsOk
      (answersTo (.channel ch) l ++ (s.store.readsOf (.channel ch) ++ ofWho (.channel ch) r))
      (endsOf ch l + s.store.orphansOf ch))
    (loader : (answersTo .loader l ++ (s.store.readsOf .loader ++ ofWho .loader r)).length ≤
      if s.control.running then 0 else 1)
    (idle : s.control.running = false → ∀ ch, (s.bundle ch).state = .idle)
    (orphan : ∀ r, s.store.orphan = some r → r.who ≠ .loader) :
    Reading (l ++ (askStore r s).2) (askStore r s).1 := by
  obtain ⟨owed, same, ends⟩ := request_owes s.store s.control.straps r
  have kinds (who : Requester) :
      ((answersTo who l ++ (s.store.readsOf who ++ ofWho who r)).map ReadRequest.what).Perm
        ((answersTo who (l ++ (askStore r s).2) ++ (askStore r s).1.store.readsOf who).map
          ReadRequest.what) := by
    rw [answersTo_append, List.append_assoc]
    have := (owed who).symm.append_left ((answersTo who l).map ReadRequest.what)
    rw [← List.map_append, ← List.map_append] at this
    exact this
  refine ⟨fun ch => ?_, ?_, idle, fun x hx => orphan x (same ▸ hx)⟩
  · have := (bundle ch).perm (kinds (.channel ch))
    rw [endsOf_append]
    unfold askStore at this ⊢
    dsimp only at this ⊢
    rw [ends ch, Nat.add_zero, withStore_store, orphansOf_eq same]
    exact this
  · have := (kinds .loader).length_eq
    rw [List.length_map, List.length_map] at this
    rw [← this]
    exact loader

/-- A channel's request. -/
theorem Reading.askChannel (h : Reading l s) {r : ReadRequest} (who : r.who = .channel ch) (b : Bundle)
    (ok : b.ReadsOk (answersTo (.channel ch) l ++ (s.store.readsOf (.channel ch) ++ [r]))
      (endsOf ch l + s.store.orphansOf ch))
    (idle : s.control.running = false → b.state = .idle) :
    Reading (l ++ (askStore r (s.setBundle ch b)).2) (askStore r (s.setBundle ch b)).1 := by
  refine reading_askStore (fun d => ?_) ?_ (fun off d => ?_) h.orphan
  · rw [bundle_setBundle, setBundle_store]
    unfold ofWho
    rw [who]
    by_cases e : d = ch
    · rw [e, if_pos rfl, if_pos rfl]
      exact ok
    · rw [if_neg e, if_neg (fun k => e (Requester.channel.inj k).symm), List.append_nil]
      exact h.bundle d
  · unfold ofWho
    rw [who, if_neg (fun k => nomatch k), List.append_nil]
    exact h.loader
  · rw [bundle_setBundle]
    split
    · exact idle off
    · exact h.idle off d

/-- One block read issued where R141 allows it. -/
theorem Reading.issueRead (h : Reading l s) (ch : Fin 4) :
    Reading (l ++ (issueRead ch s).2) (issueRead ch s).1 := by
  unfold Machine.issueRead
  dsimp only
  split
  · next may =>
    refine h.askChannel rfl _ ?_ (h.idle · ch)
    rw [← List.append_assoc]
    exact (h.bundle ch).issue may _ rfl
  · rw [List.append_nil]
    exact h

/-- The block reads that R141 allows. -/
theorem Reading.issueReads (h : Reading l s) (ch : Fin 4) :
    Reading (l ++ (issueReads ch s).2) (issueReads ch s).1 := by
  unfold Machine.issueReads
  dsimp only
  rw [← List.append_assoc]
  exact (h.issueRead ch).issueRead ch

/-- A bundle begins (R138), where its channel owes no read but an orphaned one. -/
theorem Reading.beginBundle (h : Reading l s) (running : s.control.running = true) (sheet : Nat)
    (reads : answersTo (.channel ch) l ++ s.store.readsOf (.channel ch) = [])
    (orphans : endsOf ch l + s.store.orphansOf ch ≤ 1)
    (msg : (s.bundle ch).pendingMsg = none ∨
      ∃ s' m x l' d, (s.bundle ch).pendingMsg = some (.bundleEnd s' m x l' d .aborted)) :
    Reading (l ++ (beginBundle ch sheet s).2) (beginBundle ch sheet s).1 := by
  unfold Machine.beginBundle
  refine h.askChannel rfl _ ?_ (fun off => ?_)
  · rw [← List.append_assoc, reads]
    have out := (h.bundle ch).1
    rw [reads, List.length_nil, Nat.zero_add] at out
    exact Bundle.readsOk_begun out orphans msg _ _ _ sheet rfl
  · rw [running] at off
    exact nomatch off

/-! ## Reports (R129, R139, R142, R150) -/

/-- What a report does at the Bundle Engine: the reads stay as they should be, an answer always finding the
bundle that waits for it. -/
theorem Reading.bundleHears {rep : StoreReport} (h : Reading (rep :: l) s)
    (channel : ∀ r c d, rep = .answer r c d → r.who ≠ .loader) :
    Reading (l ++ (bundleHears rep s).2) (bundleHears rep s).1 := by
  cases rep with
  | orphanEnd ch =>
    refine Reading.issueReads ?_ ch
    have loader := h.loader
    rw [answersTo_orphanEnd] at loader
    refine ⟨fun d => ?_, loader, fun off d => ?_, h.orphan⟩
    · have ok := h.bundle d
      rw [answersTo_orphanEnd, endsOf_orphanEnd] at ok
      rw [bundle_setBundle, setBundle_store]
      by_cases e : d = ch
      · subst e
        rw [if_pos rfl] at ok ⊢
        refine Bundle.ReadsOk.ended ?_
        have : endsOf d l + s.store.orphansOf d + 1 = 1 + endsOf d l + s.store.orphansOf d := by omega
        rw [this]
        exact ok
      · rw [if_neg (Ne.symm e), Nat.zero_add] at ok
        rw [if_neg e]
        exact ok
    · rw [bundle_setBundle]
      split
      · exact h.idle off ch
      · exact h.idle off d
  | answer r code data =>
    cases w : r.who with
    | loader => exact absurd w (channel r code data rfl)
    | channel ch =>
      have own := h.bundle ch
      rw [answersTo_answer, endsOf_answer] at own
      unfold ofWho at own
      rw [w, if_pos rfl, List.singleton_append, List.cons_append] at own
      have off : s.control.running = true := by
        cases e : s.control.running with
        | true => rfl
        | false =>
          have rest := own.2.2.2
          rw [h.idle e ch] at rest
          exact absurd rest.1 (List.cons_ne_nil _ _)
      have put (b : Bundle) (ok : b.ReadsOk (answersTo (.channel ch) l ++ s.store.readsOf (.channel ch))
          (endsOf ch l + s.store.orphansOf ch)) : Reading l (s.setBundle ch b) := by
        refine ⟨fun d => ?_, ?_, fun e => (nomatch off.symm.trans e), h.orphan⟩
        · rw [bundle_setBundle]
          by_cases e : d = ch
          · subst e
            rw [if_pos rfl]
            exact ok
          · have := h.bundle d
            rw [answersTo_answer, endsOf_answer] at this
            unfold ofWho at this
            rw [w, if_neg (fun k => e (Requester.channel.inj k).symm), List.nil_append] at this
            rw [if_neg e]
            exact this
        · have := h.loader
          rw [answersTo_answer] at this
          unfold ofWho at this
          rw [w, if_neg (fun k => nomatch k), List.nil_append] at this
          exact this
      unfold Machine.bundleHears
      dsimp only
      rw [w]
      dsimp only
      split
      · next st =>
        exact ((put _ (own.takeHandle st _)).issueReads ch).composeBundle ch
      · next st =>
        rw [List.append_nil]
        exact (put _ (own.takeBlock st _ _)).composeBundle ch
      · next other1 other2 =>
        have rest := own.2.2.2
        revert rest
        cases st : (s.bundle ch).state with
        | lookup =>
          rintro ⟨⟨q, k, e, hk⟩, _⟩
          have : r.what = .handle k := by rw [(List.cons.inj e).1]; exact hk
          exact absurd st (other1 k this)
        | stream =>
          rintro ⟨all, _⟩
          exact absurd st (other2 (all r (List.mem_cons_self ..)))
        | idle => exact fun k => absurd k.1 (List.cons_ne_nil _ _)
        | overlay => exact fun k => absurd k.1 (List.cons_ne_nil _ _)
        | closing => exact fun k => absurd k.1 (List.cons_ne_nil _ _)

/-! ## The loader (R125, R174, R175) -/

/-- The loader asks for a block where it owes none. -/
theorem Reading.askLoader (h : Reading l s) (off : s.control.running = false)
    (none : answersTo .loader l ++ s.store.readsOf .loader = []) (block : Nat) :
    Reading (l ++ (askStore (loaderRequest block) s).2) (askStore (loaderRequest block) s).1 := by
  refine reading_askStore (fun ch => ?_) ?_ h.idle h.orphan
  · have : ofWho (.channel ch) (loaderRequest block) = [] := rfl
    rw [this, List.append_nil]
    exact h.bundle ch
  · rw [← List.append_assoc, none, off]
    exact Nat.le_refl 1

theorem rewriteSupplyPlace_same (s : State) : (rewriteSupplyPlace s).bundles = s.bundles ∧
    (rewriteSupplyPlace s).store = s.store ∧ (rewriteSupplyPlace s).control = s.control := by
  unfold rewriteSupplyPlace
  split
  · exact ⟨rfl, rfl, rfl⟩
  · exact ⟨rfl, rfl, rfl⟩

/-- The entry to RUNNING touches neither bundle nor store (R176). -/
theorem enterRunning_same (s : State) : (enterRunning s).bundles = s.bundles ∧
    (enterRunning s).store = s.store ∧ (enterRunning s).control = { s.control with running := true } := by
  unfold enterRunning
  exact rewriteSupplyPlace_same _

/-- A station that owes its loader no read may run. -/
theorem Reading.enterRunning (h : Reading l s)
    (none : answersTo .loader l ++ s.store.readsOf .loader = []) : Reading l (enterRunning s) := by
  obtain ⟨bundles, store, control⟩ := enterRunning_same s
  have bundle (ch : Fin 4) : (Machine.enterRunning s).bundle ch = s.bundle ch := by
    unfold State.bundle
    rw [bundles]
  refine ⟨fun ch => ?_, ?_, fun off => ?_, ?_⟩
  · rw [bundle, store]
    exact h.bundle ch
  · rw [store, none]
    exact Nat.zero_le _
  · rw [control] at off
    exact nomatch off
  · rw [store]
    exact h.orphan

theorem Reading.setCondition (h : Reading l s) (c : Condition) : Reading l (s.setCondition c) := by
  have k := setCondition_told s c
  exact h.of_same k.bundle k.store (by rw [k.control]; rfl)

theorem setCondition_store (s : State) (c : Condition) : (s.setCondition c).store = s.store :=
  (setCondition_told s c).store

theorem Reading.runOnDefaults (h : Reading l s)
    (none : answersTo .loader l ++ s.store.readsOf .loader = []) : Reading l (runOnDefaults s) := by
  unfold Machine.runOnDefaults
  dsimp only
  refine Reading.enterRunning ((h.setCondition .config).of_eq rfl rfl rfl) ?_
  rw [withControl_store, setCondition_store]
  exact none

/-- The loader's answer is taken, and it asks for its next block or the station runs (R174, R175). -/
theorem Reading.loaderHears (h : Reading l s) (off : s.control.running = false)
    (none : answersTo .loader l ++ s.store.readsOf .loader = []) (code : ReadCode) (data : List Byte) :
    Reading (l ++ (loaderHears code data s).2) (loaderHears code data s).1 := by
  have still : Reading (l ++ []) s := by rw [List.append_nil]; exact h
  have ask (t : State) (k : Reading l t) (store : t.store.readsOf .loader = s.store.readsOf .loader)
      (running : t.control.running = s.control.running) (n : Nat) :
      Reading (l ++ (askStore (loaderRequest n) t).2) (askStore (loaderRequest n) t).1 :=
    k.askLoader (running.trans off) (by rw [store]; exact none) n
  unfold Machine.loaderHears
  rw [off, if_neg Bool.false_ne_true]
  split
  · unfold takeHeader
    split
    · refine ask _ ?_ ?_ ?_ _
      · exact ⟨h.bundle, h.loader, h.idle, h.orphan⟩
      · rfl
      · rfl
    · rw [List.append_nil]
      exact (h.setCondition .plan).runOnDefaults (by rw [setCondition_store]; exact none)
  · unfold takeConfig
    split
    · split
      · refine ask _ ?_ ?_ ?_ _
        · exact h.of_eq rfl rfl rfl
        · rfl
        · rfl
      · rw [List.append_nil]
        exact h.runOnDefaults none
    · rw [List.append_nil]
      exact h.runOnDefaults none
  · unfold takeDirectory
    dsimp only
    split
    · split
      · refine ask _ ?_ ?_ ?_ _
        · exact h.of_eq rfl rfl rfl
        · rfl
        · rfl
      · rw [List.append_nil]
        exact Reading.enterRunning (h.of_eq rfl rfl rfl) none
    · rw [List.append_nil]
      exact Reading.enterRunning (h.of_eq rfl rfl rfl) none
  · exact still
  · exact still

/-- A report goes to the party it is for, and the reads stay as they should be (R129). -/
theorem Reading.hears {rep : StoreReport} (h : Reading (rep :: l) s) :
    Reading (l ++ (hears rep s).2) (hears rep s).1 := by
  cases rep with
  | orphanEnd ch => exact h.bundleHears fun _ _ _ e => nomatch e
  | answer r code data =>
    cases w : r.who with
    | channel ch =>
      have e : Machine.hears (.answer r code data) s = Machine.bundleHears (.answer r code data) s := by
        unfold Machine.hears
        dsimp only
        rw [w]
      rw [e]
      refine h.bundleHears fun q _ _ k => ?_
      cases k
      rw [w]
      exact fun k => nomatch k
    | loader =>
      have e : Machine.hears (.answer r code data) s = Machine.loaderHears code data s := by
        unfold Machine.hears
        dsimp only
        rw [w]
      have one := h.loader
      rw [answersTo_answer] at one
      unfold ofWho at one
      rw [w, if_pos rfl, List.singleton_append, List.cons_append, List.length_cons] at one
      have off : s.control.running = false := by
        cases k : s.control.running with
        | false => rfl
        | true => rw [k] at one; exact absurd one (by simp)
      rw [off] at one
      have none : answersTo .loader l ++ s.store.readsOf .loader = [] :=
        List.length_eq_zero_iff.mp (by simpa using one)
      rw [e]
      refine Reading.loaderHears ⟨fun ch => ?_, ?_, h.idle, h.orphan⟩ off none _ _
      · have own := h.bundle ch
        rw [answersTo_answer, endsOf_answer] at own
        unfold ofWho at own
        rw [w, if_neg (fun k => nomatch k), List.nil_append] at own
        exact own
      · rw [none]
        exact Nat.zero_le _

/-! ## The delivery comes to an end -/

/-- How many more reports a channel can see: a block fills its buffer, a handle ends its LOOKUP, an orphaned
read ends once. -/
def reportsLeft (l : List StoreReport) (s : State) (ch : Fin 4) : Nat :=
  (2 - (s.bundle ch).buffer.length) + (if (s.bundle ch).state = .lookup then 1 else 0) +
    (endsOf ch l + s.store.orphansOf ch)

/-- How many more blocks a load step and those after it can ask for, with its own. -/
def LoadStep.blocks : LoadStep → Nat
  | .header => 6
  | .config => 5
  | .directory k => 4 - k
  | .straps => 0
  | .held => 0

/-- How many more blocks the loader can ask for. -/
def blocksLeft (c : StationControl) : Nat := if c.running then 0 else c.step.blocks

/-- How many more reports the loader can see. -/
def loaderLeft (l : List StoreReport) (s : State) : Nat :=
  blocksLeft s.control + (answersTo .loader l ++ s.store.readsOf .loader).length

/-- How many more reports can be delivered. -/
def deliveriesLeft (l : List StoreReport) (s : State) : Nat :=
  reportsLeft l s 0 + reportsLeft l s 1 + reportsLeft l s 2 + reportsLeft l s 3 + loaderLeft l s

theorem deliveriesLeft_le (h : Reading l s) : deliveriesLeft l s ≤ 27 := by
  have channel (ch : Fin 4) : reportsLeft l s ch ≤ 5 := by
    unfold reportsLeft
    obtain ⟨out, budget, _, _⟩ := h.bundle ch
    split <;> omega
  have loader : loaderLeft l s ≤ 7 := by
    have one := h.loader
    unfold loaderLeft blocksLeft
    split
    · next run => rw [if_pos run] at one; omega
    · next run =>
      rw [if_neg run] at one
      unfold LoadStep.blocks
      split <;> omega
  have := channel 0
  have := channel 1
  have := channel 2
  have := channel 3
  unfold deliveriesLeft
  omega

theorem deliveriesLeft_channel {m : List StoreReport} (ch : Fin 4)
    (own : reportsLeft m t ch < reportsLeft l s ch)
    (others : ∀ d, d ≠ ch → reportsLeft m t d ≤ reportsLeft l s d) (loader : loaderLeft m t ≤ loaderLeft l s) :
    deliveriesLeft m t < deliveriesLeft l s := by
  have all (d : Fin 4) : reportsLeft m t d ≤ reportsLeft l s d := by
    by_cases e : d = ch
    · rw [e]
      exact Nat.le_of_lt own
    · exact others d e
  have := all 0
  have := all 1
  have := all 2
  have := all 3
  unfold deliveriesLeft
  match ch, own with
  | 0, own => omega
  | 1, own => omega
  | 2, own => omega
  | 3, own => omega

/-- What offering a request adds to what is left: nothing but the loader's own answer. -/
theorem askStore_left (r : ReadRequest) (l : List StoreReport) (s : State) :
    (∀ ch, reportsLeft (l ++ (askStore r s).2) (askStore r s).1 ch = reportsLeft l s ch) ∧
      loaderLeft (l ++ (askStore r s).2) (askStore r s).1 = loaderLeft l s + (ofWho .loader r).length := by
  obtain ⟨owed, same, ends⟩ := request_owes s.store s.control.straps r
  refine ⟨fun ch => ?_, ?_⟩
  · unfold reportsLeft
    rw [endsOf_append]
    unfold askStore
    dsimp only
    rw [ends ch, withStore_store, orphansOf_eq same]
    rfl
  · unfold loaderLeft
    have := (owed .loader).length_eq
    simp only [List.length_map, List.length_append] at this
    rw [answersTo_append]
    unfold askStore
    dsimp only
    rw [withStore_store, withStore_control]
    simp only [List.length_append]
    omega

theorem issueRead_left (ch : Fin 4) (l : List StoreReport) (s : State) :
    (∀ d, reportsLeft (l ++ (issueRead ch s).2) (issueRead ch s).1 d = reportsLeft l s d) ∧
      loaderLeft (l ++ (issueRead ch s).2) (issueRead ch s).1 = loaderLeft l s := by
  unfold issueRead
  dsimp only
  split
  · obtain ⟨a, b⟩ := askStore_left ((s.bundle ch).nextRead ch) l
      (s.setBundle ch { s.bundle ch with
        readCursor := (s.bundle ch).readCursor + 1, outstanding := (s.bundle ch).outstanding + 1 })
    refine ⟨fun d => (a d).trans ?_, b⟩
    unfold reportsLeft
    rw [bundle_setBundle, setBundle_store]
    split
    · next e => subst e; rfl
    · rfl
  · exact ⟨fun d => by rw [List.append_nil], by rw [List.append_nil]⟩

theorem issueReads_left (ch : Fin 4) (l : List StoreReport) (s : State) :
    (∀ d, reportsLeft (l ++ (issueReads ch s).2) (issueReads ch s).1 d = reportsLeft l s d) ∧
      loaderLeft (l ++ (issueReads ch s).2) (issueReads ch s).1 = loaderLeft l s := by
  unfold issueReads
  dsimp only
  rw [← List.append_assoc]
  obtain ⟨a, b⟩ := issueRead_left ch l s
  obtain ⟨c, d⟩ := issueRead_left ch (l ++ (issueRead ch s).2) (issueRead ch s).1
  exact ⟨fun x => (c x).trans (a x), d.trans b⟩

/-- Composing a message neither fills the buffer nor begins a LOOKUP. -/
theorem composeNext_left (s : State) (b : Bundle) : (composeNext s b).buffer = b.buffer ∧
    ((composeNext s b).state = .lookup ↔ b.state = .lookup) := by
  unfold composeNext
  split
  · exact ⟨rfl, Iff.rfl⟩
  · cases st : b.state with
    | idle => simp [st]
    | lookup => simp [st]
    | overlay => simp [st, Bundle.awaiting]
    | closing =>
      dsimp only
      split <;> simp [st, Bundle.awaiting]
    | stream =>
      dsimp only
      split
      · simp [st, Bundle.awaiting]
      · simp [st]
      · split
        · simp [Bundle.awaiting, enterOverlay]
        · split
          · split <;> simp [st, Bundle.awaiting]
          · simp [st]

theorem composeBundle_left (ch : Fin 4) (l : List StoreReport) (s : State) :
    (∀ d, reportsLeft l (composeBundle ch s) d = reportsLeft l s d) ∧
      loaderLeft l (composeBundle ch s) = loaderLeft l s := by
  refine ⟨fun d => ?_, rfl⟩
  unfold reportsLeft composeBundle
  rw [bundle_setBundle, setBundle_store]
  split
  · next e =>
    subst e
    obtain ⟨a, b⟩ := composeNext_left s (s.bundle d)
    rw [a]
    by_cases k : (s.bundle d).state = .lookup
    · rw [if_pos k, if_pos (b.mpr k)]
    · rw [if_neg k, if_neg (fun x => k (b.mp x))]
  · rfl

/-- A change of one bundle leaves what the others and the loader can still see. -/
theorem setBundle_left (l : List StoreReport) (s : State) (ch : Fin 4) (b : Bundle) :
    (∀ d, d ≠ ch → reportsLeft l (s.setBundle ch b) d = reportsLeft l s d) ∧
      loaderLeft l (s.setBundle ch b) = loaderLeft l s ∧
      reportsLeft l (s.setBundle ch b) ch = (2 - b.buffer.length) + (if b.state = .lookup then 1 else 0) +
        (endsOf ch l + s.store.orphansOf ch) := by
  refine ⟨fun d e => ?_, rfl, ?_⟩
  · unfold reportsLeft
    rw [bundle_setBundle, if_neg e]
    rfl
  · unfold reportsLeft
    rw [bundle_setBundle_same]
    rfl

theorem reportsLeft_of_same (l : List StoreReport) (d : Fin 4) (bundle : BundleTold (s.bundle d) (t.bundle d))
    (orphan : t.store.orphan = s.store.orphan) : reportsLeft l t d = reportsLeft l s d := by
  obtain ⟨a, e⟩ := bundle.same
  unfold reportsLeft
  rw [e, orphansOf_eq orphan]

theorem bundleTold_of_eq (h : t.bundles = s.bundles) (d : Fin 4) : BundleTold (s.bundle d) (t.bundle d) := by
  unfold State.bundle
  rw [h]
  exact .refl _

theorem dirBlockCount_le (n : Nat) : dirBlockCount n ≤ 4 := by
  unfold dirBlockCount
  omega

theorem runOnDefaults_same (s : State) : (∀ d, BundleTold (s.bundle d) ((runOnDefaults s).bundle d)) ∧
    (runOnDefaults s).store = s.store ∧ (runOnDefaults s).control.running = true := by
  unfold runOnDefaults
  dsimp only
  obtain ⟨a, b, c⟩ := enterRunning_same ((s.setCondition .config).withControl
    { (s.setCondition .config).control with defaultsInUse := true })
  refine ⟨fun d => ?_, b.trans (setCondition_store s _), by rw [c]⟩
  exact ((setCondition_told s .config).bundle d).trans (bundleTold_of_eq a d)

/-- The loader asks for one block fewer, or is done. -/
theorem loaderHears_left (l : List StoreReport) (s : State) (off : s.control.running = false)
    (none : answersTo .loader l ++ s.store.readsOf .loader = []) (code : ReadCode) (data : List Byte) :
    (∀ d, reportsLeft (l ++ (loaderHears code data s).2) (loaderHears code data s).1 d = reportsLeft l s d) ∧
      loaderLeft (l ++ (loaderHears code data s).2) (loaderHears code data s).1 ≤ blocksLeft s.control := by
  have ask (t : State) (n : Nat) (bundles : t.bundles = s.bundles) (orphan : t.store.orphan = s.store.orphan)
      (reads : t.store.readsOf .loader = s.store.readsOf .loader)
      (running : t.control.running = s.control.running)
      (less : t.control.step.blocks + 1 ≤ s.control.step.blocks) :
      (∀ d, reportsLeft (l ++ (askStore (loaderRequest n) t).2) (askStore (loaderRequest n) t).1 d =
        reportsLeft l s d) ∧
      loaderLeft (l ++ (askStore (loaderRequest n) t).2) (askStore (loaderRequest n) t).1 ≤
        blocksLeft s.control := by
    obtain ⟨a, b⟩ := askStore_left (loaderRequest n) l t
    refine ⟨fun d => (a d).trans (reportsLeft_of_same l d (bundleTold_of_eq bundles d) orphan), ?_⟩
    rw [b]
    unfold loaderLeft blocksLeft
    rw [reads, none, running, off]
    exact less
  have done (t : State) (bundle : ∀ d, BundleTold (s.bundle d) (t.bundle d)) (store : t.store = s.store)
      (running : t.control.running = true) :
      (∀ d, reportsLeft (l ++ []) t d = reportsLeft l s d) ∧ loaderLeft (l ++ []) t ≤ blocksLeft s.control := by
    rw [List.append_nil]
    refine ⟨fun d => reportsLeft_of_same l d (bundle d) (by rw [store]), ?_⟩
    unfold loaderLeft blocksLeft
    rw [store, none, if_pos running]
    exact Nat.zero_le _
  have still : (∀ d, reportsLeft (l ++ []) s d = reportsLeft l s d) ∧
      loaderLeft (l ++ []) s ≤ blocksLeft s.control := by
    rw [List.append_nil]
    refine ⟨fun _ => rfl, ?_⟩
    unfold loaderLeft
    rw [none]
    exact Nat.le_refl _
  have runs (u : State) (h : u.bundles = s.bundles) (k : u.store = s.store) :=
    done (enterRunning u) (fun d => (bundleTold_of_eq h d).trans (bundleTold_of_eq (enterRunning_same u).1 d))
      ((enterRunning_same u).2.1.trans k) (by rw [(enterRunning_same u).2.2])
  obtain ⟨told, store, running⟩ := runOnDefaults_same s
  unfold loaderHears
  rw [off, if_neg Bool.false_ne_true]
  split
  · next step =>
    unfold takeHeader
    split
    · exact ask _ _ rfl rfl rfl rfl (by rw [step]; exact Nat.le_refl 6)
    · obtain ⟨a, b, c⟩ := runOnDefaults_same (s.setCondition .plan)
      exact done _ (fun d => ((setCondition_told s .plan).bundle d).trans (a d))
        (b.trans (setCondition_store s .plan)) c
  · next step =>
    unfold takeConfig
    split
    · split
      · exact ask _ _ rfl rfl rfl rfl (by rw [step]; exact Nat.le_refl 5)
      · exact done _ told store running
    · exact done _ told store running
  · next k step =>
    unfold takeDirectory
    dsimp only
    split
    · split
      · next more =>
        refine ask _ _ rfl rfl rfl rfl ?_
        have := dirBlockCount_le s.own
        rw [step]
        show 4 - (k + 1) + 1 ≤ 4 - k
        omega
      · exact runs _ rfl rfl
    · exact runs _ rfl rfl
  · exact still
  · exact still

/-- A delivered answer frees what was counted for it. -/
theorem reportsLeft_answer (r : ReadRequest) (c : ReadCode) (d : List Byte) (l : List StoreReport) (s : State)
    (ch : Fin 4) : reportsLeft (.answer r c d :: l) s ch = reportsLeft l s ch := by
  unfold reportsLeft
  rw [endsOf_answer]

/-- Each delivery leaves fewer. -/
theorem Reading.hears_left {rep : StoreReport} (h : Reading (rep :: l) s) :
    deliveriesLeft (l ++ (Machine.hears rep s).2) (Machine.hears rep s).1 < deliveriesLeft (rep :: l) s := by
  cases rep with
  | orphanEnd ch =>
    obtain ⟨others, loader, own⟩ := setBundle_left l s ch
      { s.bundle ch with outstanding := (s.bundle ch).outstanding - 1 }
    obtain ⟨a, b⟩ := issueReads_left ch l
      (s.setBundle ch { s.bundle ch with outstanding := (s.bundle ch).outstanding - 1 })
    refine deliveriesLeft_channel ch ?_ (fun d e => ?_) ?_
    · refine lt_of_eq_of_lt (a ch) ?_
      rw [own]
      unfold reportsLeft
      rw [endsOf_orphanEnd, if_pos rfl]
      dsimp only
      omega
    · refine Nat.le_of_eq ((a d).trans ((others d e).trans ?_))
      unfold reportsLeft
      rw [endsOf_orphanEnd, if_neg (Ne.symm e), Nat.zero_add]
    · exact Nat.le_of_eq (b.trans loader)
  | answer r code data =>
    cases w : r.who with
    | loader =>
      have e : Machine.hears (.answer r code data) s = Machine.loaderHears code data s := by
        unfold Machine.hears
        dsimp only
        rw [w]
      have one := h.loader
      rw [answersTo_answer] at one
      unfold ofWho at one
      rw [w, if_pos rfl, List.singleton_append, List.cons_append, List.length_cons] at one
      have off : s.control.running = false := by
        cases k : s.control.running with
        | false => rfl
        | true => rw [k] at one; exact absurd one (by simp)
      rw [off] at one
      have none : answersTo .loader l ++ s.store.readsOf .loader = [] :=
        List.length_eq_zero_iff.mp (by simpa using one)
      obtain ⟨a, b⟩ := loaderHears_left l s off none code data
      rw [e]
      have c : loaderLeft (.answer r code data :: l) s = blocksLeft s.control + 1 := by
        unfold loaderLeft
        rw [answersTo_answer]
        unfold ofWho
        rw [w, if_pos rfl, List.append_assoc, none]
        rfl
      unfold deliveriesLeft
      rw [a 0, a 1, a 2, a 3, c]
      simp only [reportsLeft_answer]
      omega
    | channel ch =>
      have e : Machine.hears (.answer r code data) s = Machine.bundleHears (.answer r code data) s := by
        unfold Machine.hears
        dsimp only
        rw [w]
      have own := h.bundle ch
      rw [answersTo_answer, endsOf_answer] at own
      unfold ofWho at own
      rw [w, if_pos rfl, List.singleton_append, List.cons_append] at own
      have same : loaderLeft (.answer r code data :: l) s = loaderLeft l s := by
        unfold loaderLeft
        rw [answersTo_answer]
        unfold ofWho
        rw [w, if_neg (fun k => nomatch k), List.nil_append]
      rw [e]
      unfold Machine.bundleHears
      dsimp only
      rw [w]
      dsimp only
      split
      · next st =>
        obtain ⟨others, loader, mine⟩ := setBundle_left l s ch
          (takeHandle (s.bundle ch) (handleFrom code data))
        obtain ⟨a, b⟩ := issueReads_left ch l
          (s.setBundle ch (takeHandle (s.bundle ch) (handleFrom code data)))
        obtain ⟨c, d⟩ := composeBundle_left ch (l ++ (Machine.issueReads ch
          (s.setBundle ch (takeHandle (s.bundle ch) (handleFrom code data)))).2)
          (Machine.issueReads ch (s.setBundle ch (takeHandle (s.bundle ch) (handleFrom code data)))).1
        refine deliveriesLeft_channel ch ?_ (fun x k => ?_) ?_
        · refine lt_of_eq_of_lt ((c ch).trans ((a ch).trans mine)) ?_
          rw [reportsLeft_answer]
          unfold reportsLeft takeHandle
          rw [if_pos st, if_neg (fun k => nomatch k)]
          dsimp only
          omega
        · rw [reportsLeft_answer]
          exact Nat.le_of_eq ((c x).trans ((a x).trans (others x k)))
        · rw [same]
          exact Nat.le_of_eq (d.trans (b.trans loader))
      · next st =>
        rw [List.append_nil]
        obtain ⟨others, loader, mine⟩ := setBundle_left l s ch (takeBlock (s.bundle ch) code data)
        obtain ⟨c, d⟩ := composeBundle_left ch l (s.setBundle ch (takeBlock (s.bundle ch) code data))
        refine deliveriesLeft_channel ch ?_ (fun x k => ?_) ?_
        · refine lt_of_eq_of_lt ((c ch).trans mine) ?_
          have out := own.1
          have budget := own.2.1
          rw [List.length_cons] at out
          rw [reportsLeft_answer]
          unfold reportsLeft takeBlock
          dsimp only
          rw [st, if_neg (fun k => nomatch k), List.length_append, List.length_singleton]
          omega
        · rw [reportsLeft_answer]
          exact Nat.le_of_eq ((c x).trans (others x k))
        · rw [same]
          exact Nat.le_of_eq (d.trans loader)
      · next other1 other2 =>
        have rest := own.2.2.2
        revert rest
        cases st : (s.bundle ch).state with
        | lookup =>
          rintro ⟨⟨q, k, x, hk⟩, _⟩
          have : r.what = .handle k := by rw [(List.cons.inj x).1]; exact hk
          exact absurd st (other1 k this)
        | stream =>
          rintro ⟨all, _⟩
          exact absurd st (other2 (all r (List.mem_cons_self ..)))
        | idle => exact fun k => absurd k.1 (List.cons_ne_nil _ _)
        | overlay => exact fun k => absurd k.1 (List.cons_ne_nil _ _)
        | closing => exact fun k => absurd k.1 (List.cons_ne_nil _ _)

/-- Every report is delivered, with those that the deliveries bring about (R129). -/
theorem Reading.deliver (n : Nat) (h : Reading l s) (enough : deliveriesLeft l s < n) :
    Reading [] (deliver n l s) := by
  induction n generalizing l s with
  | zero => exact absurd enough (Nat.not_lt_zero _)
  | succ n ih =>
    cases l with
    | nil => exact h
    | cons rep l =>
      unfold Machine.deliver
      exact ih h.hears (Nat.lt_of_lt_of_le h.hears_left (Nat.le_of_lt_succ enough))

/-- The fuel of a step's delivery is enough. -/
theorem Reading.settleReports {out : State × List StoreReport} (h : Reading out.2 out.1) :
    Reading [] (settleReports out) :=
  h.deliver deliverFuel (Nat.lt_of_le_of_lt (deliveriesLeft_le h) (by decide))

/-! ## The operations of a step -/

/-- The main queue holds at most 8 requests: two of each channel, or one of the loader (R126). -/
theorem Reading.mainQueue_le (h : Reading [] s) : s.store.mainQueue.length ≤ 8 := by
  have split : ∀ l : List ReadRequest, l.length =
      (l.filter (fun r => r.who == .loader)).length + (l.filter (fun r => r.who == .channel 0)).length +
        (l.filter (fun r => r.who == .channel 1)).length + (l.filter (fun r => r.who == .channel 2)).length +
        (l.filter (fun r => r.who == .channel 3)).length := by
    intro l
    induction l with
    | nil => rfl
    | cons r l ih =>
      rw [List.length_cons, ih]
      cases w : r.who with
      | loader => simp [w]; omega
      | channel d => match d with
        | 0 => simp [w]; omega
        | 1 => simp [w]; omega
        | 2 => simp [w]; omega
        | 3 => simp [w]; omega
  have part (who : Requester) : (s.store.mainQueue.filter (fun r => r.who == who)).length ≤
      (s.store.readsOf who).length := by
    unfold PlanStore.readsOf
    rw [List.length_append]
    omega
  have owed (ch : Fin 4) : (s.store.readsOf (.channel ch)).length ≤ 2 := by
    obtain ⟨out, budget, _, _⟩ := h.bundle ch
    rw [answersTo_nil, List.nil_append] at out
    omega
  have loader := h.loader
  rw [answersTo_nil, List.nil_append] at loader
  have all := split s.store.mainQueue
  have p := part .loader
  have p0 := (part (.channel 0)).trans (owed 0)
  have p1 := (part (.channel 1)).trans (owed 1)
  have p2 := (part (.channel 2)).trans (owed 2)
  have p3 := (part (.channel 3)).trans (owed 3)
  cases run : s.control.running with
  | true =>
    rw [run] at loader
    simp at loader
    rw [loader, List.length_nil] at p
    omega
  | false =>
    rw [run] at loader
    simp at loader
    have quiet (ch : Fin 4) : (s.store.mainQueue.filter (fun r => r.who == .channel ch)).length = 0 := by
      have rest := (h.bundle ch).2.2.2
      rw [h.idle run ch] at rest
      have none : s.store.readsOf (.channel ch) = [] := rest.1
      have := part (.channel ch)
      rw [none, List.length_nil] at this
      omega
    have := quiet 0
    have := quiet 1
    have := quiet 2
    have := quiet 3
    omega

/-- The end of a transfer (R128), its reports delivered. -/
theorem Reading.transferEvent (h : Reading [] s) (b : BlockBytes) : Reading [] (transferEvent b s) := by
  obtain ⟨reads, ends, orphan⟩ := transferEnd_owes s.store s.control.straps b h.orphan
  refine Reading.settleReports ⟨fun ch => ?_, ?_, h.idle, fun r k => h.orphan r (orphan r k)⟩
  · have ok := h.bundle ch
    rw [answersTo_nil, List.nil_append, endsOf_nil, Nat.zero_add, reads (.channel ch), ← ends ch] at ok
    exact ok
  · have one := h.loader
    rw [answersTo_nil, List.nil_append, reads .loader] at one
    exact one

theorem set_set {α : Type} (x : Four α) (ch : Fin 4) (a b : α) : (x.set ch a).set ch b = x.set ch b := by
  match ch with
  | 0 => rfl
  | 1 => rfl
  | 2 => rfl
  | 3 => rfl

theorem setBundle_setBundle (s : State) (ch : Fin 4) (a b : Bundle) :
    (s.setBundle ch a).setBundle ch b = s.setBundle ch b := by
  unfold State.setBundle State.withBundles
  dsimp only
  rw [set_set]

/-- A channel's reads cancelled (R130, R148): it owes none but the orphaned one. -/
theorem Reading.cancel (h : Reading [] s) (b : Bundle)
    (ok : b.ReadsOk [] ((s.store.cancel ch).orphansOf ch)) (idle : b.state = .idle) :
    Reading [] ((s.setBundle ch b).withStore (s.store.cancel ch)) := by
  have at_ (d : Fin 4) : ((s.setBundle ch b).withStore (s.store.cancel ch)).bundle d =
      (s.setBundle ch b).bundle d := rfl
  refine ⟨fun d => ?_, ?_, fun off d => ?_, fun r k => ?_⟩
  · rw [at_, bundle_setBundle, withStore_store, answersTo_nil, List.nil_append, endsOf_nil, Nat.zero_add]
    by_cases e : d = ch
    · subst e
      rw [if_pos rfl, (cancel_own s.store d).1]
      exact ok
    · have own := h.bundle d
      rw [answersTo_nil, List.nil_append, endsOf_nil, Nat.zero_add] at own
      rw [if_neg e, cancel_other _ _ _ (fun k => e (Requester.channel.inj k)), cancel_orphan_other _ _ _ e]
      exact own
  · rw [withStore_store, answersTo_nil, List.nil_append, cancel_other _ _ .loader (fun k => nomatch k)]
    exact h.loader
  · rw [at_, bundle_setBundle]
    split
    · exact idle
    · exact h.idle off d
  · rcases cancel_orphan _ _ _ k with k | k
    · exact h.orphan r k
    · rw [k]
      exact fun x => nomatch x

/-- What is outstanding once the reads that wait are removed: the orphaned read alone (R148). -/
theorem Reading.outstanding_cancelled (h : Reading [] s) (ch : Fin 4) :
    (s.bundle ch).outstanding - s.store.queuedFor ch = (s.store.cancel ch).orphansOf ch ∧
      (s.store.cancel ch).orphansOf ch ≤ 1 := by
  obtain ⟨out, _, _, _⟩ := h.bundle ch
  rw [answersTo_nil, List.nil_append, endsOf_nil, Nat.zero_add] at out
  have := (cancel_own s.store ch).2
  refine ⟨by omega, ?_⟩
  unfold PlanStore.orphansOf
  split <;> omega

/-- A detach (R149). -/
theorem Reading.abortForDetach (h : Reading [] s) (ch : Fin 4) : Reading [] (abortForDetach ch s) := by
  obtain ⟨out, le⟩ := h.outstanding_cancelled ch
  unfold Machine.abortForDetach
  split
  · exact h
  · unfold cancelReads
    dsimp only
    have e (x y : Bundle) (p : PlanStore) : ((s.setBundle ch x).withStore p).setBundle ch y =
        (s.setBundle ch y).withStore p := by
      have := setBundle_setBundle s ch x y
      unfold State.setBundle State.withBundles State.withStore at *
      dsimp only at *
      rw [set_set]
    rw [e]
    refine h.cancel _ (Bundle.readsOk_quiet rfl rfl rfl ?_ (by omega)) rfl
    show ((s.setBundle ch _).bundle ch).outstanding = _
    rw [bundle_setBundle_same]
    exact out

/-- A SHEET request aborts the bundle in progress and begins the new one (R148). -/
theorem Reading.abortForSheet (h : Reading [] s) (running : s.control.running = true) (ch : Fin 4)
    (sheet : Nat) : Reading (abortForSheet ch sheet s).2 (abortForSheet ch sheet s).1 := by
  obtain ⟨out, le⟩ := h.outstanding_cancelled ch
  have quiet (b : Bundle) (same : b.outstanding = (s.bundle ch).outstanding - s.store.queuedFor ch)
      (msg : ∃ s' m x l' d, b.pendingMsg = some (.bundleEnd s' m x l' d .aborted)) (r : ReadRequest)
      (who : r.who = .channel ch) (what : r.what = .handle sheet) (urgent : Bool) :
      Reading (askStore r ((s.withStore (s.store.cancel ch)).setBundle ch (b.begun sheet urgent))).2
        (askStore r ((s.withStore (s.store.cancel ch)).setBundle ch (b.begun sheet urgent))).1 := by
    have idle := h.cancel { Bundle.reset with outstanding := b.outstanding }
      (Bundle.readsOk_quiet rfl rfl rfl (same.trans out) (by omega)) rfl
    have begun := idle.askChannel who (b.begun sheet urgent) (by
      rw [answersTo_nil, endsOf_nil, List.nil_append, Nat.zero_add, withStore_store,
        (cancel_own s.store ch).1, List.nil_append]
      exact Bundle.readsOk_begun (same.trans out) le (.inr msg) _ _ r sheet what) (fun off => by
        rw [withStore_control] at off
        exact nomatch running.symm.trans off)
    rw [List.nil_append] at begun
    have e (x y : Bundle) (p : PlanStore) : ((s.setBundle ch x).withStore p).setBundle ch y =
        (s.withStore p).setBundle ch y := by
      unfold State.setBundle State.withBundles State.withStore
      dsimp only
      rw [set_set]
    rw [e] at begun
    exact begun
  unfold Machine.abortForSheet Machine.beginBundle cancelReads
  dsimp only
  have e (x y z : Bundle) (p : PlanStore) : (((s.setBundle ch x).withStore p).setBundle ch y).setBundle ch z =
      (s.withStore p).setBundle ch z := by
    unfold State.setBundle State.withBundles State.withStore
    dsimp only
    rw [set_set, set_set]
  rw [e, bundle_setBundle_same]
  have f (x : Bundle) (p : PlanStore) : ((s.setBundle ch x).withStore p).bundle ch = x :=
    bundle_setBundle_same s ch x
  rw [f]
  exact quiet _ rfl ⟨_, _, _, _, _, rfl⟩ _ rfl rfl _

/-- A SHEET request that is carried out (R138, R148). -/
theorem Reading.sheetRequest (h : Reading [] s) (running : s.control.running = true) (ch : Fin 4)
    (sheet : Nat) : Reading (sheetRequest ch sheet s).2 (sheetRequest ch sheet s).1 := by
  have own := h.bundle ch
  rw [answersTo_nil, List.nil_append, endsOf_nil, Nat.zero_add] at own
  have off (b : Bundle) : s.control.running = false → b.state = .idle :=
    fun k => nomatch running.symm.trans k
  unfold Machine.sheetRequest
  dsimp only
  cases st : (s.bundle ch).state with
  | idle =>
    have rest := own.2.2
    rw [st] at rest
    obtain ⟨msg, reads, _⟩ := rest
    refine h.beginBundle running sheet (by rw [answersTo_nil, List.nil_append]; exact reads) ?_ (.inl ?_)
    · rw [endsOf_nil, Nat.zero_add]
      unfold PlanStore.orphansOf
      split <;> omega
    · unfold Bundle.PendingOk at msg
      rw [st] at msg
      cases e : (s.bundle ch).pendingMsg with
      | none => rfl
      | some m => rw [e] at msg; split at msg <;> simp_all
  | closing =>
    refine h.setBundle _ ?_ (off _)
    rw [answersTo_nil, List.nil_append, endsOf_nil, Nat.zero_add]
    unfold Bundle.ReadsOk Bundle.PendingOk at own ⊢
    rw [st] at own
    exact own
  | lookup => exact h.abortForSheet running ch sheet
  | stream => exact h.abortForSheet running ch sheet
  | overlay => exact h.abortForSheet running ch sheet

/-- What the placing of its pending message leaves of a bundle, before anything else is asked for or composed
(R139 to R147). -/
def Bundle.placed (b : Bundle) (m : Message) : Bundle :=
  let free := { b with pendingMsg := none }
  match m with
  | .bundleHead .. => { free with head := .placed }
  | .block _ damaged _ =>
    { free with buffer := b.buffer.drop 1, blockCursor := b.blockCursor + 1
                damagedCount := if damaged then b.damagedCount + 1 else b.damagedCount }
  | .overlay _ marks => { free with overlayCursor := b.overlayCursor + marks.length }
  | .bundleEnd _ _ _ _ _ .aborted => free
  | .bundleEnd .. => free.ended
  | _ => free

/-- The reads stay as they should be when the pending message is placed (R139 to R147). -/
theorem Bundle.ReadsOk.placed {b : Bundle} {l : List ReadRequest} {n : Nat} (h : b.ReadsOk l n) {m : Message}
    (pending : b.pendingMsg = some m) : (b.placed (finalMessage b m)).ReadsOk l n := by
  obtain ⟨out, budget, msg, rest⟩ := h
  unfold Bundle.PendingOk at msg
  rw [pending] at msg
  have none (c : Bundle) (e : c.pendingMsg = none) : c.PendingOk := Bundle.pendingOk_none e
  unfold Bundle.placed finalMessage
  cases m with
  | bundleHead =>
    dsimp only
    refine ⟨out, budget, none _ rfl, ?_⟩
    cases st : b.state with
    | stream => rw [st] at rest; exact rest
    | _ => rw [st] at msg; exact msg.elim
  | block =>
    dsimp only
    cases st : b.state with
    | stream =>
      rw [st] at msg rest
      obtain ⟨_, full⟩ := msg
      obtain ⟨all, k, hk, cursor, count⟩ := rest
      have : 1 ≤ b.buffer.length := List.length_pos_iff.mpr full
      refine ⟨out, ?_, none _ rfl, all, k, hk, ?_, count⟩
      · dsimp only
        rw [List.length_drop]
        omega
      · dsimp only
        rw [List.length_drop]
        omega
    | _ => rw [st] at msg; exact msg.elim
  | overlay =>
    dsimp only
    exact ⟨out, budget, none _ rfl, rest⟩
  | bundleEnd a b' c d e code =>
    cases code with
    | aborted => exact ⟨out, budget, none _ rfl, rest⟩
    | complete =>
      dsimp only
      cases st : b.state with
      | overlay =>
        rw [st] at rest
        unfold Bundle.ended
        dsimp only
        split <;> exact ⟨out, budget, none _ rfl, rest⟩
      | _ => rw [st] at msg; exact (by simp at msg)
    | absent =>
      dsimp only
      cases st : b.state with
      | overlay =>
        rw [st] at rest
        unfold Bundle.ended
        dsimp only
        split <;> exact ⟨out, budget, none _ rfl, rest⟩
      | _ => rw [st] at msg; exact (by simp at msg)
  | _ =>
    dsimp only
    exact ⟨out, budget, none _ rfl, rest⟩

/-- The placing of the pending message, with the reads it makes room for or the bundle it lets begin (R138 to
R147). -/
theorem Reading.afterPlacing (h : Reading [] s) {m : Message} (pending : (s.bundle ch).pendingMsg = some m) :
    Reading (afterPlacing ch (finalMessage (s.bundle ch) m) s).2
      (afterPlacing ch (finalMessage (s.bundle ch) m) s).1 := by
  have own := h.bundle ch
  have msg := own.2.2.1
  unfold Bundle.PendingOk at msg
  rw [pending] at msg
  have run : s.control.running = true := by
    cases e : s.control.running with
    | true => rfl
    | false =>
      rw [h.idle e ch] at msg
      exact absurd msg (by simp)
  have put (b : Bundle) (e : b = (s.bundle ch).placed (finalMessage (s.bundle ch) m)) :
      Reading [] (s.setBundle ch b) := by
    rw [e]
    exact h.setBundle _ (own.placed pending) fun off => nomatch run.symm.trans off
  have putEnd (b : Bundle) (c : Channel) (e : b = (s.bundle ch).placed (finalMessage (s.bundle ch) m)) :
      Reading [] ((s.setChannel ch c).setBundle ch b) := (put b e).of_eq rfl rfl rfl
  unfold Machine.afterPlacing
  dsimp only
  cases m with
  | bundleHead => exact put _ rfl
  | block => exact (put _ rfl).issueReads ch
  | overlay => exact put _ rfl
  | bundleEnd a b c d e code =>
    cases code with
    | aborted => exact put _ rfl
    | complete => exact putEnd _ _ rfl
    | absent => exact putEnd _ _ rfl
  | markUpdate kind removal mark =>
    cases st : (s.bundle ch).state with
    | closing =>
      have rest := own.2.2.2
      rw [st] at rest
      rw [answersTo_nil, List.nil_append] at rest
      have out := own.1
      rw [answersTo_nil, List.nil_append, rest.1, List.length_nil, Nat.zero_add, endsOf_nil, Nat.zero_add] at out
      have budget := own.2.1
      have idled (next : Option Nat) : Reading [] (s.setBundle ch { s.bundle ch with
          state := .idle, pendingMsg := none, pendingSheet := next }) := by
        refine h.setBundle _ ?_ fun off => nomatch run.symm.trans off
        rw [answersTo_nil, List.nil_append, rest.1, endsOf_nil, Nat.zero_add]
        exact Bundle.readsOk_quiet rfl rfl rest.2 out (by omega)
      dsimp only [finalMessage]
      split
      · split
        · refine (idled none).beginBundle run _ ?_ ?_ (.inl ?_)
          · rw [answersTo_nil, List.nil_append, setBundle_store]
            exact rest.1
          · rw [endsOf_nil, Nat.zero_add, setBundle_store]
            unfold PlanStore.orphansOf
            split <;> omega
          · rw [bundle_setBundle_same]
        · exact idled _
      · refine put _ ?_
        unfold Bundle.placed finalMessage
        dsimp only
        rw [st]
    | _ => rw [st] at msg; exact (by simp at msg)
  | _ => exact (by simp at msg)

/-- The bundle's pending message placed (R140, R170). -/
theorem Reading.placeBundleMessage (h : Reading [] s) (ch : Fin 4) :
    Reading [] (placeBundleMessage ch s) := by
  unfold Machine.placeBundleMessage
  split
  · next m e =>
    dsimp only
    have k : Reading [] (s.enqueue ch (finalMessage (s.bundle ch) m)) := h.of_eq rfl rfl rfl
    exact (Reading.settleReports (k.afterPlacing (ch := ch) (m := m) e)).composeBundle ch
  · exact h

end Sys2Proof.Machine
end

