-- ==== Sys2Proof/Laws/Entries.lean ====
section
/-!
SUPPORT. The list of entries: its order, and what placing and taking out an entry do to it.
-/
namespace Sys2Proof.Machine

/-! ## The order of addresses -/

theorem before_iff (a b : Address) : a.before b = true ↔
    a.station < b.station ∨ (a.station = b.station ∧ a.index < b.index) := by
  simp [Address.before]

theorem before_irrefl (a : Address) : a.before a = false := by
  simp [Address.before]

theorem before_trans {a b c : Address} (h : a.before b = true) (k : b.before c = true) :
    a.before c = true := by
  rw [before_iff] at *
  omega

theorem before_ne {a b : Address} (h : a.before b = true) : a ≠ b := by
  rintro rfl
  simp [before_irrefl] at h

theorem before_total (a b : Address) : a = b ∨ a.before b = true ∨ b.before a = true := by
  obtain ⟨x, i⟩ := a
  obtain ⟨y, j⟩ := b
  simp only [before_iff, Address.mk.injEq]
  omega

/-! ## Membership -/

theorem mem_dropEntry {a : Address} {l : List Entry} {e : Entry} :
    e ∈ dropEntry a l ↔ e ∈ l ∧ e.addr ≠ a := by
  simp [dropEntry]

theorem mem_putEntry_of {e x : Entry} {l : List Entry} (h : x ∈ putEntry e l) : x = e ∨ x ∈ l := by
  induction l with
  | nil => simpa [putEntry] using h
  | cons y l ih =>
    simp only [putEntry] at h
    split at h
    · simp only [List.mem_cons] at h ⊢; tauto
    · split at h
      · simp only [List.mem_cons] at h ⊢; tauto
      · simp only [List.mem_cons] at h ⊢
        rcases h with h | h
        · tauto
        · rcases ih h with h | h <;> tauto

theorem mem_putEntry_self (e : Entry) (l : List Entry) : e ∈ putEntry e l := by
  induction l with
  | nil => simp [putEntry]
  | cons y l ih =>
    simp only [putEntry]
    split
    · simp
    · split
      · simp
      · simp [ih]

/-- In a rising list, the members after a placing are the entry and those of other addresses. -/
theorem mem_putEntry {e x : Entry} {l : List Entry} (r : Rising l) :
    x ∈ putEntry e l ↔ x = e ∨ (x ∈ l ∧ x.addr ≠ e.addr) := by
  induction l with
  | nil => simp [putEntry]
  | cons y l ih =>
    obtain ⟨hy, hl⟩ := r
    simp only [putEntry]
    split
    · next h =>
      have apart : ∀ z ∈ l, z.addr ≠ e.addr := fun z hz k =>
        before_ne (hy z hz) (h ▸ k.symm)
      simp only [List.mem_cons]
      constructor
      · rintro (k | k)
        · exact .inl k
        · exact .inr ⟨.inr k, apart x k⟩
      · rintro (k | ⟨k | k, n⟩)
        · exact .inl k
        · subst k; exact absurd h.symm n
        · exact .inr k
    · next h =>
      split
      · next b =>
        have apart : ∀ z ∈ y :: l, z.addr ≠ e.addr := by
          intro z hz
          rcases List.mem_cons.1 hz with rfl | hz
          · exact fun k => h k.symm
          · exact fun k => before_ne (before_trans b (hy z hz)) k.symm
        simp only [List.mem_cons] at apart ⊢
        constructor
        · rintro (k | k)
          · exact .inl k
          · exact .inr ⟨k, apart x k⟩
        · rintro (k | ⟨k, _⟩)
          · exact .inl k
          · exact .inr k
      · simp only [List.mem_cons, ih hl]
        constructor
        · rintro (k | k | ⟨k, n⟩)
          · subst k; exact .inr ⟨.inl rfl, fun q => h q.symm⟩
          · exact .inl k
          · exact .inr ⟨.inr k, n⟩
        · rintro (k | ⟨k | k, n⟩)
          · exact .inr (.inl k)
          · exact .inl k
          · exact .inr (.inr ⟨k, n⟩)

/-! ## Rising lists -/

theorem rising_filter (p : Entry → Bool) {l : List Entry} (r : Rising l) : Rising (l.filter p) := by
  induction l with
  | nil => exact r
  | cons y l ih =>
    obtain ⟨hy, hl⟩ := r
    rw [List.filter_cons]
    split
    · exact ⟨fun x hx => hy x (List.mem_filter.1 hx).1, ih hl⟩
    · exact ih hl

theorem rising_dropEntry (a : Address) {l : List Entry} (r : Rising l) : Rising (dropEntry a l) :=
  rising_filter _ r

theorem rising_map (f : Entry → Entry) (h : ∀ e, (f e).addr = e.addr) {l : List Entry} (r : Rising l) :
    Rising (l.map f) := by
  induction l with
  | nil => exact r
  | cons y l ih =>
    obtain ⟨hy, hl⟩ := r
    refine ⟨?_, ih hl⟩
    intro x hx
    obtain ⟨z, hz, rfl⟩ := List.mem_map.1 hx
    rw [h, h]
    exact hy z hz

theorem rising_putEntry (e : Entry) {l : List Entry} (r : Rising l) : Rising (putEntry e l) := by
  induction l with
  | nil => exact ⟨by simp, trivial⟩
  | cons y l ih =>
    obtain ⟨hy, hl⟩ := r
    simp only [putEntry]
    split
    · next h => exact ⟨fun x hx => by rw [h]; exact hy x hx, hl⟩
    · next h =>
      split
      · next b =>
        refine ⟨?_, hy, hl⟩
        intro x hx
        rcases List.mem_cons.1 hx with rfl | hx
        · exact b
        · exact before_trans b (hy x hx)
      · next b =>
        refine ⟨?_, ih hl⟩
        intro x hx
        rcases mem_putEntry_of hx with rfl | hx
        · rcases before_total x.addr y.addr with k | k | k
          · exact absurd k h
          · exact absurd k b
          · exact k
        · exact hy x hx

/-- Two members of a rising list with one address are one entry (R17). -/
theorem rising_unique {l : List Entry} (r : Rising l) {x y : Entry} (hx : x ∈ l) (hy : y ∈ l)
    (h : x.addr = y.addr) : x = y := by
  induction l with
  | nil => cases hx
  | cons z l ih =>
    obtain ⟨hz, hl⟩ := r
    rcases List.mem_cons.1 hx with p | p <;> rcases List.mem_cons.1 hy with q | q
    · rw [p, q]
    · subst p; exact absurd h (before_ne (hz _ q))
    · subst q; exact absurd h.symm (before_ne (hz _ p))
    · exact ih hl p q

/-! ## Reading one entry -/

/-- In a rising list an address reads as the member that has it. -/
theorem find_rising {l : List Entry} (r : Rising l) {e : Entry} (h : e ∈ l) :
    l.find? (fun x => x.addr == e.addr) = some e := by
  cases k : l.find? (fun x => x.addr == e.addr) with
  | none =>
    rw [List.find?_eq_none] at k
    exact absurd (by simp) (k e h)
  | some x =>
    have hx := List.mem_of_find?_eq_some k
    have he := List.find?_some k
    rw [rising_unique r hx h (by simpa using he)]

/-- After a placing, its own address reads as the entry placed. -/
theorem entryAt_putEntry_same (s : State) (e : Entry) :
    (s.putEntry e).entryAt e.addr = some e := by
  change (putEntry e s.table.entries).find? _ = some e
  generalize s.table.entries = l
  induction l with
  | nil => simp [putEntry]
  | cons y l ih =>
    simp only [putEntry]
    split
    · simp
    · next h =>
      split
      · simp
      · have k : ¬ y.addr = e.addr := fun q => h q.symm
        simp [k, ih]

/-- After a placing, every other address reads as before. -/
theorem entryAt_putEntry_ne (s : State) (e : Entry) (a : Address) (h : a ≠ e.addr) :
    (s.putEntry e).entryAt a = s.entryAt a := by
  unfold State.entryAt
  change (putEntry e s.table.entries).find? _ = s.table.entries.find? _
  generalize s.table.entries = l
  have ea : ¬ e.addr = a := fun k => h k.symm
  induction l with
  | nil => simp [putEntry, ea]
  | cons y l ih =>
    simp only [putEntry]
    split
    · next k =>
      have ya : ¬ y.addr = a := fun q => ea (k.trans q)
      simp [ea, ya]
    · split
      · simp [List.find?_cons, ea]
      · simp only [List.find?_cons]
        split
        · rfl
        · exact ih

/-- After a taking out, its address reads as not held and every other as before. -/
theorem entryAt_dropEntry (s : State) (a b : Address) :
    (s.dropEntry a).entryAt b = if b = a then none else s.entryAt b := by
  unfold State.entryAt
  change (dropEntry a s.table.entries).find? _ = _
  generalize s.table.entries = l
  split
  · next h =>
    subst h
    rw [List.find?_eq_none]
    intro x hx k
    exact (mem_dropEntry.1 hx).2 (by simpa using k)
  · next h =>
    unfold dropEntry
    rw [List.find?_filter]
    congr 1
    funext x
    by_cases k : x.addr = b
    · subst k
      simp [h]
    · simp [k]

/-! ## Counting -/

theorem length_putEntry_le (e : Entry) (l : List Entry) : (putEntry e l).length ≤ l.length + 1 := by
  induction l with
  | nil => simp [putEntry]
  | cons y l ih =>
    simp only [putEntry]
    split
    · simp
    · split
      · simp
      · simp only [List.length_cons]; omega

@[simp] theorem placeEntry_table (e : Entry) (s : State) :
    (placeEntry e s).table = (s.putEntry e).table := by simp [placeEntry]

@[simp] theorem placeEntry_pending (e : Entry) (s : State) :
    (placeEntry e s).pending = s.pending := by simp [placeEntry]

end Sys2Proof.Machine
end

