-- ==== Sys2Proof/Laws/Follow.lean ====
section
/-!
SUPPORT. The blocks that follow the picture see nothing but their own state, the entries and the tick: where two
states agree on these, telling both the same leaves them so.
-/
namespace Sys2Proof.Machine

/-- The followers of the picture stand the same in both states, and would see the same picture at the same
time. -/
structure Following (s t : State) : Prop where
  crew : t.crew = s.crew
  bundles : t.bundles = s.bundles
  incident : t.incident = s.incident
  entries : t.entries = s.entries
  tick : t.control.tick = s.control.tick

variable {s t : State}

theorem Following.same (h : Following s t) : FollowersSame s t := ⟨h.crew, h.bundles, h.incident⟩

theorem Following.of_same (h : FollowersSame s t) (e : t.entries = s.entries)
    (k : t.control.tick = s.control.tick) : Following s t := ⟨h.1, h.2.1, h.2.2, e, k⟩

theorem Following.refl (s : State) : Following s s := ⟨rfl, rfl, rfl, rfl, rfl⟩

theorem Following.channel (h : Following s t) (ch : Fin 4) : t.channel ch = s.channel ch := by
  unfold State.channel
  rw [h.crew]

theorem Following.bundle (h : Following s t) (ch : Fin 4) : t.bundle ch = s.bundle ch := by
  unfold State.bundle
  rw [h.bundles]

theorem Following.markOf (h : Following s t) (e : Entry) : t.markOf e = s.markOf e := by
  unfold State.markOf State.ageOf State.now
  rw [h.tick]

theorem Following.setChannel (h : Following s t) (ch : Fin 4) (c : Channel) :
    Following (s.setChannel ch c) (t.setChannel ch c) := by
  refine ⟨?_, h.bundles, h.incident, h.entries, h.tick⟩
  unfold State.setChannel State.withCrew
  dsimp only
  rw [h.crew]

theorem Following.setBundle (h : Following s t) (ch : Fin 4) (b : Bundle) :
    Following (s.setBundle ch b) (t.setBundle ch b) := by
  refine ⟨h.crew, ?_, h.incident, h.entries, h.tick⟩
  unfold State.setBundle State.withBundles
  dsimp only
  rw [h.bundles]

theorem Following.withIncident (h : Following s t) (m : IncidentMonitor) :
    Following (s.withIncident m) (t.withIncident m) := ⟨h.crew, h.bundles, rfl, h.entries, h.tick⟩

theorem Following.ite {p : Prop} [Decidable p] {a b c d : State} (h : Following a c)
    (k : Following b d) : Following (if p then a else b) (if p then c else d) := by
  split
  · exact h
  · exact k

theorem Following.eachChannel {f : Fin 4 → State → State}
    (keeps : ∀ ch u v, Following u v → Following (f ch u) (f ch v)) (h : Following s t) :
    Following (eachChannel f s) (eachChannel f t) :=
  keeps _ _ _ (keeps _ _ _ (keeps _ _ _ (keeps _ _ _ h)))

theorem Following.raise (h : Following s t) (n : Notice) (ch : Fin 4) :
    Following (s.raise n ch) (t.raise n ch) := by
  unfold State.raise
  rw [h.channel]
  exact h.setChannel _ _

theorem Following.raiseAll (h : Following s t) (n : Notice) : Following (s.raiseAll n) (t.raiseAll n) :=
  h.eachChannel fun _ _ _ k => k.raise _ _

theorem Following.queueUpdate (h : Following s t) (pc : PictureChange) (f : Option Nat) (ch : Fin 4) :
    Following (queueUpdate pc f ch s) (queueUpdate pc f ch t) := by
  unfold Machine.queueUpdate State.enqueue
  rw [h.channel, h.markOf]
  exact (h.raise _ _).ite (h.setChannel _ _)

theorem Following.offerLate (h : Following s t) (a : Address) (ch : Fin 4) :
    Following (offerLate a ch s) (offerLate a ch t) := by
  unfold Machine.offerLate
  rw [h.bundle]
  exact h.ite ((h.setBundle _ _).ite (h.raise _ _))

theorem Following.routeOn (h : Following s t) (pc : PictureChange) (ch : Fin 4) :
    Following (routeOn pc ch s) (routeOn pc ch t) := by
  unfold Machine.routeOn
  dsimp only
  rw [h.channel, h.bundle, h.crew]
  split
  · exact h
  · exact (((h.offerLate _ _).queueUpdate _ _ _).ite (h.offerLate _ _)).ite
      ((h.queueUpdate _ _ _).ite ((h.queueUpdate _ _ _).ite h))

theorem Following.noteMove (h : Following s t) (before : Option IncidentOrigin) :
    Following (noteMove before s) (noteMove before t) := by
  unfold Machine.noteMove
  rw [h.incident]
  split
  · exact h.ite (h.raiseAll _)
  · exact h

theorem Following.alarmRises (h : Following s t) (e : Entry) :
    Following (alarmRises e s) (alarmRises e t) := by
  unfold Machine.alarmRises
  dsimp only
  rw [h.incident]
  refine (h.withIncident _).ite ?_
  split
  · exact ((h.withIncident _).noteMove _).ite (h.withIncident _)
  · exact (h.withIncident _).noteMove _

theorem Following.alarmFalls (h : Following s t) (e : Entry) :
    Following (alarmFalls e s) (alarmFalls e t) := by
  unfold Machine.alarmFalls
  dsimp only
  rw [h.incident, h.entries]
  refine (((h.withIncident _).ite (h.withIncident _)).ite (h.withIncident _)).ite (.ite ?_ (h.withIncident _))
  split
  · exact (h.withIncident _).noteMove _
  · exact h.withIncident _

theorem Following.followLocation (h : Following s t) (e : Entry) :
    Following (followLocation e s) (followLocation e t) := by
  unfold Machine.followLocation
  rw [h.incident]
  split
  · exact (h.withIncident _).ite h
  · exact h

theorem Following.checkVertical (h : Following s t) (e : Entry) :
    Following (checkVertical e s) (checkVertical e t) := by
  unfold Machine.checkVertical
  rw [h.incident]
  split
  · exact ((h.withIncident _).raiseAll _).ite h
  · exact h

theorem Following.checkLateral (h : Following s t) (e : Entry) :
    Following (checkLateral e s) (checkLateral e t) := by
  unfold Machine.checkLateral
  rw [h.incident]
  split
  · exact ((h.withIncident _).raiseAll _).ite h
  · exact h

theorem Following.monitorTakes (h : Following s t) (pc : PictureChange) :
    Following (monitorTakes pc s) (monitorTakes pc t) := by
  unfold Machine.monitorTakes
  exact (((h.alarmRises _).checkVertical _).checkLateral _).ite
    ((h.alarmFalls _).ite ((h.followLocation _).ite h))

/-- A picture change told to both leaves the followers the same in both (R21, R163). -/
theorem Following.emit (h : Following s t) (pc : PictureChange) :
    Following (emit pc s) (emit pc t) :=
  (h.monitorTakes pc).eachChannel fun _ _ _ k => k.routeOn _ _

end Sys2Proof.Machine
end

