-- ==== Sys2Proof/Laws/Queues.lean ====
section
/-!
SUPPORT. What each operation on a crew channel does to its outbound queue and to what it holds.
-/
namespace Sys2Proof.Machine

/-! ## The bounds of the queue (R170, R171) -/

theorem room_pos_iff (c : Channel) : 1 ≤ c.room ↔ c.queue.length < 24 := by
  unfold Channel.room Config.outboundPlaces
  omega

@[simp] theorem push_queue (c : Channel) (m : Message) : (c.push m).queue = c.queue ++ [m] := rfl

/-- A message that enters a free place keeps the bounds. -/
theorem queueOk_push {c : Channel} (m : Message) (r : c.queue.length < 24) :
    (c.push m).QueueOk := by
  have len : (c.push m).queue.length = c.queue.length + 1 := by simp
  refine ⟨by omega, fun k => ?_⟩
  have above : decide (c.queue.length + 1 > Config.condensedAbove) = false :=
    (Bool.or_eq_false_iff.mp k).2
  have := of_decide_eq_false above
  unfold Config.condensedAbove at this
  omega

/-- A MARK UPDATE has room while the condensed flag is clear (R163, R171). -/
theorem queueOk_push_of_clear {c : Channel} (h : c.QueueOk) (m : Message) (k : c.condensed = false) :
    (c.push m).QueueOk := queueOk_push m (by have := h.2 k; omega)

theorem queueOk_answer {c : Channel} (h : c.QueueOk) (m : Message) : (c.answer m).QueueOk := by
  unfold Channel.answer
  split
  · next r => exact queueOk_push m ((room_pos_iff c).mp r)
  · exact h

theorem queueOk_composeNoticePending {c : Channel} (h : c.QueueOk) : c.composeNoticePending.QueueOk := by
  unfold Channel.composeNoticePending
  split
  · next r =>
    simp only [Bool.and_eq_true, decide_eq_true_eq] at r
    exact queueOk_push _ ((room_pos_iff c).mp r.2)
  · exact h

theorem queueOk_raise {c : Channel} (h : c.QueueOk) (n : Notice) : (c.raise n).QueueOk := by
  unfold Channel.raise
  split
  · exact h
  · split
    · exact h
    · dsimp only
      split
      · exact queueOk_composeNoticePending h
      · exact h

/-- The take of the head keeps the bounds, and its RESUME has room (R154, R171). -/
theorem queueOk_takeHead {c : Channel} {m : Message} {rest : List Message} (h : c.QueueOk)
    (e : c.queue = m :: rest) : (c.takeHead rest).QueueOk := by
  have len : c.queue.length = rest.length + 1 := by rw [e, List.length_cons]
  unfold Channel.QueueOk at h
  unfold Channel.takeHead Config.condensedClears
  split
  · next k =>
    simp only [Bool.and_eq_true, decide_eq_true_eq] at k
    unfold Channel.QueueOk
    simp only [List.length_append, List.length_cons, List.length_nil]
    omega
  · unfold Channel.QueueOk
    exact ⟨by dsimp only; omega, fun k => by have := h.2 k; dsimp only; omega⟩

theorem queueOk_reset : Channel.reset.QueueOk := by
  unfold Channel.QueueOk
  decide

/-- A channel replaced by one within its bounds. -/
theorem queuesOk_setChannel {s : State} (h : QueuesOk s) (ch : Fin 4) {c : Channel} (k : c.QueueOk) :
    QueuesOk (s.setChannel ch c) := by
  intro d
  rw [channel_setChannel]
  split
  · exact k
  · exact h d

theorem queuesOk_raise {s : State} (h : QueuesOk s) (n : Notice) (ch : Fin 4) : QueuesOk (s.raise n ch) :=
  queuesOk_setChannel h ch (queueOk_raise (h ch) n)

theorem queuesOk_raiseAll {s : State} (h : QueuesOk s) (n : Notice) : QueuesOk (s.raiseAll n) :=
  eachChannel_keeps (P := QueuesOk) (fun ch _ k => queuesOk_raise k n ch) s h

theorem queuesOk_queueUpdate {s : State} (h : QueuesOk s) (pc : PictureChange) (f : Option Nat)
    (ch : Fin 4) : QueuesOk (queueUpdate pc f ch s) := by
  unfold queueUpdate
  split
  · exact queuesOk_raise h _ _
  · next k =>
    exact queuesOk_setChannel h ch (queueOk_push_of_clear (h ch) _ (by simpa using k))

/-! ## Answers (R156, R170) -/

/-- An answer on a channel without a pending one enters the queue or waits, and moves nothing else. -/
theorem answered_answer {c : Channel} (h : c.pendingAnswer = none) (m : Message) :
    Answered c (c.answer m) m ∧ BesidesAnswerSame c (c.answer m) := by
  by_cases r : 1 ≤ c.room
  · have e : c.answer m = c.push m := if_pos r
    rw [e]
    exact ⟨⟨fun _ => ⟨rfl, h⟩, fun k => absurd ((room_pos_iff c).mp r) (by omega)⟩,
      rfl, rfl, rfl, rfl, rfl, rfl, rfl, rfl⟩
  · have e : c.answer m = { c with pendingAnswer := some m } := if_neg r
    rw [e]
    exact ⟨⟨fun k => absurd ((room_pos_iff c).mpr k) r, fun _ => ⟨rfl, rfl⟩⟩,
      rfl, rfl, rfl, rfl, rfl, rfl, rfl, rfl⟩

/-- An answer composed stands at the tail of the queue or is the pending answer. -/
theorem hasAnswer_answer (c : Channel) (m : Message) : HasAnswer (c.answer m) m := by
  unfold Channel.answer
  split
  · exact .inl (by simp [Channel.push])
  · exact .inr rfl

@[simp] theorem channel_answerWith (y : Nat) (st : Status) (x : Nat) (ch : Fin 4) (s : State) :
    (answerWith y st x ch s).channel ch = (s.channel ch).answer (.answer y st x) := by
  simp [answerWith]

/-- An answer bears on its own channel alone. -/
theorem answerWith_frame (y : Nat) (st : Status) (x : Nat) (ch : Fin 4) (s : State) :
    SameBesidesCrew s (answerWith y st x ch s) ∧ OtherChannelsSame ch s (answerWith y st x ch s) ∧
      PortSame s (answerWith y st x ch s) ∧
      (answerWith y st x ch s).crew.linkTimer = s.crew.linkTimer :=
  ⟨⟨rfl, rfl, rfl, rfl, rfl, rfl, rfl, rfl, rfl, rfl, rfl⟩, fun _ h => channel_setChannel_ne s _ h,
    ⟨rfl, rfl, rfl, rfl, rfl, rfl, rfl⟩, rfl⟩

/-- The end of a message whose check holds moves the link silence timer alone (R152, R153). -/
theorem linkAlive_frame (s : State) :
    SameBesidesCrew s (linkAlive s) ∧ (∀ d, (linkAlive s).channel d = s.channel d) ∧
      PortSame s (linkAlive s) ∧ (linkAlive s).crew.linkTimer = 0 :=
  ⟨⟨rfl, rfl, rfl, rfl, rfl, rfl, rfl, rfl, rfl, rfl, rfl⟩, fun _ => rfl,
    ⟨rfl, rfl, rfl, rfl, rfl, rfl, rfl⟩, rfl⟩

end Sys2Proof.Machine
end

