-- ==== Sys2Proof/Laws/Receiver.lean ====
section
/-!
SUPPORT. The crew port receiver: its fuel is always enough, and one message of the hub that finds it holding
nothing is taken as that message and leaves it so.
-/
namespace Sys2Proof.Machine

/-- A two-byte field reads back (R179). -/
theorem ofBe16_be16 (n : Nat) (h : n < 65536) : ofBe16 (byte (n / 256)) (byte n) = n := by
  simp only [ofBe16, byte, BitVec.toNat_ofNat]
  omega

theorem be16_length (n : Nat) : (be16 n).length = 2 := rfl

/-- The field at a place where two bytes of a number stand (R179). -/
theorem fieldAt_append_be16 (l : List Byte) (n : Nat) (h : n < 65536) :
    fieldAt (l ++ be16 n) l.length = n := by
  have h0 : (l ++ be16 n).getD l.length 0 = byte (n / 256) := by
    simp [be16, List.getD_eq_getElem?_getD]
  have h1 : (l ++ be16 n).getD (l.length + 1) 0 = byte n := by
    simp [be16, List.getD_eq_getElem?_getD]
  simp only [fieldAt, byteAt, h0, h1]
  exact ofBe16_be16 n h

/-- A run of bytes with its check word holds its check (R180). -/
theorem checkHolds_withCheck (l : List Byte) : checkHolds (withCheck l) = true := by
  have hlen : (withCheck l).length - 2 = l.length := by simp [withCheck, be16_length]
  have htake : (withCheck l).take l.length = l := by simp [withCheck]
  unfold checkHolds
  rw [hlen, htake, withCheck, fieldAt_append_be16 l _ (checkWord l).isLt, beq_self_eq_true]

/-- What stands behind a message's opening byte. -/
theorem messageBytes_eq (c t : Byte) (f : List Byte) :
    messageBytes c t f = 0xA5 :: withCheck (be16 (f.length + 2) ++ [c, t] ++ f) := rfl

theorem lengthField_message (n : Nat) (h : n < 65536) (l : List Byte) :
    lengthField (be16 n ++ l) = n := by
  simpa [lengthField, fieldAt, byteAt, be16, ofBe16] using ofBe16_be16 n h

/-- Hunting goes on in what follows the opening byte or less. -/
theorem huntFrom_length_le (e : LinkEvent) (n : Nat) (l : List Byte) : (e.huntFrom n l).length ≤ l.length := by
  cases e <;> simp [LinkEvent.huntFrom]

/-- Fuel for every byte is enough fuel: more of it changes nothing. -/
theorem readLink_fuel : ∀ (n : Nat) (l : List Byte), l.length ≤ n → readLink n l = linkEvents l := by
  have more : ∀ (n m : Nat) (l : List Byte), l.length ≤ n → l.length ≤ m → readLink n l = readLink m l := by
    intro n
    induction n with
    | zero =>
      intro m l hn _
      have : l = [] := List.eq_nil_of_length_eq_zero (by omega)
      subst this
      cases m <;> rfl
    | succ n ih =>
      intro m l hn hm
      cases l with
      | nil => cases m <;> rfl
      | cons b rest =>
        simp only [List.length_cons] at hn hm
        obtain ⟨m, rfl⟩ : ∃ k, m = k + 1 := ⟨m - 1, by omega⟩
        have hrest := ih m rest (by omega) (by omega)
        have hhunt := fun e k => ih m (LinkEvent.huntFrom e k rest)
          (Nat.le_trans (huntFrom_length_le e k rest) (by omega))
          (Nat.le_trans (huntFrom_length_le e k rest) (by omega))
        simp only [readLink, hrest, hhunt]
  exact fun n l h => more n l.length l h (Nat.le_refl _)

/-- A message whose fields fit reads as itself, and nothing is left over (R185, R186). -/
theorem linkEvents_messageBytes (c t : Byte) (f : List Byte) (h : f.length ≤ 257) :
    linkEvents (messageBytes c t f) = ([.message c t f], []) := by
  have hbody : be16 (f.length + 2) ++ [c, t] ++ f =
      byte ((f.length + 2) / 256) :: byte (f.length + 2) :: c :: t :: f := rfl
  generalize hr : withCheck (be16 (f.length + 2) ++ [c, t] ++ f) = rest
  have hlen : rest.length = f.length + 6 := by
    rw [← hr]; simp [withCheck, be16]
  have hL : lengthField rest = f.length + 2 := by
    rw [← hr, withCheck, List.append_assoc, List.append_assoc]
    exact lengthField_message _ (by omega) _
  have hend : endedMessage (f.length + 6) rest = .message c t f := by
    have htake : rest.take (f.length + 6) = rest := by rw [← hlen, List.take_length]
    unfold endedMessage
    rw [htake, ← hr, checkHolds_withCheck, if_pos rfl]
    have h2 : (withCheck (be16 (f.length + 2) ++ [c, t] ++ f)).getD 2 0 = c := by
      simp [withCheck, be16]
    have h3 : (withCheck (be16 (f.length + 2) ++ [c, t] ++ f)).getD 3 0 = t := by
      simp [withCheck, be16]
    have hf : ((withCheck (be16 (f.length + 2) ++ [c, t] ++ f)).take (f.length + 6 - 2)).drop 4 = f := by
      have : (be16 (f.length + 2) ++ [c, t] ++ f).length = f.length + 6 - 2 := by
        simp [be16]
      rw [withCheck, ← this, List.take_left, hbody]
      rfl
    rw [h2, h3, hf]
  have hread : linkEvents (messageBytes c t f) = readLink (rest.length + 1) (0xA5 :: rest) := by
    rw [messageBytes_eq, hr]; rfl
  have hnil : ∀ n, readLink n [] = ([], []) := by intro n; cases n <;> rfl
  rw [hread, readLink, if_neg (by simp), if_neg (by omega), hL]
  rw [if_neg (by simp [lengthOutOfRange]; omega)]
  dsimp only
  rw [if_neg (by omega), hend]
  simp only [LinkEvent.huntFrom, LinkEvent.before]
  rw [List.drop_eq_nil_of_le (by omega), hnil]

/-- A message that finds the receiver holding nothing is taken, and leaves it so (R152, R186). -/
theorem receive_messageBytes (c t : Byte) (f : List Byte) (s : State) (h : f.length ≤ 257)
    (hr : s.crew.receiver = []) : receive (messageBytes c t f) s = takeMessage c t f s := by
  have hs : s.withCrew { s.crew with receiver := [] } = s := by
    rw [← hr]
    rfl
  simp only [receive, hr, List.nil_append, linkEvents_messageBytes c t f h, hs, takeLinkEvents,
    takeLinkEvent]

/-- A request of the hub that finds the receiver holding nothing is taken on its channel by its type code
(R152, R156). -/
theorem hubMessage_request (ch : Fin 4) (n : Nat) (f : List Byte) (s : State) (h : f.length ≤ 257)
    (hr : s.crew.receiver = []) (hn : 1 ≤ n) (hn' : n ≤ 255) :
    hubMessage ch n f s = takeByType ch n f (linkAlive s) := by
  have hc : (byte ch.val).toNat = ch.val := by
    simp only [byte, BitVec.toNat_ofNat]; omega
  have ht : (byte n).toNat = n := by simp only [byte, BitVec.toNat_ofNat]; omega
  rw [hubMessage, receive_messageBytes _ _ _ _ h hr, takeMessage, dif_pos (by omega), ht,
    if_neg (by simp [typeIdle]; omega)]
  congr 1
  exact Fin.ext hc

/-- An IDLE that finds the receiver holding nothing sets the link silence timer to 0 alone (R152). -/
theorem hubMessage_idle (ch : Fin 4) (f : List Byte) (s : State) (h : f.length ≤ 257)
    (hr : s.crew.receiver = []) : hubMessage ch typeIdle f s = linkAlive s := by
  have hc : (byte ch.val).toNat = ch.val := by
    simp only [byte, BitVec.toNat_ofNat]; omega
  rw [hubMessage, receive_messageBytes _ _ _ _ h hr, takeMessage, dif_pos (by omega)]
  rfl

end Sys2Proof.Machine
end

