-- ==== Sys2Proof/Tests/Slice0.lean ====
section
/-!
SUPPORT. The model's own tests: terms that WellFormed refuses, values of the spec's tables and worked
sequences, one small test of each command, and for each obligation with hypotheses a state that meets them.
-/
namespace Sys2Proof.Tests
open Sys2Proof Sys2Proof.Machine
-- One theorem is checked at a time: each is one kernel evaluation, and many at once take much memory.
set_option Elab.async false

/-! ## Helpers -/

/-- The state a command answers. -/
def after (i : Instr) (s : State) : State :=
  match exec i s with
  | .next t => t
  | .fault _ => s
  | .refused _ => s

/-- A RUNNING station with nothing to do: no START owed, an image layout, point 0 in FAULT. -/
def calm : State :=
  { State.reset with
    control := { State.reset.control with running := true, step := .directory 2, revision := some 3 }
    pub := { Publisher.reset with startPending := false, fullsetDue := false }
    store := { PlanStore.reset with layout := some ⟨1, 251, 768, 100⟩ } }

/-- The channel attached with crew id 7. -/
def attach (role : Role) (ch : Fin 4) (s : State) : State :=
  s.setChannel ch { s.channel ch with attached := some ⟨role, 7⟩ }

/-- A channel changed. -/
def onChannel (ch : Fin 4) (f : Channel → Channel) (s : State) : State := s.setChannel ch (f (s.channel ch))

/-- The bundle of a channel changed. -/
def onBundle (ch : Fin 4) (f : Bundle → Bundle) (s : State) : State := s.setBundle ch (f (s.bundle ch))

/-- A foreign ALARM entry on sheet 4, floor 12. -/
def alarmAt (station index since : Nat) : Entry :=
  { addr := ⟨station, index⟩, state := .alarm, datum := .level 200, place := some ⟨4, 10, 20⟩,
    loc := ⟨12, 3⟩, localSince := since, learned := since, confirmed := true, sweep := false }

/-- The state with one more entry, counted by the Monitor where it is in ALARM. -/
def holding (e : Entry) (s : State) : State := placeEntry e s

/-- A scan in which every raw value is the same. -/
def readings (b : Byte) : Readings := ⟨List.replicate 64 b, List.length_replicate⟩

/-- An intact block with the given content. -/
def blockOf (content : List Byte) : BlockBytes :=
  ⟨withCheck ((content ++ List.replicate 254 0).take 254), by
    simp only [withCheck, be16, List.length_append, List.length_take, List.length_replicate,
      List.length_cons, List.length_nil]
    omega⟩

/-- A block whose check fails. -/
def badBlock : BlockBytes := ⟨List.replicate 256 1, List.length_replicate⟩

/-- A good header: layout 1, 251, 768 and 100 sheets, revision 5. -/
def header : List Byte :=
  [0x5A, 0x3C, 0xA5, 0xC3, 0, 5, 0, 100, 0, 0, 0, 1, 0, 0, 0, 251, 0, 0, 3, 0]

/-- A frame of station 9. -/
def frame9 (kind : FrameKind) (first last start : Bool) (seq count : Nat) (body : List Byte) : RxFrame :=
  { kind := kind, first := first, last := last, start := start, station := 9, seq := seq, seed := 193,
    count := count, body := body }

/-- An origin that has been heard, held sequence 5. -/
def heard (status : OriginStatus) : OriginRecord :=
  { OriginRecord.cold with status := status, held := some 5 }

/-- The frame waits at the head of the receive queue, its origin as given. -/
def hearing (f : RxFrame) (o : OriginRecord) (s : State) : State :=
  (s.withMerge { s.merge with queue := [f] }).modOrigin 9 (fun _ => o)

/-- A POINT record: index 4, ALARM, level 200, sheet 4 at (10, 20), floor 12, compartment 3, age 2. -/
def pointRecord : Record := ⟨.point, 4, .alarm, 200, some ⟨4, 10, 20⟩, ⟨12, 3⟩, 2⟩

/-- A frame in the own slot. -/
def ownFrame (kind : FrameKind) (body : FrameBody) : TxFrame :=
  { kind := kind, first := kind == .fullset, last := false, start := false, station := 1, seq := 0,
    seed := 193, body := body }

/-- The transmitter in a state. -/
def withTx (tx : Transmitter) (s : State) : State := s.withRiser { s.riser with tx := tx }

/-- The kinds of the mark updates queued on a channel, in order. -/
def kindsOn (ch : Fin 4) (s : State) : List ChangeKind :=
  (s.channel ch).queue.filterMap fun
    | .markUpdate kind _ _ => some kind
    | _ => none

/-- A channel attached and looking at a sheet. -/
def viewing (sheet : Nat) (ch : Fin 4) (s : State) : State :=
  onChannel ch (fun c => { c with currentSheet := some sheet }) (attach .view ch s)

/-- A station whose handles lie in a bank that is not populated. -/
def farHandles (s : State) : State :=
  s.withStore { s.store with layout := some ⟨1, 251, 9000, 100⟩ }

/-! ## Well-formedness -/

theorem test_refuses_silence_expiry_of_no_station :
    (Instr.silenceExpiry 0).wellFormed = false ∧ (Instr.silenceExpiry 251).wellFormed = false ∧
      (Instr.silenceExpiry 250).wellFormed = true := by decide +kernel

theorem test_refuses_await_expiry_of_no_station :
    (Instr.awaitTimerExpiry 0).wellFormed = false ∧ (Instr.awaitTimerExpiry 251).wellFormed = false := by
  decide +kernel

theorem test_refuses_mismatch_beyond_the_longest_frame :
    (Instr.mismatch 176).wellFormed = false ∧ (Instr.mismatch 175).wellFormed = true := by
  decide +kernel

theorem test_refuses_fields_longer_than_a_message :
    ∀ f : List Byte, f = List.replicate 258 0 →
      ∀ i ∈ [Instr.idle 0 f, .attach 0 f, .detach 0 f, .sheet 0 f, .watch 0 f, .unwatch 0 f, .mark 0 f,
        .unmark 0 f, .isolate 0 f, .deisolate 0 f, .restore 0 f, .list 0 f, .stations 0 f,
        .collect 0 f, .unknownTypeRequest 0 14 f, .strayChannelMessage 4 (0 :: f)],
        i.wellFormed = false := by
  intro f hf; subst hf; decide +kernel

theorem test_refuses_bad_check_message_that_is_no_bad_message :
    (Instr.badCheckMessage []).wellFormed = false ∧
      (Instr.badCheckMessage (encodeMessage 0 .resume)).wellFormed = false ∧
      (Instr.badCheckMessage [0xA5, 0, 2, 0, 0, 0, 0]).wellFormed = true := by decide +kernel

theorem test_refuses_length_in_range :
    (Instr.lengthOutOfRange 2).wellFormed = false ∧ (Instr.lengthOutOfRange 259).wellFormed = false ∧
      (Instr.lengthOutOfRange 1).wellFormed = true ∧ (Instr.lengthOutOfRange 260).wellFormed = true := by
  decide +kernel

theorem test_refuses_stray_message_on_a_channel :
    (Instr.strayChannelMessage 3 [0]).wellFormed = false ∧
      (Instr.strayChannelMessage 4 []).wellFormed = false ∧
      (Instr.strayChannelMessage 4 [0]).wellFormed = true := by decide +kernel

theorem test_refuses_unknown_type_that_is_known :
    (Instr.unknownTypeRequest 0 13 []).wellFormed = false ∧
      (Instr.unknownTypeRequest 0 14 []).wellFormed = true := by decide +kernel

/-! ## Values of the spec's tables and worked sequences -/

/-- R180: the check word of the nine digits. -/
theorem test_check_word_of_the_digits :
    checkWord [0x31, 0x32, 0x33, 0x34, 0x35, 0x36, 0x37, 0x38, 0x39] = 0x29B1#16 := by decide +kernel

/-- R20: ranks and classes. -/
theorem test_ranks_and_classes :
    ([PointState.alarm, .hazard, .crewPresent, .prealarm, .searched, .fault, .isolated, .cleared].map
      (fun p => (p.rank, p.classCode))) =
      [(7, 0), (6, 1), (5, 1), (4, 0), (3, 1), (2, 2), (1, 2), (0, 3)] := by decide +kernel

/-- R134: the directory of a station begins at entry 64 times its number less one, 31 to a block. -/
theorem test_directory_blocks :
    dirBlockCount 1 = 3 ∧ dirSlots 1 0 = List.range 31 ∧
      ((List.range 4).map (dirSlots 6)).flatten.length = 64 := by decide +kernel

/-- The table gives no row any bits, so no word spells a command. -/
theorem test_no_word_spells_a_command : decodeTableWord 8 0 = none ∧ decodeTableWord 32 7 = none := by
  decide +kernel

/-- R185: a message of the part on the link. -/
theorem test_message_bytes :
    (encodeMessage 2 (.answer 13 .ok 16)).take 8 = [0xA5, 0, 5, 2, 64, 13, 0, 16] := by decide +kernel

/-- R186: a bad message uncovers a whole message behind its opening byte, and a bad length another; a byte that
is no opening byte is passed over, and a message that has not ended is held. -/
theorem test_receiver_hunts_again :
    linkEvents ([7, 0xA5, 0, 3, 1, 1, 1, 0, 0] ++ messageBytes 0 0 []) =
        ([.badCheck, .message 0 0 []], []) ∧
      linkEvents ([0xA5, 1, 4] ++ messageBytes 2 13 [] ++ [0xA5, 0, 9, 1]) =
        ([.badLength, .message 2 13 []], [0xA5, 0, 9, 1]) ∧
      linkEvents (messageBytes 4 1 [9]) = ([.message 4 1 [9]], []) := by decide +kernel

/-- R186: a request that a bad message held within itself is taken when the bad message ends. -/
theorem test_uncovered_request_is_taken :
    let s := after (.badCheckMessage ([0xA5, 0, 11, 1, 1] ++ messageBytes 2 13 [] ++ [0, 0, 0, 0])) calm
    s.crew.badCheck = 1 ∧ s.crew.receiver = [] ∧ (s.channel 2).queue = [.answer 13 .notAttached 0] := by
  decide +kernel

/-- R36: a frame taken between a tick and its hold removals finds the held-out entry there; the removal comes
with the next command that settles. -/
theorem test_frame_before_the_hold_removals :
    let f := frame9 .state false false false 6 1 (encodeRecord { pointRecord with state := .fault })
    let s := hearing f (heard .live) (calm.putEntry { alarmAt 9 4 0 with state := .cleared })
    let late := s.withControl { s.control with tick := 700 }
    let held := late.withDue { late.due with hold := true }
    ((after .stateFrame held).entryAt ⟨9, 4⟩).map Entry.state = some .fault ∧
      ((after .stateFrame (after .holdExpiry held)).entryAt ⟨9, 4⟩).map Entry.learned = some 700 ∧
      (after .stateFrame held).due.hold = true := by decide +kernel

/-- 9.8: an alarm on sheet 214 at four channels; the third matches its watch, and the NotifyVector keeps it
from the fourth. -/
theorem test_one_change_at_four_channels :
    let e : Entry := { alarmAt 31 9 0 with place := some ⟨214, 1, 1⟩ }
    let pc : PictureChange := ⟨.state, e, some .prealarm, none⟩
    let s0 := onChannel 0 (fun c => { c with currentSheet := some 214 }) (attach .command 0 calm)
    let s1 := onBundle 1 (fun b => { b with state := .overlay, sheet := some 214 })
      (onChannel 1 (fun c => { c with currentSheet := some 300 }) (attach .search 1 s0))
    let s2 := onChannel 2 (fun c => { c with currentSheet := some 300, watch0 := some ⟨.floor 12, 4⟩ })
      (attach .supply 2 s1)
    let s3 := onChannel 3 (fun c => { c with watch0 := some ⟨.floorBand 9, 0⟩ }) (attach .view 3 s2)
    let s := s3.withCrew { s3.crew with notifyVector := 0xFFF7 }
    let t := routeChange pc s
    (t.channel 0).queue.length = 1 ∧ (t.channel 1).queue = [] ∧ (t.bundle 1).late = [⟨31, 9⟩] ∧
      (t.channel 2).queue.length = 1 ∧ (t.channel 3).queue = [] := by decide +kernel

/-- 9.9: the update that brings the queue to 21 sets the condensed flag; the next is held back. -/
theorem test_a_terminal_that_falls_behind :
    let s := onChannel 1 (fun c => { c with currentSheet := some 4, queue := List.replicate 20 .resume })
      (attach .search 1 calm)
    let one := routeChange (plainChange .admission (alarmAt 31 10 0)) s
    let two := routeChange (plainChange .level (alarmAt 31 10 0)) one
    ((one.channel 1).queue.length, (one.channel 1).condensed, (one.channel 1).notices) = (21, true, 0) ∧
      ((two.channel 1).queue.length, (two.channel 1).notices) = (22, 16) := by decide +kernel

/-- The part at rest stays as it is. -/
theorem test_calm_is_settled : settle calm = calm := by decide +kernel

/-! ## Resets and ticks: states that meet the hypotheses, and what the commands do there -/

/-- A picture of one own marker at 64 and one foreign alarm of station 9. -/
def pictured : State := holding (alarmAt 9 4 0) (createMarker 64 .hazard 7 (some ⟨4, 1, 1⟩) ⟨12, 3⟩ calm)

theorem tableOk_calm : TableOk calm := ⟨⟨by decide +kernel, trivial⟩, by decide +kernel, by decide +kernel⟩

theorem tableOk_pictured : TableOk pictured :=
  ⟨⟨by decide +kernel, by decide +kernel, by decide +kernel, trivial⟩, by decide +kernel,
    by decide +kernel⟩

theorem witness_HeldPartOnlyCountsTicks :
    (after .resetAssert calm).control.resetHeld = true ∧
      (after .resetAssert calm).control.tick < 4294967295 ∧
      after (.collect 0 []) (after .resetAssert calm) = after .resetAssert calm := by decide +kernel

theorem witness_ColdStartResult :
    (after (.coldStart ⟨250, 0, .mb2⟩) calm).control.step = .header ∧
      (after (.coldStart ⟨1, 3, .mb16⟩) calm).control.step = .header ∧
      (after (.coldStart ⟨0, 0, .mb2⟩) calm).control.step = .held ∧
      (after (.coldStart ⟨251, 0, .mb2⟩) calm).control.step = .held := by decide +kernel

theorem witness_WarmRestartKeepsThePicture :
    TableOk pictured ∧
      ((after (.warmRestart resetStraps) pictured).entryAt ⟨9, 4⟩).map Entry.confirmed = some false ∧
      ((after (.warmRestart resetStraps) pictured).ownAt 64).map Entry.state = some .hazard ∧
      (after (.warmRestart ⟨2, 0, .mb2⟩) pictured).entryAt ⟨1, 64⟩ = none ∧
      ((after (.warmRestart resetStraps) pictured).origin 9).status = .silent ∧
      (after (.warmRestart resetStraps) pictured).incident.origin = some ⟨⟨9, 4⟩, ⟨12, 3⟩, 0⟩ ∧
      (after (.warmRestart ⟨9, 0, .mb2⟩) pictured).incident.active = false :=
  ⟨tableOk_pictured, by decide +kernel⟩

theorem witness_TickAdvancesTheTimers :
    let s := calm.modOrigin 9 (fun _ => { heard .live with resync := .awaiting 3 })
    s.control.resetHeld = false ∧ (settle s).control.tick < 4294967295 ∧
      ((settle s).origin 9).resync = .awaiting 3 ∧
      ((after (.tick (readings 50) .scanFirst) s).origin 9).silence = 1 ∧
      (settle State.reset).control.running = false ∧
      (after (.tick (readings 50) .scanFirst) (calm.modOrigin 9 (fun _ =>
        { heard .live with silence := 194 }))).due.silence = [9] ∧
      (after (.tick (readings 50) .scanFirst) (calm.modOrigin 9 (fun _ =>
        { heard .live with silence := 193 }))).due.silence = [] := by decide +kernel

theorem witness_ScanAppliesTheChangeRule :
    calm.control.resetHeld = false ∧ (settle calm).control.running = true ∧
      (settle calm).scanner.channels.length = 64 ∧ (settle calm).scanner.kind 5 = .detector ∧
      ((settle calm).scanner.chan 5).state = .normal ∧
      ((after (.tick (readings 200) .scanFirst) calm).scanner.chan 5).counter = 1 ∧
      ([(216, 8), (215, 8), (184, 8), (216, 7)].map fun (v, n) =>
        let alarmed := holding (alarmAt 1 5 0) (calm.modChan 5 (fun c =>
          { c with state := .alarm, lastLevel := 200 }))
        let t := after (.tick (readings (byte v)) .scanFirst)
          (alarmed.withScanner { alarmed.scanner with divider := n })
        ((t.scanner.chan 5).lastLevel, t.pub.level, (t.ownAt 5).map Entry.datum, t.scanner.divider)) =
        [(216, [5], some (.level 216), 1), (200, [], some (.level 200), 1),
         (184, [5], some (.level 184), 1), (200, [], some (.level 200), 8)] := by decide +kernel

/-- The checks of a tick wait. -/
def dueAll (s : State) : State := s.withDue ⟨[9], true, true, true, true, true⟩

theorem witness_HoldExpiryRemovesWhatIsHeldOut :
    let s := dueAll (pictured.putEntry { alarmAt 9 4 0 with state := .cleared })
    let late := s.withControl { s.control with tick := 600 }
    late.control.resetHeld = false ∧ late.due.hold = true ∧ TableOk late ∧
      late.entryAt ⟨9, 4⟩ ≠ none ∧ (after .holdExpiry late).entryAt ⟨9, 4⟩ = none ∧
      kindsOn 0 (after .holdExpiry (viewing 4 0 late)) = [.remove] :=
  ⟨by decide +kernel, by decide +kernel,
    ⟨⟨by decide +kernel, by decide +kernel, by decide +kernel, trivial⟩, by decide +kernel,
      by decide +kernel⟩, by decide +kernel, by decide +kernel, by decide +kernel⟩

/-- The marker at 64, CLEARED for the ticks given, its older copy in the slot's frame. -/
def clearedMarker (ticks : Nat) : State :=
  let s := dueAll (after (.unmark 2 [64]) (attach .command 2 pictured))
  (s.withControl { s.control with tick := ticks }).withPub { s.pub with copiesInFlight := [64, 70] }

theorem witness_HoldExpiryHandsTheCopyOver :
    let t := after .holdExpiry (clearedMarker 600)
    (clearedMarker 600).pub.copies.length = 16 ∧
      ((clearedMarker 600).ownAt 64).map Entry.state = some .cleared ∧ t.ownAt 64 = none ∧
      t.pub.copyAt 64 = some ⟨7, some ⟨4, 1, 1⟩, ⟨12, 3⟩⟩ ∧ t.pub.copiesInFlight = [70] ∧
      (after .holdExpiry (clearedMarker 599)).pub = (clearedMarker 599).pub := by decide +kernel

theorem witness_RecoveryStartTakesTheLowestOrigin :
    let s := dueAll (calm.modOrigin 9 (fun _ => { heard .gapped with overflow := true }))
    s.control.resetHeld = false ∧ s.due.recovery = true ∧ s.table.recovery = none ∧
      64 ≤ s.freeCount ∧ (s.origin 9).overflow = true ∧ (s.origin 9).status ≠ .silent ∧
      (s.origin 9).status ≠ .unknown ∧
      (∀ y < 9, 1 ≤ y → ¬((s.origin y).overflow = true ∧ (s.origin y).status ≠ .silent ∧
        (s.origin y).status ≠ .unknown)) ∧
      (after .recoveryStart s).table.recovery = some ⟨9, false⟩ ∧
      (after .recoveryStart (dueAll calm)).table.recovery = none := by decide +kernel

theorem witness_SilenceExpirySilencesTheOrigin :
    let s := dueAll (attach .view 2 (pictured.modOrigin 9 (fun _ => { heard .live with silence := 195 })))
    let none := s.setEntries []
    s.control.resetHeld = false ∧ TableOk s ∧ 9 ≤ s.table.origins.length ∧ 9 ∈ s.due.silence ∧
      (s.origin 9).status = .live ∧ 3 * (s.origin 9).interval + 2 < (s.origin 9).silence ∧
      ((after (.silenceExpiry 9) s).origin 9).status = .silent ∧ s.isAttached 2 = true ∧
      NoticeSet.has ((after (.silenceExpiry 9) s).channel 2).notices .originSilent = true ∧
      NoticeSet.has ((after (.silenceExpiry 9) none).channel 2).notices .originSilent = false ∧
      kindsOn 0 (after (.silenceExpiry 9) (viewing 4 0 s)) = [.unconfirm] :=
  ⟨by decide +kernel, tableOk_pictured, by decide +kernel⟩

theorem witness_TimerExpiriesTakeEffect :
    let s := dueAll (calm.modOrigin 9 (fun _ => { heard .gapped with resync := .awaiting 0 }))
    let held := s.withIncident { s.incident with active := true, hold := some 3000 }
    (s.origin 9).resync = .awaiting 0 ∧ 9 ≤ s.table.origins.length ∧ s.control.resetHeld = false ∧
      ((after (.awaitTimerExpiry 9) s).origin 9).resync = .wanted ∧
      (calm.withPub { calm.pub with summaryCounter := 0 }).control.running = true ∧
      (after .summaryCounterExpiry (calm.withPub { calm.pub with summaryCounter := 0 })).pub.summaryDue
        = true ∧
      held.due.incidentHold = true ∧ held.incident.incidentHold ≤ 3000 ∧
      (after .incidentHoldExpiry held).incident.active = false ∧
      s.due.stuck = true ∧ s.hasCondition .line = false ∧
      (after .stuckEvent s).hasCondition .line = true ∧
      (attach .view 2 s).isAttached 2 = true ∧ (s.setCondition .line).hasCondition .line = true := by
  decide +kernel

theorem witness_LinkLossFreesEveryChannel :
    let s := dueAll (attach .view 2 calm)
    s.control.resetHeld = false ∧ s.due.linkLoss = true ∧
      (after .linkLoss s).channel 2 = Channel.reset := by decide +kernel

/-! ## Point scanning -/

/-- R3: every clause at the ends of its range, for the default thresholds. -/
theorem witness_ReadingLiesInItsBand :
    ([8, 9, 95, 96, 159, 160, 254, 255].map (bandOf Thresholds.default)) =
      [.fault, .normal, .normal, .prealarm, .prealarm, .alarm, .alarm, .fault] ∧
      Thresholds.default.faultLow < Thresholds.default.pre ∧
      Thresholds.default.pre ≤ Thresholds.default.alarm ∧ Thresholds.default.alarm ≤ 254 ∧
      ([ChannelKind.detector, .callpoint, .flow, .supervisory].map fun k =>
        [Band.fault, .normal, .prealarm, .alarm].map (effectiveBand k)) =
        [[.fault, .normal, .prealarm, .alarm], [.fault, .normal, .normal, .alarm],
         [.fault, .normal, .normal, .alarm], [.fault, .normal, .normal, .fault]] := by
  decide +kernel

theorem witness_ConfigurationIsNormalised :
    orderThresholds ⟨255, 0, 255⟩ = ⟨0, 1, 254⟩ ∧ orderThresholds ⟨8, 96, 160⟩ = ⟨8, 96, 160⟩ ∧
      orderThresholds ⟨0, 255, 0⟩ = ⟨0, 1, 1⟩ := by decide +kernel

/-- A channel in ALARM with its candidate NORMAL counted to 2. -/
def releasing (armed : Bool) : ScanChannel := ⟨.alarm, some .normal, 2, armed, 200⟩

theorem witness_ConfirmationFollowsTheCounter :
    classify .default false (releasing false) .normal = ({ releasing false with counter := 3 }, some .normal) ∧
      classify .default true (releasing true) .normal =
        ({ releasing true with counter := 3, armed := false }, some .normal) ∧
      classify .default true (releasing false) .normal = ({ releasing false with counter := 3 }, none) ∧
      classify .default true (releasing true) .fault = (releasing true, none) := by decide +kernel

theorem witness_ScanChangeWritesTheOwnEntry :
    let s := changeScanState 5 .alarm (some 200) calm
    5 < calm.scanner.channels.length ∧ (s.ownAt 5).map Entry.state = some .alarm ∧
      calm.ownAt 6 = none ∧ (changeScanState 6 .normal (some 20) calm).ownAt 6 = none ∧
      s.ownAt 5 ≠ none ∧ 0 < s.table.clearHold ∧
      ((changeScanState 5 .normal (some 20) s).ownAt 5).map Entry.state = some .cleared := by
  decide +kernel

/-- R14, R178: point 0 leaves FAULT and enters it again. -/
theorem witness_ScanChangeSetsAndClearsSupply :
    let well := changeScanState 0 .normal (some 20) (attach .view 2 calm)
    let ill := changeScanState 0 .fault (some 0) well
    (calm.scanner.chan 0).state = .fault ∧ calm.hasCondition .supply = true ∧
      well.hasCondition .supply = false ∧ ill.hasCondition .supply = true ∧
      NoticeSet.has (well.channel 2).notices .stationFault = false ∧
      NoticeSet.has (ill.channel 2).notices .stationFault = true ∧
      (changeScanState 1 .fault (some 0) well).hasCondition .supply = false := by decide +kernel

/-- R21, R22, R27: a first entry is told with ADMIT, its change with STATE, and its end with REMOVE behind the
STATE where ClearHold is 0. -/
theorem witness_ScanChangeIsTold :
    let s := viewing 1023 0 (calm.withScanner { calm.scanner with cfg := { calm.scanner.cfg with
      channels := List.replicate 64 { ChannelConfig.default with place := some ⟨1023, 1, 1⟩ } } })
    let one := changeScanState 5 .prealarm (some 100) s
    let two := changeScanState 5 .alarm (some 200) one
    let noHold := two.withTable { two.table with clearHold := 0 }
    one.ownAt 5 ≠ none ∧ kindsOn 0 two = [.admission, .state] ∧
      kindsOn 0 (changeScanState 5 .normal (some 20) two) = [.admission, .state, .state] ∧
      (changeScanState 5 .normal (some 20) noHold).ownAt 5 = none ∧
      kindsOn 0 (changeScanState 5 .normal (some 20) noHold) = [.admission, .state, .state, .remove] ∧
      kindsOn 0 (changeScanState 6 .normal (some 20) s) = [] := by decide +kernel

/-- The station with channel 6 UNUSED and channel 7 LATCHED. -/
def configured : State :=
  calm.withScanner { calm.scanner with cfg := { ScanConfig.default with
    channels := (List.range 64).map fun i =>
      { ChannelConfig.default with kind := if i = 6 then .unused else .detector, latched := i == 7 } } }

theorem witness_ScannerAnswersRequests :
    (configured.scanner.config 6).kind = .unused ∧ scanAnswer .isolate 64 configured = .badPoint ∧
      scanAnswer .restore 6 configured = .badPoint ∧ scanAnswer .isolate 0 configured = .badPoint ∧
      scanAnswer .deisolate 0 configured = .ok ∧ scanAnswer .restore 63 configured = .notLatched ∧
      scanAnswer .restore 0 configured = .notLatched ∧ scanAnswer .restore 7 configured = .ok := by
  decide +kernel

theorem witness_PointRequestsOnACommandChannel :
    let s := attach .command 1 configured
    let isolated := after (.isolate 1 [5]) s
    let alarmed := s.modChan 7 (fun c => { c with state := .alarm })
    s.control.resetHeld = false ∧ (settle s).crew.receiver = [] ∧
      (settle s).control.running = true ∧
      ((settle s).channel 1).pendingAnswer = none ∧
      ((settle s).channel 1).attached = some ⟨.command, 7⟩ ∧
      (settle s).scanner.channels.length = 64 ∧
      (isolated.scanner.chan 5).state = .isolated ∧
      (isolated.ownAt 5).map Entry.state = some .isolated ∧
      ((after (.deisolate 1 [5]) isolated).scanner.chan 5).state = .normal ∧
      ((after (.restore 1 [7]) alarmed).scanner.chan 7).armed = true ∧
      ((after (.isolate 1 [5]) (attach .view 1 configured)).channel 1).queue =
        [.answer 8 .notPermitted 0] := by decide +kernel

/-! ## The picture -/

theorem witness_VictimComesFirstInItsOrder :
    pictured.victim = some (alarmAt 9 4 0) ∧ pictured.foreign ≠ [] ∧ calm.foreign = [] := by
  decide +kernel

theorem rising_of_pairwise {l : List Entry} (h : l.Pairwise (fun a b => a.addr.before b.addr = true)) :
    Rising l := by
  induction h with
  | nil => trivial
  | cons hx _ ih => exact ⟨hx, ih⟩

theorem tableOk_of_pairwise {s : State}
    (h : s.entries.Pairwise (fun a b => a.addr.before b.addr = true))
    (i : ∀ e ∈ s.entries, e.addr.index ≤ 79) (f : s.entries.length ≤ 560) : TableOk s :=
  ⟨rising_of_pairwise h, i, (List.length_filter_le _ _).trans f⟩

/-- 560 entries of stations 2 to 8 in one state. -/
def fullEntries (state : PointState) : List Entry :=
  (List.range 560).map fun n => { alarmAt (2 + n / 80) (n % 80) 0 with state := state }

/-- A table whose pool is full. -/
def full (state : PointState) : State := calm.setEntries (fullEntries state)

theorem entries_of_setEntries (s : State) (l : List Entry) : (s.setEntries l).entries = l := rfl

theorem full_entries (state : PointState) : (full state).entries = fullEntries state := by
  unfold full
  exact entries_of_setEntries calm _

theorem pairwise_fullEntries (state : PointState) :
    (fullEntries state).Pairwise (fun a b => a.addr.before b.addr = true) := by
  unfold fullEntries
  rw [List.pairwise_map]
  have lt : (List.range 560).Pairwise (· < ·) := List.pairwise_lt_range
  refine lt.imp ?_
  intro a b h
  exact decide_eq_true (show 2 + a / 80 < 2 + b / 80 ∨ (2 + a / 80 = 2 + b / 80 ∧ a % 80 < b % 80) by
    omega)

theorem index_fullEntries (state : PointState) : ∀ e ∈ fullEntries state, e.addr.index ≤ 79 := by
  intro e he
  obtain ⟨n, _, rfl⟩ := List.mem_map.mp he
  exact Nat.le_of_lt_succ (Nat.mod_lt n (by decide))

theorem length_fullEntries (state : PointState) : (fullEntries state).length = 560 := by
  unfold fullEntries
  rw [List.length_map, List.length_range]

theorem tableOk_full (state : PointState) : TableOk (full state) :=
  tableOk_of_pairwise (full_entries state ▸ pairwise_fullEntries state)
    (full_entries state ▸ index_fullEntries state)
    (full_entries state ▸ le_of_eq (length_fullEntries state))

theorem witness_AdmissionTakesAPlaceEvictsOrDrops :
    TableOk calm ∧ TableOk (full .fault) ∧ TableOk (full .alarm) ∧ calm.foreign.length < 560 ∧
      calm.entryAt ⟨9, 4⟩ = none ∧ (full .fault).entryAt ⟨9, 4⟩ = none ∧
      (full .fault).foreign.length = 560 ∧
      (full .fault).victim.map Entry.addr = some ⟨8, 79⟩ ∧
      (applyRecord 9 pointRecord (full .fault)).entryAt ⟨8, 79⟩ = none ∧
      ((applyRecord 9 pointRecord (full .fault)).origin 8).overflow = true ∧
      (applyRecord 9 pointRecord (full .alarm)).entryAt ⟨9, 4⟩ = none ∧
      ((applyRecord 9 pointRecord (full .alarm)).origin 9).overflow = true ∧
      kindsOn 0 (applyRecord 9 pointRecord (viewing 4 0 calm)) = [.admission] ∧
      kindsOn 0 (applyRecord 9 pointRecord (viewing 4 0 (full .fault))) = [.evict, .admission] ∧
      kindsOn 0 (applyRecord 9 pointRecord (viewing 4 0 (full .alarm))) = [] :=
  ⟨tableOk_calm, tableOk_full _, tableOk_full _, by decide +kernel⟩

theorem witness_StateFrameAppliesItsRecords :
    let f := frame9 .state false false false 6 1 (encodeRecord pointRecord)
    let s := hearing f (heard .live) calm
    TableOk pictured ∧ pictured.entryAt ⟨9, 4⟩ = some (alarmAt 9 4 0) ∧
      calm.entryAt ⟨9, 4⟩ = none ∧
      s.control.resetHeld = false ∧ (atOnce s).control.step ≠ .held ∧ (atOnce s).merge.queue = [f] ∧
      flagsAgree f = true ∧ ((atOnce s).origin 9).held = some 5 ∧ seqDistance 5 f.seq = 1 ∧
      ((atOnce s).origin 9).status = .live ∧
      ((after .stateFrame s).entryAt ⟨9, 4⟩).map Entry.state = some .alarm ∧
      (after .stateFrame s).incident.alarmCount = 1 :=
  ⟨tableOk_pictured, by decide +kernel⟩

/-- R22, row by row: a state, then a level, location or place, then a confirmation, then nothing; a state that
ends the hold at once is followed by its removal. -/
theorem witness_RecordIsToldByTheFirstRow :
    let s := viewing 4 0 pictured
    let doubted := s.setEntries (s.entries.map fun e => { e with confirmed := false })
    let noHold := s.withTable { s.table with clearHold := 0 }
    let gone := { pointRecord with state := .cleared, age := 0 }
    let moved := applyRecord 9 { pointRecord with place := some ⟨5, 1, 1⟩ } s
    TableOk pictured ∧ kindsOn 0 (applyRecord 9 { pointRecord with state := .fault, value := 1 } s) = [.state] ∧
      kindsOn 0 (applyRecord 9 { pointRecord with value := 201 } s) = [.level] ∧
      kindsOn 0 (applyRecord 9 { pointRecord with loc := ⟨12, 4⟩ } doubted) = [.level] ∧
      kindsOn 0 moved = [.level] ∧
      kindsOn 0 (applyRecord 9 pointRecord doubted) = [.confirm] ∧
      kindsOn 0 (applyRecord 9 pointRecord s) = [] ∧
      kindsOn 0 (applyRecord 9 gone s) = [.state] ∧
      kindsOn 0 (applyRecord 9 gone noHold) = [.state, .remove] ∧
      (applyRecord 9 gone noHold).entryAt ⟨9, 4⟩ = none ∧
      kindsOn 0 (applyRecord 9 { pointRecord with kind := .level, value := 201 } s) = [.level] ∧
      kindsOn 0 (applyRecord 9 { pointRecord with kind := .level } s) = [] :=
  ⟨tableOk_pictured, by decide +kernel⟩

theorem witness_MarkCreatesAMarker :
    let s := attach .search 2 calm
    let many := s.setEntries ((List.range 16).map fun n => alarmAt 1 (64 + n) 0)
    (settle s).crew.receiver = [] ∧ s.control.resetHeld = false ∧ (settle s).control.running = true ∧
      ((settle s).channel 2).pendingAnswer = none ∧
      ((settle s).channel 2).attached = some ⟨.search, 7⟩ ∧ ofBe16 3 255 = 1023 ∧
      (settle s).ownAt 64 = none ∧
      ((after (.mark 2 [6, 3, 255, 0, 0, 0, 0, 12, 3]) s).ownAt 64).map Entry.datum = some (.crew 7) ∧
      ((after (.mark 2 [5, 3, 254, 15, 255, 0, 0, 127, 15]) s).ownAt 64).map Entry.place =
        some (some ⟨1022, 4095, 0⟩) ∧
      (∀ i < 80, 64 ≤ i → (settle many).ownAt i ≠ none) ∧
      (let copied := (viewing 4 0 s).setCopy 64 (some ⟨9, none, ⟨1, 1⟩⟩)
       (after (.mark 2 [6, 0, 4, 0, 1, 0, 1, 12, 3]) copied).pub.copyAt 64 = none ∧
        kindsOn 0 (after (.mark 2 [6, 0, 4, 0, 1, 0, 1, 12, 3]) copied) = [.admission]) ∧
      ((after (.mark 2 [6, 3, 255, 0, 0, 0, 0, 12, 3]) many).channel 2).queue.getLast? =
        some (.answer 6 .markersFull 0) ∧
      ((after (.mark 2 [6, 3, 255, 0, 0, 0, 0, 12, 3]) (attach .view 2 calm)).channel 2).queue =
        [.answer 6 .notPermitted 0] := by decide +kernel

theorem witness_UnmarkClearsAMarker :
    let s := attach .search 2 pictured
    (settle s).crew.receiver = [] ∧ s.control.resetHeld = false ∧ (settle s).control.running = true ∧
      ((settle s).channel 2).pendingAnswer = none ∧
      ((settle s).channel 2).attached = some ⟨.search, 7⟩ ∧ 0 < (settle s).table.clearHold ∧
      ((settle s).ownAt 64).map Entry.datum = some (.crew 7) ∧
      ((after (.unmark 2 [64]) s).ownAt 64).map Entry.state = some .cleared ∧
      ((after (.unmark 2 [63]) s).channel 2).queue = [.answer 7 .badPoint 0] ∧
      ((after (.unmark 2 [65]) s).channel 2).queue = [.answer 7 .badPoint 0] ∧
      ((after (.unmark 2 [64]) (attach .view 2 pictured)).channel 2).queue = [.answer 7 .notOwn 0] ∧
      kindsOn 0 (after (.unmark 2 [64]) (viewing 4 0 s)) = [.state] ∧
      (let noHold := viewing 4 0 (s.withTable { s.table with clearHold := 0 })
       let t := after (.unmark 2 [64]) noHold
       kindsOn 0 t = [.state, .remove] ∧ t.ownAt 64 = none ∧ 64 ∈ t.pub.change ∧
        t.pub.copyAt 64 = some ⟨7, some ⟨4, 1, 1⟩, ⟨12, 3⟩⟩) := by decide +kernel

/-! ## Merging peer frames -/

/-- A STATE frame of no effect but its number: one record that R19 refuses. -/
def probe (seq : Nat) : State :=
  hearing (frame9 .state false false false seq 1 (List.replicate 14 0)) (heard .live) calm

theorem witness_SequenceWindowDiscardsOrAccepts :
    (probe 5).control.resetHeld = false ∧ (atOnce (probe 5)).control.step ≠ .held ∧
      flagsAgree (frame9 .state false false false 5 1 (List.replicate 14 0)) = true ∧
      bodyAgrees (frame9 .state false false false 5 1 (List.replicate 14 0)) = true ∧
      ((atOnce (probe 5)).origin 9).held = some 5 ∧
      ([5, 6, 2052, 2053, 4].map fun n =>
        let t := after .stateFrame (probe n)
        (t.merge.repeats, t.merge.old, (t.origin 9).held)) =
        [(1, 0, some 5), (0, 0, some 6), (0, 0, some 2052), (0, 1, some 5), (0, 1, some 5)] := by
  decide +kernel

theorem witness_AcceptedFrameMovesTheStatus :
    let summary := frame9 .summary false false false
    let first := fun (last start : Bool) => frame9 .fullset true last start 40 0 []
    let body : List Byte := [0, 0, 0, 0, 0]
    bodyAgrees (first false true) = true ∧ flagsAgree (first true true) = true ∧
      ((after .fullsetFrame (hearing (first false true) (heard .silent) calm)).origin 9).status =
        .resyncing ∧
      ((after .fullsetFrame (hearing (first true false) OriginRecord.cold calm)).origin 9).status =
        .live ∧
      ((after .summaryFrame (hearing (summary 6 0 body) OriginRecord.cold calm)).origin 9).status =
        .gapped ∧
      ((after .summaryFrame (hearing (summary 7 0 body) (heard .live) calm)).origin 9).resync =
        .wanted ∧
      ((after .summaryFrame (hearing (summary 6 0 body) (heard .silent) calm)).origin 9).status =
        .gapped ∧
      ((after .summaryFrame (hearing (summary 6 0 body) (heard .resyncing) calm)).origin 9).status =
        .resyncing ∧
      (let s := hearing (frame9 .resync false false false 7 2 [3, 9]) (heard .live) calm
       s.control.resetHeld = false ∧ (atOnce s).control.step ≠ .held ∧ s.table.origins.length = 250 ∧
        (atOnce s).merge.queue.length = 1 ∧ (9 : Nat) ≠ (atOnce s).own ∧
        ((atOnce s).origin 9).resync = .none ∧
        ((after .resyncFrame s).origin 9).status = .gapped ∧
        ((after .resyncFrame s).origin 9).resync = .awaiting 40) ∧
      ((after .resyncFrame (hearing (frame9 .resync false false false 7 1 [3]) OriginRecord.cold
        calm)).origin 9).resync = .wanted := by decide +kernel

theorem witness_CompletedSeriesSweeps :
    let s := (hearing (frame9 .fullset false true false 6 0 []) (heard .resyncing) pictured).putEntry
      { alarmAt 9 4 0 with sweep := true }
    TableOk s ∧ s.control.resetHeld = false ∧ (atOnce s).control.step ≠ .held ∧
      ((atOnce s).merge.queue.map RxFrame.last) = [true] ∧ (9 : Nat) ≠ (atOnce s).own ∧
      ((atOnce s).origin 9).status = .resyncing ∧
      ((after .fullsetFrame s).origin 9).status = .live ∧
      (after .fullsetFrame s).entryAt ⟨9, 4⟩ = none ∧
      (after .fullsetFrame s).incident.alarmCount = 0 ∧
      kindsOn 0 (after .fullsetFrame (viewing 4 0 s)) = [.remove] ∧
      (let s := hearing (frame9 .fullset true true false 6 1 (encodeRecord { pointRecord with index := 5 }))
        { heard .silent with held := none } (pictured.putEntry (alarmAt 9 5 0))
       ((atOnce s).origin 9).held = none ∧ ((after .fullsetFrame s).origin 9).status = .live ∧
        (after .fullsetFrame s).entryAt ⟨9, 4⟩ = none ∧
        ((after .fullsetFrame s).entryAt ⟨9, 5⟩).map Entry.sweep = some false) :=
  ⟨⟨⟨by decide +kernel, by decide +kernel, by decide +kernel, trivial⟩, by decide +kernel,
    by decide +kernel⟩, by decide +kernel⟩

theorem witness_SummaryUpdatesItsOrigin :
    let s := fun (a : Byte) =>
      hearing (frame9 .summary false false false 6 0 [a, 1, 0, 8, 0xFF]) (heard .live) calm
    (atOnce (s 0)).control.step ≠ .held ∧ ((atOnce (s 0)).origin 9).status = .live ∧
      ((after .summaryFrame (s 0)).origin 9).revision = some 8 ∧
      ((after .summaryFrame (s 0)).origin 9).conditions = some 0x1F ∧
      ((after .summaryFrame (s 0)).origin 9).status = .live ∧
      ((after .summaryFrame (s 1)).origin 9).status = .gapped ∧
      ((after .summaryFrame (attach .view 0 (s 0))).channel 0).notices = 64 := by decide +kernel

theorem witness_ResyncFrameServesOrSuppresses :
    let s := (hearing (frame9 .resync false false false 6 2 [1, 7]) (heard .live) calm).modOrigin 7
      (fun _ => { heard .gapped with resync := .awaiting 1 })
    s.table.origins.length = 250 ∧ (atOnce s).control.step ≠ .held ∧
      ((atOnce s).origin 7).resync = .awaiting 1 ∧
      (after .resyncFrame s).pub.fullsetDue = true ∧
      ((after .resyncFrame s).origin 7).resync = .awaiting 40 := by decide +kernel

/-! ## The riser line -/

/-- The receiver collects a frame. -/
def collecting : State := calm.withRiser { calm.riser with rx := .receiving [] false false }

/-- The bytes of a SUMMARY of a station. -/
def summaryBytes (station : Nat) : List Byte :=
  encodeFrame { ownFrame .summary (.summary 0 none 0) with station := station }

theorem witness_FrameEndDecidesTheFate :
    collecting.control.resetHeld = false ∧ (settle collecting).riser.tx.isSending = false ∧
      (settle collecting).riser.rx = .receiving [] false false ∧
      (parseFrame (summaryBytes 9)).isSome = true ∧
      (after (.riserFrameEnd (summaryBytes 9) false) collecting).merge.queue.length = 1 ∧
      (after (.riserFrameEnd (summaryBytes 9) true) collecting).riser.checkErrors = 1 ∧
      (after (.riserFrameEnd [1, 2, 3, 4, 5, 6, 7] false) collecting).riser.lengthErrors = 1 ∧
      (after (.riserFrameEnd [1, 2, 3, 4, 5, 6, 7, 8] false) collecting).riser.checkErrors = 1 ∧
      (after (.riserFrameEnd (List.replicate 177 0) false) collecting).riser.lengthErrors = 1 ∧
      (after (.riserFrameEnd (summaryBytes 1) false) collecting).hasCondition .duplicate = true ∧
      (after (.riserFrameEnd (summaryBytes 0) false) collecting).merge.rejected = 1 ∧
      (after (.riserFrameEnd (summaryBytes 251) false) collecting).merge.rejected = 1 ∧
      (after (.riserFrameEnd (summaryBytes 250) false) collecting).merge.rejected = 0 ∧
      (after (.riserFrameEnd (withCheck [0, 0, 0, 0, 0, 0]) false) collecting).riser.lengthErrors = 1 := by
  decide +kernel

/-- A SUMMARY frame of the station. -/
def ownSummary : TxFrame := ownFrame .summary (.summary 1 none 0)

theorem witness_LineEventsStartOrHoldTheFrame :
    (settle calm).riser.quiet = false ∧ (settle calm).riser.rx = .idle ∧
      (after (.lineBusy true) calm).riser.rx = .receiving [] false false ∧
      (after (.lineBusy false) calm).riser.rx = .idle ∧
      (settle (withTx (.waiting ownSummary 1) calm)).riser.tx = .waiting ownSummary 1 ∧
      (after .lineQuietEvent (withTx (.waiting ownSummary 1) calm)).riser.tx = .sending ownSummary 1 ∧
      (after .lineQuietEvent calm).riser.quiet = true ∧
      (after .backoffExpiry (withTx (.backoff ownSummary 2 3) calm)).riser.tx = .waiting ownSummary 2 ∧
      (after .backoffExpiry (after .lineQuietEvent (withTx (.backoff ownSummary 2 3) calm))).riser.tx
        = .sending ownSummary 2 := by decide +kernel

theorem witness_MismatchBacksOffOrGivesUp :
    let fullset := ownFrame .fullset (.records [pointRecord, { pointRecord with kind := .level, index := 9 }])
    (settle (withTx (.sending ownSummary 0) calm)).riser.tx = .sending ownSummary 0 ∧
      calm.control.resetHeld = false ∧
      (after (.mismatch 3) (withTx (.sending ownSummary 9) calm)).riser.giveUps = 1 ∧
      (after (.mismatch 3) (withTx (.sending fullset 9) calm)).pub.change = [4] ∧
      (after (.mismatch 3) (withTx (.sending fullset 9) calm)).pub.level = [9] ∧
      (after (.mismatch 3) (withTx (.sending fullset 9) calm)).pub.fullsetDue = true := by decide +kernel

theorem witness_CompletionAdvancesTheSequenceNumber :
    let s := (withTx (.sending (ownFrame .resync (.names [7])) 0) calm).modOrigin 7
      (fun _ => { heard .gapped with resync := .awaiting 1 })
    let last := withTx (.sending ownSummary 0) (calm.withPub { calm.pub with seq := 4095 })
    (settle s).riser.tx = .sending (ownFrame .resync (.names [7])) 0 ∧
      s.table.origins.length = 250 ∧ s.control.resetHeld = false ∧
      (after .frameCompletion s).pub.seq = 1 ∧
      ((after .frameCompletion s).origin 7).resync = .awaiting 40 ∧
      (after .frameCompletion last).pub.seq = 0 ∧ (after .frameCompletion last).riser.tx = .empty := by
  decide +kernel

/-- R89: the copies of 64 and 79 gave records of the frame in the slot; that of 70 did not. -/
def copied : State :=
  ((calm.setCopy 64 (some ⟨7, none, ⟨1, 1⟩⟩)).setCopy 70 (some ⟨8, none, ⟨1, 1⟩⟩)).setCopy 79
    (some ⟨9, none, ⟨1, 1⟩⟩)

theorem witness_CompletionEmptiesTheCopies :
    let s := withTx (.sending (ownFrame .state (.records [])) 9)
      (copied.withPub { copied.pub with copiesInFlight := [64, 79] })
    let t := after .frameCompletion s
    (settle s).pub.copiesInFlight = [64, 79] ∧ t.pub.copiesInFlight = [] ∧
      t.pub.copyAt 64 = none ∧ t.pub.copyAt 79 = none ∧ t.pub.copyAt 70 = some ⟨8, none, ⟨1, 1⟩⟩ ∧
      (after (.mismatch 3) s).pub.copies = s.pub.copies ∧
      (after (.mismatch 3) s).pub.copiesInFlight = [] := by decide +kernel

/-! ## Publication -/

theorem witness_NextFrameFollowsTheList :
    let wants := calm.modOrigin 9 (fun _ => { heard .gapped with resync := .wanted })
    let urgent := holding (alarmAt 1 5 0) (calm.setChange 5)
    nextItem (withTx (.waiting ownSummary 0) wants) = none ∧
      nextItem (wants.withPub { wants.pub with startPending := true }) = some .start ∧
      nextItem wants = some .resync ∧ nextItem urgent = some .urgent ∧
      nextItem (calm.withPub { calm.pub with cursor := some 80 }) = some .series ∧
      nextItem (calm.setLevelMark 5) = some .state ∧
      nextItem (calm.withPub { calm.pub with summaryDue := true }) = some .summary ∧
      nextItem calm = none := by decide +kernel

theorem witness_StateFrameCarriesMarkedIndices :
    let urgent := holding (alarmAt 1 5 0) ((calm.setChange 5).setChange 3)
    urgent.control.resetHeld = false ∧ nextItem urgent = some .urgent ∧
      nextItem (calm.setLevelMark 5) = some .state ∧
      (after .stateFrameBuild urgent).riser.tx.frame.map (fun f => encodeBody f.body) =
        some (encodeRecord ⟨.point, 5, .alarm, 200, some ⟨4, 10, 20⟩, ⟨12, 3⟩, 0⟩ ++
          encodeRecord ⟨.point, 3, .cleared, 0, none, ⟨127, 0⟩, 65535⟩) ∧
      (after .stateFrameBuild (calm.setLevelMark 5)).riser.tx = .empty ∧
      (after .stateFrameBuild (calm.setLevelMark 5)).pub.level = [] ∧
      (let copied := (calm.setCopy 70 (some ⟨7, none, ⟨12, 3⟩⟩)).setChange 70
       nextItem copied = some .state ∧ (after .stateFrameBuild copied).pub.copiesInFlight = [70] ∧
        (after .stateFrameBuild copied).pub.copies = copied.pub.copies ∧
        (after .stateFrameBuild copied).riser.tx.frame.map
        (fun f => encodeBody f.body) = some (encodeRecord ⟨.marker, 70, .cleared, 7, none, ⟨12, 3⟩, 65535⟩)) ∧
      (let many := calm.withPub { calm.pub with change := List.range 13 }
       nextItem many = some .state ∧ (after .stateFrameBuild many).pub.change = [12]) := by decide +kernel

theorem witness_FullsetFrameWalksTheCursor :
    let start := calm.withPub { calm.pub with startPending := true, fullsetDue := true }
    let on := calm.withPub { calm.pub with cursor := some 1 }
    start.control.resetHeld = false ∧ nextItem start = some .start ∧ nextItem on = some .series ∧
      (after .fullsetFrameBuild start).riser.tx.frame.map (fun f => (f.first, f.last, f.start)) =
        some (true, true, true) ∧
      (after .fullsetFrameBuild start).pub.cursor = some 80 ∧
      (after .fullsetFrameBuild on).riser.tx.frame.map (fun f => (f.first, f.last, f.start)) =
        some (false, true, false) := by decide +kernel

theorem witness_SummaryAndResyncFramesBuilt :
    let due := calm.withPub { calm.pub with summaryDue := true }
    let wants := calm.modOrigin 9 (fun _ => { heard .gapped with resync := .wanted })
    nextItem due = some .summary ∧ nextItem wants = some .resync ∧ due.control.resetHeld = false ∧
      (after .summaryFrameBuild due).riser.tx.frame.map TxFrame.body =
        some (.summary 1 (some 3) 1) ∧
      (after .resyncFrameBuild wants).riser.tx.frame.map TxFrame.body = some (.names [9]) := by
  decide +kernel

/-! ## Incident origin and spread -/

theorem witness_AlarmCountFollowsTheChanges :
    let m := monitorTakes (plainChange .admission (alarmAt 9 4 0)) calm
    calm.incident.active = false ∧ m.incident.alarmCount = 1 ∧
      m.incident.origin.map IncidentOrigin.addr = some ⟨9, 4⟩ ∧
      (monitorTakes (plainChange .remove (alarmAt 9 4 0)) m).incident.hold = some 0 ∧
      (monitorTakes (plainChange .level (alarmAt 9 4 0)) m).incident.alarmCount = 1 ∧
      (let two := holding (alarmAt 9 6 3) (holding (alarmAt 9 4 5) (attach .view 1 calm))
       let older := monitorTakes (plainChange .admission (alarmAt 9 5 2)) two
       let left := monitorTakes (plainChange .remove (alarmAt 9 6 3)) (two.dropEntry ⟨9, 6⟩)
       two.incident.origin.map IncidentOrigin.addr = some ⟨9, 6⟩ ∧ (two.dropEntry ⟨9, 6⟩).entries.length = 2 ∧
        older.incident.origin.map IncidentOrigin.addr = some ⟨9, 5⟩ ∧
        NoticeSet.has (older.channel 1).notices .originMoved = true ∧
        (monitorTakes (plainChange .admission (alarmAt 9 5 3)) two).incident.origin.map
          IncidentOrigin.addr = some ⟨9, 5⟩ ∧
        (monitorTakes (plainChange .admission (alarmAt 9 7 3)) two).incident.origin.map
          IncidentOrigin.addr = some ⟨9, 6⟩ ∧
        left.incident.origin.map IncidentOrigin.addr = some ⟨9, 4⟩ ∧ left.incident.alarmCount = 1 ∧
        (monitorTakes (plainChange .remove (alarmAt 9 4 5)) two).incident.origin = two.incident.origin ∧
        (monitorTakes (plainChange .level { alarmAt 9 6 3 with loc := ⟨1, 1⟩ }) two).incident.origin.map
          IncidentOrigin.loc = some ⟨1, 1⟩) ∧
      (let lull := monitorTakes (plainChange .remove (alarmAt 9 4 0)) m
       (monitorTakes (plainChange .admission (alarmAt 9 5 9)) lull).incident.origin.map
          IncidentOrigin.addr = some ⟨9, 5⟩ ∧
        (monitorTakes (plainChange .admission (alarmAt 9 5 9)) lull).incident.hold = none ∧
        (monitorTakes (plainChange .remove (alarmAt 9 4 0)) (m.withIncident
          { m.incident with incidentHold := 0 })).incident.active = false) := by decide +kernel

/-- The table of the witness in which the named entry has left stands in rising address. -/
theorem witness_AlarmCountFollowsTheChanges_table :
    TableOk ((holding (alarmAt 9 6 3) (holding (alarmAt 9 4 5) (attach .view 1 calm))).dropEntry ⟨9, 6⟩) :=
  ⟨⟨by decide +kernel, by decide +kernel, trivial⟩, by decide +kernel, by decide +kernel⟩

/-- An incident with its origin on floor 12, and an attached channel. -/
def burning : State := monitorTakes (plainChange .admission (alarmAt 9 4 0)) (attach .command 0 calm)

theorem witness_VerticalSpreadRaisedOnce :
    burning.incident.origin = some ⟨⟨9, 4⟩, ⟨12, 3⟩, 0⟩ ∧ burning.incident.vertical = false ∧
      burning.incident.spreadFloors = 2 ∧ burning.isAttached 0 = true ∧ burning.isAttached 1 = false ∧
      (checkVertical { alarmAt 9 5 1 with loc := ⟨14, 0⟩ } burning).incident.vertical = true ∧
      (checkVertical { alarmAt 9 5 1 with loc := ⟨10, 0⟩ } burning).incident.vertical = true ∧
      (checkVertical { alarmAt 9 5 1 with loc := ⟨13, 0⟩ } burning).incident.vertical = false ∧
      (checkVertical { alarmAt 9 5 1 with loc := ⟨127, 0⟩ } burning).incident.vertical = false := by
  decide +kernel

/-- R116: a change with the entry on the floor given, at a part whose incident is burning. -/
def spreading (kind : ChangeKind) (since floor : Nat) : State :=
  let e := { alarmAt 9 5 since with loc := ⟨floor, 1⟩ }
  monitorTakes ⟨kind, e, if kind = .state then some .prealarm else none, none⟩
    (burning.withIncident { burning.incident with groups := [0, 1, 0, 0] })

theorem witness_SpreadIsCheckedOnEnteringAlarm :
    ([ChangeKind.admission, .state, .level, .confirm, .unconfirm, .remove].map fun k =>
        ((spreading k 1 14).incident.vertical, (spreading k 1 12).incident.lateral)) =
        [(true, true), (true, true), (false, false), (false, false), (false, false), (false, false)] ∧
      (spreading .admission 1 13).incident.vertical = false ∧
      (spreading .admission 1 13).incident.lateral = false ∧
      NoticeSet.has ((spreading .state 1 14).channel 0).notices .spreadVertical = true ∧
      NoticeSet.has ((spreading .state 1 12).channel 0).notices .spreadLateral = true ∧
      (let older := monitorTakes (plainChange .admission { alarmAt 8 5 0 with loc := ⟨20, 0⟩ }) burning
       older.incident.origin.map IncidentOrigin.loc = some ⟨20, 0⟩ ∧ older.incident.vertical = false) ∧
      (let ended := monitorTakes (plainChange .remove (alarmAt 9 4 0)) ((spreading .admission 1 14).withIncident
          { (spreading .admission 1 14).incident with alarmCount := 1, incidentHold := 0 })
       ended.incident.active = false ∧ ended.incident.vertical = false) := by decide +kernel

theorem witness_LateralSpreadRaisedOnce :
    let s := burning.withIncident { burning.incident with groups := [0, 1, 0, 0] }
    s.incident.origin = some ⟨⟨9, 4⟩, ⟨12, 3⟩, 0⟩ ∧ s.incident.lateral = false ∧
      (checkLateral { alarmAt 9 5 1 with loc := ⟨12, 1⟩ } s).incident.lateral = true ∧
      (checkLateral { alarmAt 9 5 1 with loc := ⟨12, 2⟩ } s).incident.lateral = false ∧
      (checkLateral { alarmAt 9 5 1 with loc := ⟨13, 1⟩ } s).incident.lateral = false := by decide +kernel

/-! ## The plan store -/

theorem witness_BlockAddressDecodes :
    ([8191, 8192, 32768, 262143, 262144].map (bankOf ⟨1, 3, .mb2⟩)) = [0, 1, 0, 3, 0] ∧
      ([65535, 65536, 262143].map (bankOf ⟨1, 3, .mb16⟩)) = [0, 1, 3] ∧
      256 * 8192 = 2 * 1048576 ∧ 8192 % 262144 + 4 * 8192 < 262144 ∧
      bankOf ⟨1, 3, .mb2⟩ (8192 + 4 * 8192) = 1 := by decide +kernel

theorem witness_SnapshotStandsInOverlayOrder :
    ({ Bundle.reset with sheet := some 7 } : Bundle).sheet = some 7 := by decide

/-- The loader's read of block 0 in flight. -/
def loading (second : Bool) : State :=
  { State.reset with store := { PlanStore.reset with
      engine := if second then .second .header false else .first .header false } }

theorem witness_TransferEndCompletesOrRereads :
    let r : ReadRequest := ⟨.channel 2, .block, 40, true, false⟩
    let p := { PlanStore.reset with engine := ReadEngine.first r true }
    (PlanStore.transferEnd p resetStraps badBlock).2 = [.orphanEnd 2] ∧
      (let q := { PlanStore.reset with engine := ReadEngine.second r true }
       (PlanStore.transferEnd q resetStraps badBlock).2 = [.orphanEnd 2] ∧
        (PlanStore.transferEnd q resetStraps badBlock).1.damaged = 1 ∧
        (PlanStore.transferEnd q resetStraps (blockOf [1, 2])).2 = [.orphanEnd 2] ∧
        (PlanStore.transferEnd q resetStraps (blockOf [1, 2])).1.damaged = 0) ∧
      (PlanStore.transferEnd p resetStraps (blockOf [1, 2])).2 = [.orphanEnd 2] ∧
      blockIntact badBlock = false ∧ blockIntact (blockOf [1, 2]) = true ∧
      (settle (loading false)).store.engine = .first .header false ∧
      (after (.transferEnd badBlock) (loading false)).store.engine = .second .header false ∧
      (after (.transferEnd badBlock) (loading true)).store.damaged = 1 ∧
      (let looking := fun (n : Nat) => onBundle 2 (fun b => { b with
          state := .lookup, sheet := some 4, outstanding := n }) (attach .search 2 calm)
       let handle : List Byte := [0, 0, 4, 0, 0, 3, 12, 0]
       let ask : ReadRequest := ⟨.channel 2, .handle 4, 768, true, false⟩
       let two := (bundleHears (.answer ask .intact handle) (looking 1)).1
       ((looking 1).bundle 2).head = .owed ∧ ((looking 1).bundle 2).readCursor = 0 ∧
       ((two.bundle 2).handle, (two.bundle 2).readCursor, (two.bundle 2).outstanding) =
          (some ⟨1024, 3, 12, false⟩, 2, 2) ∧
        ((bundleHears (.answer ask .intact handle) (looking 2)).1.bundle 2).readCursor = 1 ∧
        ([[0, 0, 4, 0, 0, 0, 12, 0], [0, 0, 4, 0, 8, 1, 12, 0], [0, 0, 4, 0, 0, 3, 12, 1],
          [0, 0, 4, 0, 8, 0, 200, 0]].map fun d => (handleFrom .intact d).absent) =
          [true, true, true, false] ∧
        (two.bundle 2).pendingMsg = some (.bundleHead 4 12 3 (some 3) false false) ∧
        (let streaming := onBundle 2 (fun b => { b with pendingMsg := none, head := .placed }) two
         let got := (bundleHears (.answer r .damaged [1, 2]) streaming).1
         (got.bundle 2).pendingMsg = some (.block 0 true [1, 2]) ∧
          ((bundleHears (.answer r .absent []) streaming).1.bundle 2).buffer =
            [⟨0, true, List.replicate 254 0⟩]) ∧
        (bundleHears (.answer r .intact [1]) calm).2 = [] ∧
        ((bundleHears (.orphanEnd 2) (onBundle 2 (fun b => { b with outstanding := 2, readCursor := 1 })
          two)).1.bundle 2).readCursor = 2) := by decide +kernel

theorem witness_HeaderAnswerLoadsOrFallsBack :
    (loading false).control.resetHeld = false ∧ (settle (loading false)).control.running = false ∧
      (settle (loading true)).control.step = .header ∧
      (settle (loading true)).store.engine = .second .header false ∧
      blockIntact (blockOf header) = true ∧
      populated resetStraps (configBlock (layoutOf (blockContent (blockOf header))) 1) = true ∧
      (after (.transferEnd (blockOf header)) (loading false)).control.step = .config ∧
      (after (.transferEnd (blockOf header)) (loading true)).control.revision = some 5 ∧
      (after (.transferEnd (blockOf [1])) (loading false)).control.defaultsInUse = true ∧
      (after (.transferEnd badBlock) (loading true)).hasCondition .plan = true ∧
      (let config := after (.transferEnd (blockOf header)) (loading false)
       let record : List Byte := [1] ++ List.replicate 64 10 ++ List.replicate 19 100 ++ [1, 44, 0, 200, 9]
       let d0 := after (.transferEnd (blockOf record)) config
       let d1 := after (.transferEnd (blockOf [12, 3, 0, 4, 0, 10, 0, 20])) d0
       let d2 := after (.transferEnd (blockOf [])) d1
       let last := after (.transferEnd badBlock) (after (.transferEnd badBlock) d2)
       (settle config).control.step = .config ∧ (settle config).store.mainQueue = [] ∧
        (after (.transferEnd (blockOf [2])) config).control.defaultsInUse = true ∧
        (after (.transferEnd (blockOf [2])) config).hasCondition .plan = false ∧
        (settle d0).control.step = .directory 0 ∧ (settle d1).control.step = .directory 1 ∧
        d1.control.loadedDirectory.length = 31 ∧ (settle d2).control.step = .directory 2 ∧
        last.control.running = true ∧ last.control.defaultsInUse = false ∧
        last.table.clearHold = 300 ∧ last.incident.incidentHold = 200 ∧ last.incident.spreadFloors = 7 ∧
        last.scanner.config 0 = ⟨.callpoint, true, false, ⟨12, 3⟩, some ⟨4, 10, 20⟩⟩ ∧
        last.scanner.config 63 = ⟨.callpoint, true, false, ⟨127, 0⟩, none⟩ ∧
        (last.ownAt 0).map Entry.place = some (some ⟨4, 10, 20⟩)) := by decide +kernel

/-! ## Sheet bundles -/

/-- A station whose read engine is at work for channel 3. -/
def reading3 : State :=
  calm.withStore { calm.store with engine := .first ⟨.channel 3, .block, 900, true, false⟩ false }

/-- The bundle of a channel CLOSING with a late mark that waits for room. -/
def closingOn (ch : Fin 4) (s : State) : State :=
  onBundle ch (fun b => { b with
      state := .closing, late := [⟨9, 4⟩], pendingMsg := some (lateMark s 4 ⟨9, 5⟩) })
    (onChannel ch (fun c => { c with queue := List.replicate 24 .resume }) s)

theorem witness_SheetBeginsABundle :
    let s := attach .search 2 reading3
    let bare := s.withStore { s.store with layout := none }
    (settle s).crew.receiver = [] ∧ s.control.resetHeld = false ∧ (settle s).control.running = true ∧
      ((settle s).channel 2).pendingAnswer = none ∧
      ((settle s).channel 2).attached = some ⟨.search, 7⟩ ∧ ((settle s).bundle 2).state = .idle ∧
      ((settle s).bundle 2).pendingMsg = none ∧ (settle s).store.engine ≠ .idle ∧
      ((after (.sheet 2 [0, 99]) s).bundle 2).state = .lookup ∧
      (after (.sheet 2 [0, 99]) s).store.mainQueue.length = 1 ∧
      ((after (.sheet 2 [0, 100]) s).bundle 2).state = .stream ∧
      ((after (.sheet 2 [0, 4]) bare).bundle 2).handle = some .ofAbsent ∧
      (after (.sheet 2 [0, 4]) (holding (alarmAt 9 4 0) s)).store.promoteQueue.length = 1 ∧
      (settle (attach .search 2 calm)).store.mainQueue = [] ∧
      (after (.sheet 2 [0, 4]) (attach .search 2 calm)).store.engine =
        .first ⟨.channel 2, .handle 4, 768, true, false⟩ false ∧
      (let far := after (.sheet 2 [0, 4]) (attach .search 2 (farHandles calm))
       populated resetStraps 9000 = false ∧ (settle (attach .search 2 (farHandles calm))).store.engine = .idle ∧
        (far.bundle 2).state = .stream ∧ (far.bundle 2).handle = some ⟨0, 0, 127, true⟩ ∧
        far.store.absent = 1) ∧
      ((after (.sheet 2 [0, 4]) (closingOn 2 s)).bundle 2).pendingSheet = some 4 := by decide +kernel

theorem engineOk_calm : (settle (attach .search 2 calm)).store.EngineOk ∧
    (settle (attach .search 2 (farHandles calm))).store.EngineOk := by
  unfold PlanStore.EngineOk
  decide +kernel

theorem engineOk_reading3 : (settle (attach .search 2 reading3)).store.EngineOk := by
  intro h
  exact absurd h (by decide +kernel)

theorem witness_NewSheetAbortsTheBundle :
    let s := after (.sheet 2 [0, 4]) (attach .search 2 calm)
    let t := after (.sheet 2 [0, 5]) s
    (settle s).crew.receiver = [] ∧ ((settle s).bundle 2).state = .lookup ∧ ((settle s).channel 2).attached = some ⟨.search, 7⟩ ∧
      (t.bundle 2).sheet = some 5 ∧
      (t.bundle 2).pendingMsg = some (.bundleEnd 4 0 0 0 0 .aborted) ∧
      t.store.engine = .first ⟨.channel 2, .handle 4, 768, true, false⟩ true ∧
      t.store.mainQueue.length = 1 := by decide +kernel

theorem witness_BundleMessagePlacedAdvancesTheBundle :
    let s := fun (m : Message) (n : Nat) =>
      onBundle 2 (fun b => { b with state := .overlay, sheet := some 4, pendingMsg := some m })
        (onChannel 2 (fun c => { c with queue := List.replicate n .resume }) (attach .search 2 calm))
    let ended := onBundle 2 (fun b => { b with late := [⟨9, 4⟩] }) (s (.bundleEnd 4 1 1 0 0 .complete) 23)
    ((s .resume 0).channel 2).list = none ∧ ((s .resume 0).channel 2).listEnds = [] ∧
      ((after (.bundleMessagePlaced 2) (s (.block 0 true []) 20)).bundle 2).blockCursor = 1 ∧
      ((after (.bundleMessagePlaced 2) (s (.block 0 true []) 21)).bundle 2).blockCursor = 0 ∧
      ((after (.bundleMessagePlaced 2) (s (.overlay 4 []) 23)).channel 2).queue.length = 24 ∧
      ((after (.bundleMessagePlaced 2) ended).channel 2).queue.getLast? =
        some (.bundleEnd 4 1 1 1 0 .complete) ∧
      ((after (.bundleMessagePlaced 2) ended).bundle 2).state = .closing ∧
      ((after (.bundleMessagePlaced 2) (s (.bundleEnd 4 1 1 0 0 .absent) 23)).bundle 2).state =
        .idle ∧
      (let streaming := fun (k : Nat) (m : Message) (head : HeadState) => onBundle 2 (fun b => { b with
          state := .stream, sheet := some 4, handle := some ⟨900, k, 12, false⟩, pendingMsg := some m
          readCursor := 1, buffer := [⟨0, false, []⟩], outstanding := 1, head := head })
          (attach .search 2 reading3)
       let placed := fun u => (after (.bundleMessagePlaced 2) u).bundle 2
       let head : Message := .bundleHead 4 12 1 none false false
       (placed (streaming 1 head .waiting)).pendingMsg = some (.block 0 false []) ∧
        (placed (onBundle 2 (fun b => { b with blockCursor := 1, buffer := [] })
          (streaming 1 head .waiting))).pendingMsg = some (.bundleEnd 4 0 0 0 0 .complete) ∧
        (placed (streaming 1 (.block 0 false []) .placed)).state = .overlay ∧
        (placed (streaming 3 (.block 0 false []) .placed)).readCursor = 2) ∧
      (let late := fun (l : List Address) (next : Option Nat) => onBundle 2 (fun b => { b with
          state := .closing, sheet := some 4, late := l, pendingSheet := next
          pendingMsg := some (lateMark calm 4 ⟨9, 5⟩) }) (attach .search 2 (holding (alarmAt 9 4 0) reading3))
       let placed := fun u => (after (.bundleMessagePlaced 2) u).bundle 2
       ((placed (late [⟨9, 4⟩] none)).state, (placed (late [⟨9, 4⟩] none)).late) = (.closing, []) ∧
        (placed (late [⟨9, 4⟩] none)).pendingMsg =
          some (.markUpdate .late false (calm.markOf (alarmAt 9 4 0))) ∧
        (placed (late [⟨9, 6⟩] none)).pendingMsg = some (.markUpdate .late true (zeroMark ⟨9, 6⟩)) ∧
        (placed (late [] none)).state = .idle ∧ (placed (late [] (some 5))).state = .lookup ∧
        (placed (late [] (some 100))).state = .stream ∧ (placed (late [] (some 100))).urgent = false ∧
        (placed (late [] (some 4))).urgent = true ∧
        (placed ((late [] (some 5)).withStore calm.store)).state = .lookup ∧
        (after (.bundleMessagePlaced 2) ((late [] (some 5)).withStore calm.store)).store.engine =
          .first ⟨.channel 2, .handle 5, 768, true, false⟩ false ∧
        (placed ((late [] (some 5)).withStore (farHandles calm).store)).handle = some ⟨0, 0, 127, true⟩ ∧
        (after (.bundleMessagePlaced 2) ((late [] (some 5)).withStore (farHandles calm).store)).store.absent
          = 1) ∧
      calm.store.engine = .idle ∧ calm.store.mainQueue = [] ∧ calm.store.promoteQueue = [] := by
  decide +kernel

/-! ## Crew channels -/

/-- An answer waits on a channel whose queue is full. -/
def stuffed (ch : Fin 4) (s : State) : State :=
  onChannel ch (fun c => { c with
    queue := List.replicate 24 .resume, pendingAnswer := some (.answer 1 .ok 0) }) s

theorem witness_RequestsAreGated :
    requestOf (.collect 2 []) = some (2, 13, false, true) ∧
      (Instr.collect 2 []).wellFormed = true ∧ (settle (stuffed 2 calm)).crew.receiver = [] ∧
      (settle State.reset).crew.receiver = [] ∧ (settle calm).crew.receiver = [] ∧
      requestOf (.unknownTypeRequest 2 14 []) = some (2, 14, false, false) ∧
      ((settle (stuffed 2 calm)).channel 2).pendingAnswer ≠ none ∧
      (after (.collect 2 []) (stuffed 2 calm)).crew.busy = 1 ∧
      (settle State.reset).control.running = false ∧
      ((after (.collect 2 []) State.reset).channel 2).queue = [.answer 13 .starting 0] ∧
      ((after (.unknownTypeRequest 2 14 []) calm).channel 2).queue = [.answer 14 .badRequest 0] ∧
      ((after (.collect 2 [1]) calm).channel 2).queue = [.answer 13 .badRequest 0] ∧
      (settle calm).isAttached 2 = false ∧
      ((after (.collect 2 []) calm).channel 2).queue = [.answer 13 .notAttached 0] := by decide +kernel

theorem witness_AttachAndDetach :
    let t := after (.attach 2 [3, 15, 255]) calm
    (settle calm).isAttached 2 = false ∧ (t.channel 2).attached = some ⟨.view, 4095⟩ ∧
      (t.channel 2).queue = [.answer 1 .ok 0] ∧
      ((after (.attach 2 [4, 0, 1]) calm).channel 2).queue = [.answer 1 .badRole 0] ∧
      ((after (.attach 2 [4, 0, 0]) calm).channel 2).queue = [.answer 1 .badRequest 0] ∧
      (settle t).isAttached 2 = true ∧ (settle t).crew.receiver = [] ∧
      (settle calm).crew.receiver = [] ∧
      ((after (.attach 2 [0, 0, 1]) t).channel 2).queue = [.answer 1 .ok 0, .answer 1 .already 0] ∧
      (after (.detach 2 []) t).channel 2 = { Channel.reset with queue := [.answer 2 .ok 0] } := by
  decide +kernel

theorem witness_WatchUnwatchAndCollect :
    let s := onChannel 2 (fun c => { c with notices := 4, watch1 := some ⟨.floor 1, 0⟩ })
      (attach .search 2 calm)
    (settle s).crew.receiver = [] ∧ (settle s).isAttached 2 = true ∧ ((settle s).channel 2).pendingAnswer = none ∧
      ((after (.watch 2 [0, 0, 0, 0, 250, 79, 7]) s).channel 2).watch0 =
        some ⟨.point ⟨250, 79⟩, 7⟩ ∧
      ((after (.watch 2 [1, 3, 126, 15, 0, 0, 0]) s).channel 2).watch1 =
        some ⟨.compartment 126 15, 0⟩ ∧
      ((after (.watch 2 [0, 1, 127, 0, 0, 0, 0]) s).channel 2).queue = [.answer 4 .badRequest 0] ∧
      ((after (.unwatch 2 [1]) s).channel 2).watch1 = none ∧
      ((after (.collect 2 []) s).channel 2).queue = [.answer 13 .ok 4] ∧
      ((after (.collect 2 []) s).channel 2).notices = 0 := by decide +kernel

theorem witness_ListsAreTaken :
    let s := onChannel 2 (fun c => { c with
        list := some ⟨.stations 9 9, 2, 3⟩
        queue := List.replicate 24 .resume }) (attach .search 2 pictured)
    let t := after (.list 2 [127, 0, 0]) s
    (settle s).crew.receiver = [] ∧ (settle s).isAttached 2 = true ∧ ((settle s).channel 2).list = some ⟨.stations 9 9, 2, 3⟩ ∧
      (t.channel 2).list.map ListProgress.total = some 3 ∧
      (t.channel 2).listEnds = [.listEnd true 2 3 true] ∧
      ((after (.stations 2 [250, 1]) s).channel 2).list = some ⟨.stations 1 250, 0, 250⟩ := by
  decide +kernel

theorem witness_LinkMessagesAndTransmitter :
    let s := calm.withCrew { calm.crew with linkTimer := 30 }
    let q := onChannel 2 (fun c => { c with queue := List.replicate 9 .noticePending, condensed := true }) s
    (settle s).crew.receiver = [] ∧ (after (.idle 0 [1, 2]) s).crew.linkTimer = 0 ∧
      (after (.strayChannelMessage 4 [0]) s).crew.stray = 1 ∧
      bytesOf (.collect 1 []) = some (messageBytes 1 13 []) ∧
      linkEvents [0xA5, 0, 2, 0, 0, 0, 0] = ([.badCheck], []) ∧
      fieldAt (messageBytes 1 13 []) 1 = 2 ∧
      (after (.idle 0 []) (after (.lengthOutOfRange 0xA501) s)).crew.badCheck = 2 ∧
      (after (.badCheckMessage [0xA5, 0, 2, 0, 0, 0, 0]) s).crew.badCheck = 1 ∧
      (after (.badCheckMessage [0xA5, 0, 2, 0, 0, 0, 0]) s).crew.linkTimer = 30 ∧
      (after (.lengthOutOfRange 260) s).crew.badCheck = 1 ∧
      (∀ ch, ((settle s).channel ch).queue = []) ∧ (after .linkTransmitterTake s).crew.sending = none ∧
      (after .linkTransmitterTake q).crew.lastServed = 2 ∧
      ((after .linkTransmitterTake q).channel 2).queue =
        List.replicate 8 .noticePending ++ [.resume] := by decide +kernel

theorem witness_WaitersArePlaced :
    let waiting := onChannel 2 (fun c => { c with
      pendingAnswer := some (.answer 1 .ok 0), noticePending := true, queue := List.replicate 20 .resume })
      calm
    let one := after (.answerPlaced 2) waiting
    let two := after (.noticePendingPlaced 2) one
    let listed := onChannel 2 (fun c => { c with list := some ⟨.stations 1 1, 0, 1⟩ }) two
    (one.channel 2).condensed = true ∧ (one.channel 2).pendingAnswer = none ∧
      (two.channel 2).queue.length = 22 ∧ (two.channel 2).noticePending = false ∧
      ((after (.listMessagePlaced 2) listed).channel 2).list = some ⟨.stations 2 1, 1, 1⟩ ∧
      ((after (.listMessagePlaced 2) (after (.listMessagePlaced 2) listed)).channel 2).queue.getLast? =
        some (.listEnd true 1 1 false) ∧
      after (.answerPlaced 2) (stuffed 2 calm) = stuffed 2 calm := by decide +kernel

theorem witness_PictureChangeIsRouted :
    let pc := plainChange .admission (alarmAt 9 5 0)
    let s := onChannel 2 (fun c => { c with currentSheet := some 4 }) (attach .search 2 calm)
    let laying := onBundle 2 (fun b => { b with state := .overlay, sheet := some 4 }) s
    let packed := onBundle 2 (fun b => { b with late := (List.range 32).map (⟨8, ·⟩) }) laying
    let condensed := onChannel 2 (fun c => { c with condensed := true }) s
    let watching := onChannel 2 (fun c => { c with watch0 := some ⟨.floor 12, 7⟩ }) (attach .search 2 calm)
    pc.touches 4 = true ∧ ((routeOn pc 2 s).channel 2).queue.length = 1 ∧
      ((routeOn pc 2 laying).bundle 2).late = [⟨9, 5⟩] ∧
      ((routeOn pc 2 packed).channel 2).notices = 32 ∧
      ((routeOn pc 2 condensed).channel 2).notices = 16 ∧
      ((routeOn pc 2 watching).channel 2).queue.length = 1 ∧
      routeOn pc 2 (attach .search 2 calm) = attach .search 2 calm ∧
      (let pc : PictureChange := ⟨.level, alarmAt 9 5 0, none, some (some 9)⟩
       let other := fun u => onChannel 2 (fun c => { c with currentSheet := some 9 }) u
       pc.touches 9 = true ∧ pc.touches 4 = true ∧ kindsOn 2 (routeOn pc 2 (other laying)) = [.level] ∧
        ((routeOn pc 2 (other laying)).bundle 2).late = [⟨9, 5⟩] ∧
        kindsOn 2 (routeOn pc 2 (other packed)) = [.level] ∧
        ((routeOn pc 2 (other packed)).channel 2).notices = 32 ∧
        kindsOn 2 (routeOn pc 2 (onChannel 2 (fun c => { c with condensed := true }) (other laying))) = [] ∧
        kindsOn 2 (routeOn pc 2 laying) = []) := by decide +kernel

/-! ## What every step keeps: a state that steps, with each invariant -/

/-- A station with an IDLE message before it. -/
def stepping : State := calm.withPending [.idle 0 []]

theorem step_stepping : step stepping = .next (after (.idle 0 []) (stepping.withPending [])) := rfl

theorem witness_StepsKeepTheQueuesInBounds : QueuesOk stepping := by
  unfold QueuesOk Channel.QueueOk
  decide +kernel

theorem witness_StepsKeepThePicture : PictureOk stepping :=
  ⟨tableOk_calm, by decide +kernel, by decide +kernel, by decide +kernel⟩

theorem witness_StepsKeepTheLateSets : LateSetsOk stepping := by
  unfold LateSetsOk Bundle.LateOk
  decide +kernel

theorem readsOk_idle {b : Bundle} (h : b = Bundle.reset) {l : List ReadRequest} (hl : l = []) {n : Nat}
    (hn : n = 0) : b.ReadsOk l n := by
  subst h hl hn
  exact ⟨rfl, by decide, trivial, rfl, rfl⟩

theorem witness_StepsKeepTheSizes : SizesOk stepping := by
  have idle : (∀ ch, stepping.bundle ch = Bundle.reset) ∧
      (∀ ch, stepping.store.readsOf (.channel ch) = []) ∧ ∀ ch, stepping.store.orphansOf ch = 0 := by
    decide +kernel
  refine ⟨by decide +kernel, by decide +kernel, by decide +kernel, by decide +kernel, by decide +kernel,
    by decide +kernel, ⟨by decide +kernel, by decide +kernel⟩, by decide +kernel, by decide +kernel,
    by decide +kernel, fun _ _ => by decide +kernel, fun _ => ⟨?_, by decide +kernel, by decide +kernel, ?_⟩⟩
  · exact fun ch => readsOk_idle (idle.1 ch) (idle.2.1 ch) (idle.2.2 ch)
  · intro r h
    cases h

/-- The bundle of a station that has asked for a handle, its read in flight, is within its reads. -/
theorem witness_ReadsOk_asking :
    let s := after (.sheet 2 [0, 4]) (attach .search 2 calm)
    (s.bundle 2).ReadsOk (s.store.readsOf (.channel 2)) (s.store.orphansOf 2) := by
  intro s
  have hb : s.bundle 2 = { Bundle.reset with state := .lookup, sheet := some 4, outstanding := 1 } ∧
      s.store.readsOf (.channel 2) = [⟨.channel 2, .handle 4, 768, true, false⟩] ∧
      s.store.orphansOf 2 = 0 := by decide +kernel
  rw [hb.1, hb.2.1, hb.2.2]
  exact ⟨rfl, by decide, trivial, ⟨_, 4, rfl, rfl⟩, rfl, rfl, rfl, rfl⟩

/-! ## Formats -/

theorem witness_EncodedFramesReadBack :
    pointRecord.InRange ∧ (ownFrame .state (.records [pointRecord])).InRange ∧
      (ownFrame .summary (.summary 1 (some 3) 1)).InRange ∧
      decodeRecord (encodeRecord pointRecord) = some pointRecord ∧
      encodeRecord pointRecord = [23, 4, 0, 200, 0, 4, 0, 10, 0, 20, 12, 3, 0, 2] := by
  refine ⟨⟨by decide, by decide, by decide, ?_, by decide⟩, ⟨by decide, by decide, by decide, ?_⟩,
    ⟨by decide, by decide, by decide, trivial⟩, by decide +kernel⟩
  · rintro p ⟨⟩
    exact ⟨by decide, by decide, by decide⟩
  · exact Nat.le_of_ble_eq_true rfl

end Sys2Proof.Tests
end

section
/-!
PROOFS. Point scanning (chapter 1): the confirm counter, and what one classified reading does to a channel.
-/
namespace Sys2Proof.Machine

/-! ## Counting (R6) -/

theorem satSucc_eq_min (limit n : Nat) : satSucc limit n = min (n + 1) limit := by
  unfold satSucc
  split <;> omega

/-- The counting of R6 whole: only the candidate band and the counter move. -/
theorem ScanChannel.count_eq (c : ScanChannel) (b : Band) :
    c.count b = { c with
      candidate := some b
      counter := if c.candidate = some b then min (c.counter + 1) 15 else 1 } := by
  unfold ScanChannel.count
  split
  case isTrue same => rw [satSucc_eq_min, ← same]
  case isFalse => rfl

@[simp] theorem ScanChannel.count_candidate (c : ScanChannel) (b : Band) :
    (c.count b).candidate = some b := by rw [c.count_eq]

theorem ScanChannel.count_counter (c : ScanChannel) (b : Band) :
    (c.count b).counter = if c.candidate = some b then min (c.counter + 1) 15 else 1 := by
  rw [c.count_eq]

@[simp] theorem ScanChannel.count_armed (c : ScanChannel) (b : Band) :
    (c.count b).armed = c.armed := by rw [c.count_eq]

/-! ## The ways a classified reading can go -/

/-- Outside LATCHED ALARM the change rule looks at the counter that the counting leaves (R7). -/
theorem classify_of_not_latchedAlarm {latched : Bool} {c : ScanChannel}
    (free : ¬(latched = true ∧ c.state = .alarm)) (cfg : ScanConfig) (b : Band) :
    classify cfg latched c b = (c.count b,
      if cfg.confirmCount b ≤ (c.count b).counter ∧ b.target ≠ c.state then some b.target
      else none) := by
  have guard : (latched && c.state == .alarm) = false := by simpa using free
  simp only [classify, guard, Bool.false_eq_true, if_false]
  split <;> rfl

/-- A LATCHED ALARM sets the counting aside for a fault reading (R8). -/
theorem classify_latchedAlarm_fault {c : ScanChannel} (alarm : c.state = .alarm)
    (cfg : ScanConfig) : classify cfg true c .fault = (c, none) := by
  simp [classify, alarm]

/-- A LATCHED ALARM counts any other reading, and leaves ALARM only by the release of R8: it is armed, the
reading is normal, and the counting has reached ReleaseCount. -/
theorem classify_latchedAlarm_of_ne_fault {c : ScanChannel} (alarm : c.state = .alarm)
    (cfg : ScanConfig) {b : Band} (notFault : b ≠ .fault) :
    classify cfg true c b =
      if c.armed = true ∧ b = .normal ∧ cfg.releaseCount ≤ (c.count b).counter then
        ({ c.count b with armed := false }, some .normal)
      else (c.count b, none) := by
  have guard : ((c.count b).armed && (c.count b).candidate == some .normal &&
      decide (cfg.releaseCount ≤ (c.count b).counter)) = true ↔
      c.armed = true ∧ b = .normal ∧ cfg.releaseCount ≤ (c.count b).counter := by
    simp only [ScanChannel.count_armed, ScanChannel.count_candidate, Bool.and_eq_true, beq_iff_eq,
      Option.some.injEq, decide_eq_true_eq, and_assoc]
  simp only [classify, alarm, notFault, guard, Bool.true_and, beq_self_eq_true, if_true, if_false]

/-- Released or not, a reading that a LATCHED ALARM counts leaves the counter of R6. -/
theorem classify_latchedAlarm_counter {c : ScanChannel} (alarm : c.state = .alarm)
    (cfg : ScanConfig) {b : Band} (notFault : b ≠ .fault) :
    (classify cfg true c b).1.counter = (c.count b).counter := by
  rw [classify_latchedAlarm_of_ne_fault alarm cfg notFault]
  split <;> rfl

/-- Released or not, a reading that a LATCHED ALARM counts leaves its band as the candidate. -/
theorem classify_latchedAlarm_candidate {c : ScanChannel} (alarm : c.state = .alarm)
    (cfg : ScanConfig) {b : Band} (notFault : b ≠ .fault) :
    (classify cfg true c b).1.candidate = some b := by
  rw [classify_latchedAlarm_of_ne_fault alarm cfg notFault]
  split <;> exact c.count_candidate b

/-! ## The obligation -/

/-- Settles O15: outside LATCHED ALARM the reading counts and the change rule looks at the counter it leaves;
in LATCHED ALARM a fault reading is set aside, and any other counts and meets the release of R8 or not. -/
theorem confirmationFollowsTheCounter : Obligations.ConfirmationFollowsTheCounter := by
  refine ⟨fun cfg latched c b free => ?_, fun cfg c alarm =>
    ⟨classify_latchedAlarm_fault alarm cfg, fun b notFault => ?_⟩⟩
  · rw [classify_of_not_latchedAlarm free]
    exact ⟨c.count_eq b, rfl⟩
  · have counter := classify_latchedAlarm_counter alarm cfg notFault
    refine ⟨classify_latchedAlarm_candidate alarm cfg notFault, counter.trans (c.count_counter b),
      fun release => ?_, fun stays => ?_⟩
    · rw [counter] at release
      rw [classify_latchedAlarm_of_ne_fault alarm cfg notFault, if_pos release]
      exact ⟨rfl, rfl⟩
    · rw [counter] at stays
      rw [classify_latchedAlarm_of_ne_fault alarm cfg notFault, if_neg stays]
      exact ⟨rfl, c.count_armed b⟩

end Sys2Proof.Machine
end

section
/-!
PROOFS. The incident picture (chapter 2): the first entry of a list in an order, and the victim of a full pool.
-/
namespace Sys2Proof.Machine

/-! ## The first entry in an order -/

theorem firstBy_cons_of_none {before : Entry → Entry → Bool} {l : List Entry}
    (h : firstBy before l = none) (e : Entry) : firstBy before (e :: l) = some e := by
  simp only [firstBy, h]

theorem firstBy_cons_of_some {before : Entry → Entry → Bool} {l : List Entry} {m : Entry}
    (h : firstBy before l = some m) (e : Entry) :
    firstBy before (e :: l) = some (if before m e then m else e) := by
  simp only [firstBy, h]
  split <;> rfl

theorem firstBy_eq_none_iff (before : Entry → Entry → Bool) (l : List Entry) :
    firstBy before l = none ↔ l = [] := by
  cases l with
  | nil => simp [firstBy]
  | cons e l =>
    cases tail : firstBy before l with
    | none => simp [firstBy_cons_of_none tail]
    | some m => simp [firstBy_cons_of_some tail]

theorem mem_of_firstBy {before : Entry → Entry → Bool} {l : List Entry} {v : Entry}
    (h : firstBy before l = some v) : v ∈ l := by
  induction l generalizing v with
  | nil => cases h
  | cons e l ih =>
    cases tail : firstBy before l with
    | none =>
      rw [firstBy_cons_of_none tail, Option.some.injEq] at h
      exact h ▸ List.mem_cons_self
    | some m =>
      rw [firstBy_cons_of_some tail, Option.some.injEq] at h
      subst h
      split
      case isTrue => exact List.mem_cons_of_mem e (ih tail)
      case isFalse => exact List.mem_cons_self

/-- In an order that is asymmetric, and whose negation is transitive, no member comes before the first one. -/
theorem not_before_firstBy {before : Entry → Entry → Bool}
    (asymm : ∀ {a b}, before a b = true → before b a = false)
    (negTrans : ∀ {a b c}, before a b = false → before b c = false → before a c = false)
    {l : List Entry} {v : Entry} (h : firstBy before l = some v) :
    ∀ e ∈ l, before e v = false := by
  have irrefl (a : Entry) : before a a = false := by
    cases self : before a a with
    | false => rfl
    | true => exact self.symm.trans (asymm self)
  induction l generalizing v with
  | nil => cases h
  | cons x l ih =>
    cases tail : firstBy before l with
    | none =>
      obtain rfl := (firstBy_eq_none_iff before l).mp tail
      rw [firstBy_cons_of_none tail, Option.some.injEq] at h
      subst h
      exact List.forall_mem_singleton.mpr (irrefl x)
    | some m =>
      rw [firstBy_cons_of_some tail, Option.some.injEq] at h
      subst h
      split
      case isTrue first => exact List.forall_mem_cons.mpr ⟨asymm first, ih tail⟩
      case isFalse notFirst =>
        have stays : before m x = false := Bool.eq_false_of_not_eq_true notFirst
        exact List.forall_mem_cons.mpr ⟨irrefl x, fun e he => negTrans (ih tail e he) stays⟩

/-! ## The victim order (R33) -/

theorem victimBefore_iff (a b : Entry) : victimBefore a b = true ↔
    a.state.rank < b.state.rank ∨
    (a.state.rank = b.state.rank ∧ a.learned < b.learned) ∨
    (a.state.rank = b.state.rank ∧ a.learned = b.learned ∧ b.addr.before a.addr = true) := by
  simp only [victimBefore, decide_eq_true_eq]
  tauto

theorem victimBefore_asymm {a b : Entry} (h : victimBefore a b = true) : victimBefore b a = false := by
  rw [← Bool.not_eq_true]
  simp only [victimBefore_iff, before_iff] at h ⊢
  omega

theorem victimBefore_negTrans {a b c : Entry} (hab : victimBefore a b = false)
    (hbc : victimBefore b c = false) : victimBefore a c = false := by
  rw [← Bool.not_eq_true] at hab hbc ⊢
  simp only [victimBefore_iff, before_iff] at hab hbc ⊢
  omega

/-- Two entries of different addresses stand one before the other: the address settles what rank and learned
leave equal. -/
theorem victimBefore_of_not {a b : Entry} (apart : a.addr ≠ b.addr) (h : victimBefore a b = false) :
    victimBefore b a = true := by
  have addresses := (before_total a.addr b.addr).resolve_left apart
  rw [← Bool.not_eq_true] at h
  simp only [victimBefore_iff, before_iff] at h addresses ⊢
  omega

/-! ## The victim -/

theorem mem_foreign {s : State} {e : Entry} :
    e ∈ s.foreign ↔ e ∈ s.entries ∧ e.addr.station ≠ s.own := by
  simp [State.foreign, State.ownEntry]

theorem victim_eq_none_iff (s : State) : s.victim = none ↔ s.foreign = [] :=
  firstBy_eq_none_iff victimBefore s.foreign

theorem victim_mem_foreign {s : State} {v : Entry} (h : s.victim = some v) : v ∈ s.foreign :=
  mem_of_firstBy h

/-- The victim comes before every foreign entry of another address. -/
theorem victimBefore_of_victim {s : State} {v e : Entry} (h : s.victim = some v) (he : e ∈ s.foreign)
    (apart : e.addr ≠ v.addr) : victimBefore v e = true :=
  victimBefore_of_not apart <|
    not_before_firstBy (before := victimBefore) victimBefore_asymm victimBefore_negTrans h e he

/-- Settles O20: no foreign entry comes before the victim in the order of R33, and that order leaves no two
addresses equal, so the victim comes before each of the others. -/
theorem victimComesFirstInItsOrder : Obligations.VictimComesFirstInItsOrder := by
  refine fun s => ⟨victim_eq_none_iff s, fun v hv => ?_⟩
  obtain ⟨held, foreign⟩ := mem_foreign.mp (victim_mem_foreign hv)
  refine ⟨held, foreign, fun e he notOwn apart => ?_⟩
  have first := victimBefore_of_victim hv (mem_foreign.mpr ⟨he, notOwn⟩) apart
  rwa [victimBefore_iff, before_iff] at first

end Sys2Proof.Machine
end

section
/-!
PROOFS. Incident origin and spread (chapter 6): what raising a notice does to the notice sets, what the Monitor's
operations leave of the vertical spread, and the vertical spread check.
-/
namespace Sys2Proof.Machine

/-! ## Raising a notice (R167) -/

theorem Notice.bit_lt (n : Notice) : n.bit < 8 := by cases n <;> decide

theorem Notice.bit_inj {n m : Notice} : n.bit = m.bit ↔ n = m := by
  cases n <;> cases m <;> decide

theorem NoticeSet.has_setBit (v : NoticeSet) (n m : Notice) :
    NoticeSet.has (setBit v n.bit) m = (NoticeSet.has v m || decide (n = m)) := by
  simp [NoticeSet.has, setBit, BitVec.getLsbD_twoPow, n.bit_lt, Notice.bit_inj]

@[simp] theorem Channel.composeNoticePending_notices (c : Channel) :
    c.composeNoticePending.notices = c.notices := by
  unfold Channel.composeNoticePending
  split <;> rfl

theorem Channel.raise_of_free {c : Channel} (free : c.attached = none) (n : Notice) :
    c.raise n = c := by
  simp [Channel.raise, free]

/-- A notice raised joins the set of an attached channel, and no other notice moves. -/
theorem Channel.has_raise (c : Channel) (n m : Notice) :
    NoticeSet.has (c.raise n).notices m =
      (NoticeSet.has c.notices m || (c.attached.isSome && decide (n = m))) := by
  unfold Channel.raise
  split
  case isTrue free => simp [Option.isNone_iff_eq_none.mp free]
  case isFalse attached =>
    have taken : c.attached.isSome = true := by
      simpa [Option.isSome_iff_ne_none] using attached
    split
    case isTrue held =>
      by_cases same : n = m
      · subst same; simp [held]
      · simp [same]
    case isFalse =>
      dsimp only
      split <;> simp [NoticeSet.has_setBit, taken]

theorem channel_raiseAll (s : State) (n : Notice) (ch : Fin 4) :
    (s.raiseAll n).channel ch = (s.channel ch).raise n := by
  fin_cases ch <;> rfl

@[simp] theorem raiseAll_incident (s : State) (n : Notice) : (s.raiseAll n).incident = s.incident := rfl

theorem has_raiseAll (s : State) (n m : Notice) (ch : Fin 4) :
    NoticeSet.has ((s.raiseAll n).channel ch).notices m =
      (NoticeSet.has (s.channel ch).notices m || (s.isAttached ch && decide (n = m))) := by
  rw [channel_raiseAll, Channel.has_raise]
  rfl

theorem Told.isAttached {s t : State} (h : Told s t) (ch : Fin 4) : t.isAttached ch = s.isAttached ch := by
  simp only [State.isAttached, (h.channel ch).attached]

/-! ## What leaves the vertical spread alone -/

/-- Nothing of the vertical spread differs: its setting, its flag, and its notice on each channel. -/
structure VerticalSame (s t : State) : Prop where
  spreadFloors : t.incident.spreadFloors = s.incident.spreadFloors
  vertical : t.incident.vertical = s.incident.vertical
  notice : ∀ ch, NoticeSet.has (t.channel ch).notices .spreadVertical =
    NoticeSet.has (s.channel ch).notices .spreadVertical

theorem VerticalSame.refl (s : State) : VerticalSame s s := ⟨rfl, rfl, fun _ => rfl⟩

theorem VerticalSame.trans {s t u : State} (h : VerticalSame s t) (k : VerticalSame t u) :
    VerticalSame s u :=
  ⟨k.spreadFloors.trans h.spreadFloors, k.vertical.trans h.vertical,
    fun ch => (k.notice ch).trans (h.notice ch)⟩

theorem withIncident_verticalSame {s : State} {m : IncidentMonitor}
    (spreadFloors : m.spreadFloors = s.incident.spreadFloors) (vertical : m.vertical = s.incident.vertical) :
    VerticalSame s (s.withIncident m) :=
  ⟨spreadFloors, vertical, fun _ => rfl⟩

theorem raiseAll_verticalSame (s : State) {n : Notice} (other : n ≠ .spreadVertical) :
    VerticalSame s (s.raiseAll n) :=
  ⟨rfl, rfl, fun ch => by simp [has_raiseAll, other]⟩

@[simp] theorem noteMove_incident (before : Option IncidentOrigin) (s : State) :
    (noteMove before s).incident = s.incident := by
  unfold noteMove
  split
  · split <;> rfl
  · rfl

theorem noteMove_verticalSame (before : Option IncidentOrigin) (s : State) :
    VerticalSame s (noteMove before s) := by
  unfold noteMove
  split
  · split
    · exact .refl s
    · exact raiseAll_verticalSame s (by decide)
  · exact .refl s

/-- The named origin moves with its notice, and the vertical spread stands. -/
theorem noteMove_withIncident_verticalSame (before : Option IncidentOrigin) {s : State}
    {m : IncidentMonitor} (spreadFloors : m.spreadFloors = s.incident.spreadFloors)
    (vertical : m.vertical = s.incident.vertical) :
    VerticalSame s (noteMove before (s.withIncident m)) :=
  (withIncident_verticalSame spreadFloors vertical).trans (noteMove_verticalSame _ _)

theorem alarmRises_verticalSame (e : Entry) (s : State) : VerticalSame s (alarmRises e s) := by
  unfold alarmRises
  dsimp only
  split
  · exact withIncident_verticalSame rfl rfl
  · split
    · split
      · exact noteMove_withIncident_verticalSame _ rfl rfl
      · exact withIncident_verticalSame rfl rfl
    · exact noteMove_withIncident_verticalSame _ rfl rfl

theorem followLocation_verticalSame (e : Entry) (s : State) : VerticalSame s (followLocation e s) := by
  unfold followLocation
  split
  · split
    · exact withIncident_verticalSame rfl rfl
    · exact .refl s
  · exact .refl s

theorem checkLateral_verticalSame (e : Entry) (s : State) : VerticalSame s (checkLateral e s) := by
  unfold checkLateral
  split
  · split
    · have flagged : VerticalSame s (s.withIncident { s.incident with lateral := true }) :=
        withIncident_verticalSame rfl rfl
      exact flagged.trans (raiseAll_verticalSame _ (by decide))
    · exact .refl s
  · exact .refl s

/-! ## The origin that stands after an entering (R110, R111, R116) -/

theorem alarmRises_origin (e : Entry) (s : State) : ∃ o, (alarmRises e s).incident.origin = some o := by
  unfold alarmRises
  dsimp only
  split
  · exact ⟨_, rfl⟩
  · split
    case _ o _ origin =>
      split
      · exact ⟨.ofEntry e, by simp⟩
      · exact ⟨o, origin⟩
    · exact ⟨.ofEntry e, by simp⟩

@[simp] theorem checkVertical_origin (e : Entry) (s : State) :
    (checkVertical e s).incident.origin = s.incident.origin := by
  unfold checkVertical
  split
  · split <;> rfl
  · rfl

@[simp] theorem checkLateral_origin (e : Entry) (s : State) :
    (checkLateral e s).incident.origin = s.incident.origin := by
  unfold checkLateral
  split
  · split <;> rfl
  · rfl

/-! ## A falling alarm (R112, R114) -/

/-- A falling alarm leaves the vertical spread, but that the incident it ends clears the flag. -/
theorem alarmFalls_cases (e : Entry) (s : State) :
    (VerticalSame s (alarmFalls e s) ∧ (alarmFalls e s).incident.active = s.incident.active) ∨
    ((alarmFalls e s).crew = s.crew ∧ s.incident.active = true ∧
      (alarmFalls e s).incident.active = false ∧ (alarmFalls e s).incident.vertical = false) := by
  unfold alarmFalls
  dsimp only
  split
  · split
    case isTrue active =>
      split
      · exact .inr ⟨rfl, active, rfl, rfl⟩
      · exact .inl ⟨withIncident_verticalSame rfl rfl, rfl⟩
    case isFalse => exact .inl ⟨withIncident_verticalSame rfl rfl, rfl⟩
  · split
    · split
      · exact .inl ⟨noteMove_withIncident_verticalSame _ rfl rfl, by simp⟩
      · exact .inl ⟨withIncident_verticalSame rfl rfl, rfl⟩
    · exact .inl ⟨withIncident_verticalSame rfl rfl, rfl⟩

theorem followLocation_active (e : Entry) (s : State) :
    (followLocation e s).incident.active = s.incident.active := by
  unfold followLocation
  split
  · split <;> rfl
  · rfl

/-! ## The vertical check (R117) -/

theorem verticalMet_iff (m : IncidentMonitor) (e o : Location) : verticalMet m e o = true ↔
    m.spreadFloors ≠ 0 ∧ e.floor ≠ 127 ∧ o.floor ≠ 127 ∧
      (m.spreadFloors + e.floor ≤ o.floor ∨ m.spreadFloors + o.floor ≤ e.floor) := by
  have apart : m.spreadFloors ≤ floorDistance e.floor o.floor ↔
      m.spreadFloors + e.floor ≤ o.floor ∨ m.spreadFloors + o.floor ≤ e.floor := by
    unfold floorDistance
    omega
  simp [verticalMet, Location.known, apart, and_assoc]

theorem VerticalSame.verticalMet {s t : State} (h : VerticalSame s t) (e o : Location) :
    verticalMet t.incident e o = verticalMet s.incident e o := by
  simp only [Machine.verticalMet, h.spreadFloors]

section
variable {e : Entry} {o : IncidentOrigin} {s : State}

theorem checkVertical_of_met (origin : s.incident.origin = some o)
    (met : verticalMet s.incident e.loc o.loc = true) (clear : s.incident.vertical = false) :
    checkVertical e s = (s.withIncident { s.incident with vertical := true }).raiseAll .spreadVertical := by
  simp [checkVertical, origin, met, clear]

theorem checkVertical_of_not (origin : s.incident.origin = some o)
    (idle : ¬verticalMet s.incident e.loc o.loc = true ∨ s.incident.vertical = true) :
    checkVertical e s = s := by
  rcases idle with unmet | raised
  · simp [checkVertical, origin, unmet]
  · simp [checkVertical, origin, raised]

/-- The flag of R117 is set afterwards where it was, or where the condition is met. -/
theorem checkVertical_vertical_iff (origin : s.incident.origin = some o) :
    (checkVertical e s).incident.vertical = true ↔
      s.incident.vertical = true ∨ verticalMet s.incident e.loc o.loc = true := by
  by_cases idle : ¬verticalMet s.incident e.loc o.loc = true ∨ s.incident.vertical = true
  · rw [checkVertical_of_not origin idle]
    tauto
  · obtain ⟨met, clear⟩ := not_or.mp idle
    have met := not_not.mp met
    rw [checkVertical_of_met origin met (Bool.eq_false_of_not_eq_true clear)]
    simp [met]

/-- The notice of R117 stands on each attached channel where the flag is newly set. -/
theorem checkVertical_has_of_met (origin : s.incident.origin = some o)
    (met : verticalMet s.incident e.loc o.loc = true) (clear : s.incident.vertical = false)
    {ch : Fin 4} (attached : s.isAttached ch = true) :
    NoticeSet.has ((checkVertical e s).channel ch).notices .spreadVertical = true := by
  have same : (s.withIncident { s.incident with vertical := true }).isAttached ch = true := attached
  simp [checkVertical_of_met origin met clear, has_raiseAll, same]

theorem checkVertical_channel_of_free (origin : s.incident.origin = some o)
    (met : verticalMet s.incident e.loc o.loc = true) (clear : s.incident.vertical = false)
    {ch : Fin 4} (free : s.isAttached ch = false) : (checkVertical e s).channel ch = s.channel ch := by
  have unattached : (s.channel ch).attached = none := by simpa [State.isAttached] using free
  rw [checkVertical_of_met origin met clear, channel_raiseAll]
  exact Channel.raise_of_free unattached _

end

/-! ## The Monitor takes a change (R116) -/

theorem entersAlarm_iff (pc : PictureChange) : pc.entersAlarm = true ↔
    (pc.kind = .admission ∨ pc.kind = .state) ∧ pc.entry.state = .alarm := by
  simp [PictureChange.entersAlarm]

theorem monitorTakes_of_entersAlarm {pc : PictureChange} (enters : pc.entersAlarm = true) (s : State) :
    monitorTakes pc s = checkLateral pc.entry (checkVertical pc.entry (alarmRises pc.entry s)) :=
  if_pos enters

/-- A change that brings no entry into ALARM leaves the vertical spread, but that the incident it ends clears
the flag. -/
theorem monitorTakes_cases_of_not_entersAlarm {pc : PictureChange} (other : ¬pc.entersAlarm = true)
    (s : State) :
    (VerticalSame s (monitorTakes pc s) ∧ (monitorTakes pc s).incident.active = s.incident.active) ∨
    ((monitorTakes pc s).crew = s.crew ∧ s.incident.active = true ∧
      (monitorTakes pc s).incident.active = false ∧ (monitorTakes pc s).incident.vertical = false) := by
  rw [monitorTakes, if_neg other]
  split
  · exact alarmFalls_cases pc.entry s
  · split
    · exact .inl ⟨followLocation_verticalSame pc.entry s, followLocation_active pc.entry s⟩
    · exact .inl ⟨.refl s, rfl⟩

/-- At an entering, the vertical check is made against the origin that stands afterwards, and all else the
Monitor does leaves the vertical spread alone. -/
theorem monitorTakes_checks_vertical {pc : PictureChange} (enters : pc.entersAlarm = true) (s : State) :
    ∃ o, (monitorTakes pc s).incident.origin = some o ∧
      ((monitorTakes pc s).incident.vertical = true ↔
        s.incident.vertical = true ∨ verticalMet s.incident pc.entry.loc o.loc = true) ∧
      (verticalMet s.incident pc.entry.loc o.loc = true → s.incident.vertical = false →
        ∀ ch, s.isAttached ch = true →
          NoticeSet.has ((monitorTakes pc s).channel ch).notices .spreadVertical = true) ∧
      (¬verticalMet s.incident pc.entry.loc o.loc = true ∨ s.incident.vertical = true → ∀ ch,
        NoticeSet.has ((monitorTakes pc s).channel ch).notices .spreadVertical =
          NoticeSet.has (s.channel ch).notices .spreadVertical) := by
  obtain ⟨o, origin⟩ := alarmRises_origin pc.entry s
  have risen := alarmRises_verticalSame pc.entry s
  have last := checkLateral_verticalSame pc.entry (checkVertical pc.entry (alarmRises pc.entry s))
  have met_eq := risen.verticalMet pc.entry.loc o.loc
  rw [monitorTakes_of_entersAlarm enters]
  refine ⟨o, by simp [origin], ?_, fun met clear ch attached => ?_,
    fun idle ch => ?_⟩
  · rw [last.vertical, checkVertical_vertical_iff origin, risen.vertical, met_eq]
  · rw [last.notice]
    exact checkVertical_has_of_met origin (met_eq.trans met) (risen.vertical.trans clear)
      (((alarmRises_told pc.entry s).isAttached ch).trans attached)
  · rw [← met_eq, ← risen.vertical] at idle
    rw [last.notice, checkVertical_of_not origin idle, risen.notice]

/-! ## The obligation -/

/-- Settles O39: the check raises its flag and notice where the condition is met and the flag clear; the Monitor
makes it at an entering alone, and everything else it does leaves the vertical spread or ends the incident. -/
theorem verticalSpreadRaisedOnce : Obligations.VerticalSpreadRaisedOnce := by
  refine ⟨fun e o s origin => ?_, fun pc s t ht => ?_⟩
  · rw [← verticalMet_iff]
    refine ⟨fun ⟨met, clear⟩ => ⟨?_, fun ch => checkVertical_has_of_met origin met clear,
      fun ch => checkVertical_channel_of_free origin met clear⟩, checkVertical_of_not origin⟩
    rw [checkVertical_of_met origin met clear]
    rfl
  · subst ht
    rw [← entersAlarm_iff]
    refine ⟨fun enters => ?_, fun other => ?_⟩
    · obtain ⟨o, origin, checked⟩ := monitorTakes_checks_vertical enters s
      refine ⟨o, origin, fun met hmet => ?_⟩
      rwa [hmet, ← verticalMet_iff]
    · obtain ⟨same, active⟩ | ⟨crew, was, ended, clear⟩ := monitorTakes_cases_of_not_entersAlarm other s
      · exact ⟨fun _ => same.vertical, fun moved => absurd active moved, same.notice⟩
      · exact ⟨fun kept => absurd (kept.symm.trans ended) (by simp [was]), fun _ => clear,
          fun ch => by simp only [State.channel, crew]⟩

end Sys2Proof.Machine
end

section
/-!
PROOFS. The plan store (chapter 7): how a block number, and the byte address it stands for, decode into a bank and
a place there.
-/
namespace Sys2Proof.Machine

/-! ## The reduction to the address space (R122) -/

theorem reduceBlock_add_space (b : Nat) : reduceBlock (b + 262144) = reduceBlock b :=
  Nat.add_mod_right b 262144

theorem reduceBlock_of_lt {b : Nat} (inside : b < 262144) : reduceBlock b = b := Nat.mod_eq_of_lt inside

/-! ## The bank and the place of a block (R122) -/

theorem bankBlocks_pos (k : BankSize) : 0 < bankBlocks k := by cases k <;> decide

/-- The decode sees a block number only through its reduction. -/
theorem bankOf_congr (st : Straps) {b c : Nat} (same : reduceBlock b = reduceBlock c) :
    bankOf st b = bankOf st c := by
  rw [bankOf, bankOf, same]

theorem placeInBank_congr (st : Straps) {b c : Nat} (same : reduceBlock b = reduceBlock c) :
    placeInBank st b = placeInBank st c := by
  rw [placeInBank, placeInBank, same]

/-- The bank read off the byte address: 256 bytes to a block, in the address and in the bank size alike. -/
theorem bankOf_eq_byte (st : Straps) (b : Nat) :
    bankOf st b = 256 * reduceBlock b / (256 * bankBlocks st.bankSize) % 4 := by
  rw [bankOf, Nat.mul_div_mul_left _ _ (by decide)]

/-- The place read off the byte address. -/
theorem placeInBank_eq_byte (st : Straps) (b : Nat) :
    256 * placeInBank st b = 256 * reduceBlock b % (256 * bankBlocks st.bankSize) := by
  rw [placeInBank, Nat.mul_mod_mul_left]

/-! ## Ghosts: four banks further on the same bank appears again (R122) -/

theorem bankOf_ghost (st : Straps) {b c : Nat}
    (further : reduceBlock c = reduceBlock b + 4 * bankBlocks st.bankSize) : bankOf st c = bankOf st b := by
  rw [bankOf, bankOf, further, Nat.add_mul_div_right _ _ (bankBlocks_pos st.bankSize), Nat.add_mod_right]

theorem placeInBank_ghost (st : Straps) {b c : Nat}
    (further : reduceBlock c = reduceBlock b + 4 * bankBlocks st.bankSize) :
    placeInBank st c = placeInBank st b := by
  rw [placeInBank, placeInBank, further, Nat.add_mul_mod_self_right]

/-! ## The obligation -/

/-- Settles O41: the bank size given in bytes is that of the straps, so bytes and blocks decode alike; block
`b + 262144` has the reduction of `b`, and four banks change neither the quotient mod 4 nor the remainder. -/
theorem blockAddressDecodes : Obligations.BlockAddressDecodes := by
  intro st b a size p ha hsize hp
  have blocks : p = bankBlocks st.bankSize := by
    rw [hsize] at hp
    cases k : st.bankSize <;> simp only [k, bankBlocks] at hp ⊢ <;> omega
  subst ha hp blocks
  have wraps := reduceBlock_add_space b
  refine ⟨bankOf_eq_byte st b, placeInBank_eq_byte st b, rfl, rfl, bankOf_congr st wraps,
    placeInBank_congr st wraps, fun inside => ?_⟩
  have further := reduceBlock_of_lt inside
  exact ⟨bankOf_ghost st further, placeInBank_ghost st further⟩

end Sys2Proof.Machine
end

section
/-!
PROOFS. The block and its queue: what the three ways of taking a command come to, that each command completes, and
what hardly any command changes.
-/
namespace Sys2Proof.Machine

/-! ## The ways in which a command comes to its effect (log 2, R173) -/

theorem external_held {s : State} (held : s.control.resetHeld = true) (f : State → State) :
    external f s = s := if_pos held

theorem external_free {s : State} (free : s.control.resetHeld = false) (f : State → State) :
    external f s = f (settle s) := by simp [external, free]

theorem framed_held {s : State} (held : s.control.resetHeld = true) (f : State → State) :
    framed f s = s := if_pos held

theorem framed_free {s : State} (free : s.control.resetHeld = false) (f : State → State) :
    framed f s = f (atOnce s) := by simp [framed, free]

theorem internal_held {s : State} (held : s.control.resetHeld = true) (f : State → State) :
    internal f s = s := if_pos held

theorem internal_free {s : State} (free : s.control.resetHeld = false) (f : State → State) :
    internal f s = f s := by simp [internal, free]

/-! ## What hardly any command changes -/

section
variable {s t : State}

@[simp] theorem emptySentCopies_kept (h : Kept s t) : Kept s (emptySentCopies t) := withPub_kept h _ rfl

@[simp] theorem publisherCompletes_kept (h : Kept s t) (f : TxFrame) : Kept s (publisherCompletes f t) := by
  unfold publisherCompletes
  split
  · exact withPub_kept h _ rfl
  · exact foldl_keeps (P := Kept s) (fun _ x k => awaitOrigin_kept k x) _ _ h
  · exact h

@[simp] theorem quietEvent_kept (h : Kept s t) : Kept s (quietEvent t) := by simp [quietEvent, h]

@[simp] theorem mismatchEvent_kept (h : Kept s t) (n : Nat) : Kept s (mismatchEvent n t) := by
  unfold mismatchEvent
  split <;> simp [h]

@[simp] theorem frameEndEvent_kept (h : Kept s t) (l : List Byte) (b : Bool) :
    Kept s (frameEndEvent l b t) := by simp [frameEndEvent, h]

@[simp] theorem transferEvent_kept (h : Kept s t) (b : BlockBytes) : Kept s (transferEvent b t) :=
  settleReports_kept (withStore_kept h _)

@[simp] theorem strapsStep_kept (h : Kept s t) : Kept s (strapsStep t) :=
  kept_ite (settleReports_kept (askStore_kept (atStep_kept h _) _)) (atStep_kept h _)

@[simp] theorem writeSupplyFault_kept (h : Kept s t) : Kept s (writeSupplyFault t) := by
  simp [writeSupplyFault, h]

@[simp] theorem scanIfRunning_kept (h : Kept s t) (r : Readings) : Kept s (scanIfRunning r t) := by
  simp [scanIfRunning, h]

/-- A completion advances the sequence number and leaves the rest of what `Kept` speaks of. -/
theorem completeFrame_kept (f : TxFrame) (s : State) :
    Kept (s.withPub { s.pub with
      seq := (s.pub.seq + 1) % 4096
      summaryCounter := Config.summaryInterval s.pub.seed, summaryDue := false }) (completeFrame f s) :=
  withRiser_kept (emptySentCopies_kept (publisherCompletes_kept (clearCondition_kept (.refl _) _) f)) _

/-- The work of a tick leaves what `Kept` speaks of as the timers' rise leaves it. -/
theorem tickWork_kept (r : Readings) (o : TickOrder) (s : State) : Kept (tickTimers s) (tickWork r o s) := by
  cases o <;> simp [tickWork]

end

/-- No command but a reset, a tick and a completion changes what `Kept` speaks of. -/
theorem exec_kept {c : Instr} {s t : State} (cold : ∀ st, c ≠ .coldStart st)
    (warm : ∀ st, c ≠ .warmRestart st) (asserted : c ≠ .resetAssert) (tick : ∀ r o, c ≠ .tick r o)
    (completion : c ≠ .frameCompletion) (h : exec c s = .next t) : Kept s t := by
  have outside {f : State → State} (k : ∀ u, Kept s u → Kept s (f u))
      (e : Host.Outcome.next (external f s) = (.next t : Host.Outcome State Fault Refusal)) : Kept s t :=
    Host.Outcome.next.inj e ▸ external_kept k (.refl s)
  have take {f : State → State} (k : ∀ u, Kept s u → Kept s (f u))
      (e : Host.Outcome.next (framed f s) = (.next t : Host.Outcome State Fault Refusal)) : Kept s t :=
    Host.Outcome.next.inj e ▸ framed_kept k (.refl s)
  have ofItself {f : State → State} (k : ∀ u, Kept s u → Kept s (f u))
      (e : Host.Outcome.next (internal f s) = (.next t : Host.Outcome State Fault Refusal)) : Kept s t :=
    Host.Outcome.next.inj e ▸ internal_kept k (.refl s)
  cases c with
  | coldStart st => exact absurd rfl (cold st)
  | warmRestart st => exact absurd rfl (warm st)
  | resetAssert => exact absurd rfl asserted
  | tick r o => exact absurd rfl (tick r o)
  | frameCompletion => exact absurd rfl completion
  | silenceExpiry | holdExpiry | recoveryStart | incidentHoldExpiry | awaitTimerExpiry | summaryCounterExpiry
  | stuckEvent | linkLoss | stateFrameBuild | fullsetFrameBuild | summaryFrameBuild | resyncFrameBuild
  | answerPlaced | noticePendingPlaced | listMessagePlaced | bundleMessagePlaced =>
    exact ofItself (fun _ k => by simp [k]) h
  | stateFrame | fullsetFrame | summaryFrame | resyncFrame => exact take (fun _ k => by simp [k]) h
  | _ => exact outside (fun _ k => by simp [k]) h

theorem exec_next (c : Instr) (s : State) : ∃ t, exec c s = .next t := by
  cases c <;> exact ⟨_, rfl⟩

/-! ## The obligations -/

/-- Settles O1: the command at the front is taken off and run, and an empty queue idles. -/
theorem stepRunsTheFrontCommand : Obligations.StepRunsTheFrontCommand :=
  fun _ _ _ => ⟨rfl, rfl⟩

theorem coldStart_pending (st : Straps) (s : State) : (coldStart st s).pending = s.pending :=
  (strapsStep_kept (writeSupplyFault_kept (.refl _))).pending

theorem warmRestart_pending (st : Straps) (s : State) : (warmRestart st s).pending = s.pending :=
  (strapsStep_kept (writeSupplyFault_kept (.refl _))).pending

theorem assertReset_eq (s : State) : assertReset s =
    { s with
      control := { s.control with resetHeld := true }
      riser := { s.riser with tx := if s.riser.tx.isSending then .empty else s.riser.tx }
      crew := { s.crew with sending := none }
      store := { s.store with engine := .idle } } := by
  by_cases sending : s.riser.tx.isSending = true <;>
    simp [assertReset, State.withControl, State.withRiser, State.withCrew, State.withStore, sending]

theorem settle_resetHeld (s : State) : (settle s).control.resetHeld = s.control.resetHeld :=
  (settle_kept (.refl s)).resetHeld

/-- Settles O2: a reset hands the queue on, a tick and a completion move nothing of it, and every other command
keeps it with the rest of `Kept`. -/
theorem everyCommandCompletesAndKeepsTheQueue : Obligations.EveryCommandCompletesAndKeepsTheQueue := by
  intro c s
  obtain ⟨t, ht⟩ := exec_next c s
  refine ⟨t, ht, ?_⟩
  cases c with
  | coldStart st => cases ht; exact coldStart_pending st s
  | warmRestart st => cases ht; exact warmRestart_pending st s
  | resetAssert => cases ht; rw [assertReset_eq]
  | tick r o =>
    cases ht
    split
    case isTrue => rfl
    case isFalse => exact (tickWork_kept r o _).pending.trans (settle_kept (.refl s)).pending
  | frameCompletion =>
    cases ht
    have settled := (settle_kept (.refl s)).pending
    unfold external completionEvent
    split
    · rfl
    · split
      case _ f _ _ => exact (completeFrame_kept f _).pending.trans settled
      all_goals exact settled
  | _ => exact (exec_kept (by simp) (by simp) (by simp) (by simp) (by simp) ht).pending

/-- Settles O3: each way of taking a command stops at the reset input, a held tick counts alone, and the assertion
is taken at once. -/
theorem heldPartOnlyCountsTicks : Obligations.HeldPartOnlyCountsTicks := by
  refine ⟨fun c s held cold warm tick asserted => ?_, fun r o s held below => ?_,
    fun s => congrArg Host.Outcome.next (assertReset_eq s)⟩
  · cases c with
    | coldStart st => exact absurd rfl (cold st)
    | warmRestart st => exact absurd rfl (warm st)
    | resetAssert => exact absurd rfl asserted
    | tick r o => exact absurd rfl (tick r o)
    | silenceExpiry | holdExpiry | recoveryStart | incidentHoldExpiry | awaitTimerExpiry
    | summaryCounterExpiry | stuckEvent | linkLoss | stateFrameBuild | fullsetFrameBuild | summaryFrameBuild
    | resyncFrameBuild | answerPlaced | noticePendingPlaced | listMessagePlaced | bundleMessagePlaced =>
      exact congrArg Host.Outcome.next (internal_held held _)
    | stateFrame | fullsetFrame | summaryFrame | resyncFrame =>
      exact congrArg Host.Outcome.next (framed_held held _)
    | _ => exact congrArg Host.Outcome.next (external_held held _)
  · have counts : nextTick s.control.tick = s.control.tick + 1 := if_pos below
    change Host.Outcome.next (if s.control.resetHeld then tickHeld s else tickWork r o (settle s)) = _
    rw [if_pos held, tickHeld, tickControl, counts]
    rfl

end Sys2Proof.Machine
end

section
/-!
PROOFS. Resets (chapter 10): what a reset does over free channels, and the values of the cold start.
-/
namespace Sys2Proof.Machine

/-! ## Telling a crew port without attached channels -/

@[simp] theorem setChannel_self (s : State) (ch : Fin 4) : s.setChannel ch (s.channel ch) = s := by
  fin_cases ch <;> rfl

@[simp] theorem setBundle_self (s : State) (ch : Fin 4) : s.setBundle ch (s.bundle ch) = s := by
  fin_cases ch <;> rfl

/-- An operation that leaves the state alone on every channel leaves it alone on the four in turn. -/
theorem eachChannel_self {σ : Type} {f : Fin 4 → σ → σ} {s : σ} (h : ∀ ch, f ch s = s) :
    eachChannel f s = s := by
  simp only [eachChannel, h]

section
variable {s : State} (free : ∀ ch, (s.channel ch).attached = none)
include free

theorem raiseAll_of_free (n : Notice) : s.raiseAll n = s :=
  eachChannel_self fun ch => by rw [State.raise, Channel.raise_of_free (free ch), setChannel_self]

theorem routeChange_of_free (pc : PictureChange) : routeChange pc s = s :=
  eachChannel_self fun ch => by simp only [routeOn, free ch]

theorem setCondition_of_free (c : Condition) : s.setCondition c =
    s.withControl { s.control with
      conditions := if s.hasCondition c then s.control.conditions else setBit s.control.conditions c.bit } := by
  unfold State.setCondition
  split
  case isTrue => rfl
  case isFalse clear => exact raiseAll_of_free (s := s.withControl { s.control with conditions := setBit s.control.conditions c.bit }) free _

/-- A change that has nothing to do with ALARM, told where no channel is attached, changes nothing. -/
theorem emit_of_free {pc : PictureChange} (calm : monitorTakes pc s = s) : emit pc s = s := by
  rw [emit, calm, routeChange_of_free free]

end

/-! ## The point-0 entry and the STRAPS step -/

theorem monitorTakes_supplyFault (n k : Nat) (s : State) :
    monitorTakes (plainChange .admission (Entry.supplyFault n k)) s = s := rfl

/-- The state that a reset leaves, before the STRAPS step. -/
def State.supplied (st : Straps) (tick : Nat) (table : PictureTable) (incident : IncidentMonitor)
    (pending : List Instr) : State :=
  { State.afterReset st tick
      { table with entries := Machine.putEntry (Entry.supplyFault st.station.toNat tick) table.entries }
      incident pending with
    control := { StationControl.afterReset st tick with conditions := 1 } }

/-- The point-0 entry of a reset, written where every block but the table and the Monitor has its reset value. -/
theorem writeSupplyFault_afterReset (st : Straps) (tick : Nat) (table : PictureTable)
    (incident : IncidentMonitor) (pending : List Instr) :
    writeSupplyFault (.afterReset st tick table incident pending) =
      .supplied st tick table incident pending := by
  have free (s : State) (h : s.crew = .reset) (ch : Fin 4) : (s.channel ch).attached = none := by
    rw [State.channel, h, CrewUnit.reset, Four.get_all]
    rfl
  have clear (s : State) (h : s.control.conditions = 0) : ¬s.hasCondition .supply = true := by
    rw [State.hasCondition, h]
    decide
  have supply : setBit 0 Condition.supply.bit = 1 := by decide
  rw [writeSupplyFault, placeEntry, emit_of_free (free _ rfl) (monitorTakes_supplyFault _ _ _),
    State.setCondition, if_neg (clear _ rfl), raiseAll_of_free (free _ rfl)]
  simp only [State.withControl, State.supplied, ← supply]
  rfl

theorem bankOf_zero (st : Straps) : bankOf st 0 = 0 := by simp [bankOf, reduceBlock]

theorem populated_zero (st : Straps) : populated st 0 = true := by simp [populated, bankOf_zero, bankCount]

/-- The STRAPS step with a valid number, over a store as after a reset: the read of block 0 is in flight. -/
theorem strapsStep_valid {s : State} (valid : validStation s.own = true) (store : s.store = .reset) :
    strapsStep s = (s.atStep .header).withStore { PlanStore.reset with engine := .first .header false } := by
  have asked : PlanStore.reset.request s.control.straps (loaderRequest 0) =
      ({ PlanStore.reset with engine := .first .header false }, []) := by
    change PlanStore.advance { PlanStore.reset with mainQueue := [loaderRequest 0] } s.control.straps = _
    simp only [PlanStore.advance, PlanStore.reset, ReadEngine.isIdle, takeNext, PlanStore.pop, loaderRequest,
      populated_zero, List.length_nil, List.length_cons, if_true]
    rfl
  rw [strapsStep, if_pos valid, askStore]
  simp only [State.atStep, withControl_store, withControl_control, store, asked]
  rfl

theorem strapsStep_invalid {s : State} (invalid : ¬validStation s.own = true) :
    strapsStep s = s.atStep .held := if_neg invalid

theorem validStation_iff (n : Nat) : validStation n = true ↔ 1 ≤ n ∧ n ≤ 250 := decide_eq_true_iff

/-- A reset as a whole: the STRAPS step moves the load step and the engine, by the station number sampled. -/
theorem strapsStep_supplied (st : Straps) (tick : Nat) (table : PictureTable) (incident : IncidentMonitor)
    (pending : List Instr) :
    (1 ≤ st.station.toNat ∧ st.station.toNat ≤ 250 →
      strapsStep (.supplied st tick table incident pending) =
        ((State.supplied st tick table incident pending).atStep .header).withStore
          { PlanStore.reset with engine := .first .header false }) ∧
    (¬(1 ≤ st.station.toNat ∧ st.station.toNat ≤ 250) →
      strapsStep (.supplied st tick table incident pending) =
        (State.supplied st tick table incident pending).atStep .held) :=
  ⟨fun valid => strapsStep_valid ((validStation_iff _).mpr valid) rfl,
    fun invalid => strapsStep_invalid fun h => invalid ((validStation_iff _).mp h)⟩

theorem coldStart_eq (st : Straps) (s : State) : coldStart st s = strapsStep (.supplied st 0
    { PictureTable.cold st.station.toNat with entries := [] } .cold s.pending) :=
  congrArg strapsStep (writeSupplyFault_afterReset _ _ _ _ _)

theorem warmRestart_eq (st : Straps) (s : State) : warmRestart st s = strapsStep (.supplied st s.now
    (tableAfterRestart s.own st.station.toNat s.table)
    (.recomputed (tableAfterRestart s.own st.station.toNat s.table).entries) s.pending) :=
  congrArg strapsStep (writeSupplyFault_afterReset _ _ _ _ _)

/-- Settles O4: with the point-0 entry written over free channels, every block stands as the reset gave it, and the
STRAPS step goes by the station number. -/
theorem coldStartResult : Obligations.ColdStartResult := by
  refine ⟨fun s => ?_, fun st s => ⟨_, rfl, ?_⟩⟩
  · have valid : 1 ≤ resetStraps.station.toNat ∧ resetStraps.station.toNat ≤ 250 := by decide
    refine congrArg Host.Outcome.next ?_
    rw [coldStart_eq, (strapsStep_supplied _ _ _ _ _).1 valid]
    rfl
  · rw [coldStart_eq]
    by_cases valid : 1 ≤ st.station.toNat ∧ st.station.toNat ≤ 250
    · rw [(strapsStep_supplied _ _ _ _ _).1 valid]
      exact ⟨rfl, rfl, rfl, rfl, rfl, rfl, rfl, rfl, rfl, rfl, rfl, rfl, rfl, rfl, rfl, rfl, rfl, rfl, rfl,
        rfl, fun _ => ⟨rfl, rfl⟩, fun invalid => absurd valid (by omega)⟩
    · rw [(strapsStep_supplied _ _ _ _ _).2 valid]
      exact ⟨rfl, rfl, rfl, rfl, rfl, rfl, rfl, rfl, rfl, rfl, rfl, rfl, rfl, rfl, rfl, rfl, rfl, rfl, rfl,
        rfl, fun h => absurd h valid, fun _ => ⟨rfl, rfl⟩⟩

/-! ## State.reset -/

@[simp] theorem reset_channel (ch : Fin 4) : State.reset.channel ch = Channel.reset := Four.get_all _ ch

@[simp] theorem reset_bundle (ch : Fin 4) : State.reset.bundle ch = Bundle.reset := Four.get_all _ ch

theorem reset_hasCondition {c : Condition} (other : c ≠ .supply) : State.reset.hasCondition c = false := by
  cases c with
  | supply => exact absurd rfl other
  | line | plan | config | duplicate => rfl

theorem getD_replicate_default {α : Type} (n i : Nat) (a : α) : (List.replicate n a).getD i a = a := by
  rw [List.getD_eq_getElem?_getD, List.getElem?_replicate]
  split <;> rfl

theorem reset_copyAt (i : Nat) : State.reset.pub.copyAt i = none := by
  change (if i < 64 then none else (List.replicate 16 (none : Option ClearingCopy)).getD (i - 64) none) = none
  split
  · rfl
  · exact getD_replicate_default _ _ _

theorem reset_groups (c : Nat) (inside : c < 16) : State.reset.incident.groups.getD c 1 = 0 :=
  List.getD_replicate _ inside

theorem reset_chan (i : Nat) (inside : i < 64) : State.reset.scanner.chan i =
    { state := if i = 0 then .fault else .normal, candidate := none, counter := 0, armed := false,
      lastLevel := 0 } := by
  cases i with
  | zero => rfl
  | succ n =>
    change (List.replicate 63 (ScanChannel.reset .normal)).getD n _ = _
    rw [getD_replicate_default]
    rfl

theorem reset_origins_length : State.reset.table.origins.length = 250 := List.length_replicate ..

theorem reset_channels_length : State.reset.scanner.channels.length = 64 :=
  congrArg (· + 1) (List.length_replicate ..)

theorem reset_origin (x : Nat) : State.reset.origin x = OriginRecord.cold := by
  unfold State.origin
  split
  · rfl
  · exact getD_replicate_default _ _ _

/-- Settles O6: the values are those of the reset's definition, block by block. -/
theorem resetLeavesTheTableValues : Obligations.ResetLeavesTheTableValues := by
  refine ⟨rfl, rfl, rfl, rfl, rfl, rfl, fun _ => reset_hasCondition, ?merge⟩
  refine ⟨rfl, rfl, rfl, rfl, rfl, ?riser⟩
  refine ⟨rfl, rfl, rfl, rfl, rfl, rfl, rfl, rfl, rfl, ?pub⟩
  refine ⟨rfl, rfl, rfl, rfl, rfl, rfl, rfl, rfl, reset_copyAt, ?incident⟩
  refine ⟨rfl, rfl, rfl, rfl, rfl, rfl, rfl, rfl, reset_groups, rfl, ?scanner⟩
  refine ⟨reset_channels_length, rfl, reset_chan, ?table⟩
  refine ⟨reset_origins_length, rfl, fun x _ _ => reset_origin x, ?store⟩
  refine ⟨rfl, rfl, rfl, rfl, rfl, rfl, reset_bundle, reset_channel, ?port⟩
  exact ⟨rfl, rfl, rfl, rfl, rfl, rfl⟩

theorem reset_readsOf_channel (ch : Fin 4) : State.reset.store.readsOf (.channel ch) = [] := by
  fin_cases ch <;> rfl

theorem reset_orphansOf (ch : Fin 4) : State.reset.store.orphansOf ch = 0 := rfl

theorem reset_readsOk : ReadsOk State.reset := by
  refine fun _ => ⟨fun ch => ?_, by decide, fun _ ch => by simp [Bundle.reset], fun r h => by cases h⟩
  rw [reset_readsOf_channel, reset_orphansOf, reset_bundle]
  exact Bundle.readsOk_quiet rfl rfl rfl rfl (by decide)

/-- Settles O59: the reset's queues and late sets are empty, its one entry is the FAULT of point 0 in a QUIET
Monitor, and the one read is the loader's. -/
theorem invariantsHoldAtReset : Obligations.InvariantsHoldAtReset := by
  refine ⟨fun ch => by rw [reset_channel]; exact queueOk_reset, ?_, fun ch => ?_, ?_⟩
  · refine ⟨⟨⟨by simp, trivial⟩, ?_, by decide⟩, rfl, rfl, by simp [State.reset, IncidentMonitor.cold]⟩
    exact List.forall_mem_singleton.mpr (by decide)
  · rw [reset_bundle]
    exact ⟨by decide, List.nodup_nil, fun _ => rfl⟩
  · refine ⟨by decide, by decide, by decide, by decide, by decide, by decide, ⟨rfl, fun _ h => absurd h List.not_mem_nil⟩,
      reset_origins_length, reset_channels_length,
      fun ch => by rw [reset_bundle]; decide, fun _ idle => (by cases idle), reset_readsOk⟩

end Sys2Proof.Machine
end

section
/-!
PROOFS. Point scanning (chapter 1): bands, the values a configuration is taken as, and the scanner's answers.
-/
namespace Sys2Proof.Machine

theorem bandOf_cases (t : Thresholds) (v : Nat) (low : t.faultLow < t.pre) (mid : t.pre ≤ t.alarm)
    (high : t.alarm ≤ 254) :
    (v ≤ t.faultLow → bandOf t v = .fault) ∧
    (t.faultLow < v ∧ v < t.pre → bandOf t v = .normal) ∧
    (t.pre ≤ v ∧ v < t.alarm → bandOf t v = .prealarm) ∧
    (t.alarm ≤ v ∧ v ≤ 254 → bandOf t v = .alarm) ∧
    (v = 255 → bandOf t v = .fault) := by
  unfold bandOf
  refine ⟨fun h => if_pos (.inl h), fun h => ?_, fun h => ?_, fun h => ?_, fun h => if_pos (.inr h)⟩
  · rw [if_neg (by omega), if_pos h.2]
  · rw [if_neg (by omega), if_neg (by omega), if_pos h.2]
  · rw [if_neg (by omega), if_neg (by omega), if_neg (by omega)]

/-- Settles O13: each reading meets one branch of the classification, and the kinds differ in their prealarm and
alarm bands alone. -/
theorem readingLiesInItsBand : Obligations.ReadingLiesInItsBand := by
  refine ⟨fun raw => ⟨rfl, rfl⟩, fun t v low mid high _ => bandOf_cases t v low mid high, fun k used => ?_,
    ⟨rfl, rfl, rfl, rfl⟩, fun c => ⟨rfl, rfl, rfl, rfl⟩⟩
  cases k with
  | unused => exact absurd rfl used
  | detector | callpoint | flow | supervisory => exact ⟨rfl, rfl, rfl, rfl⟩

theorem orderThresholds_ordered (t : Thresholds) :
    (orderThresholds t).faultLow < (orderThresholds t).pre ∧
    (orderThresholds t).pre ≤ (orderThresholds t).alarm ∧
    (orderThresholds t).alarm ≤ 254 ∧ 1 ≤ (orderThresholds t).pre := by
  simp only [orderThresholds]
  refine ⟨?_, ?_, ?_, ?_⟩ <;> split_ifs <;> omega

theorem orderThresholds_of_ordered {t : Thresholds}
    (h : t.faultLow < t.pre ∧ t.pre ≤ t.alarm ∧ t.alarm ≤ 254 ∧ 1 ≤ t.pre) : orderThresholds t = t := by
  have alarm : (if t.alarm > 254 then 254 else if t.alarm = 0 then 1 else t.alarm) = t.alarm := by
    rw [if_neg (by omega), if_neg (by omega)]
  have pre : (if t.pre > t.alarm then t.alarm else if t.pre = 0 then 1 else t.pre) = t.pre := by
    rw [if_neg (by omega), if_neg (by omega)]
  simp only [orderThresholds, alarm, pre]
  rw [if_neg (by omega)]

theorem takeConfirm_range (n : Nat) : 1 ≤ takeConfirm n ∧ takeConfirm n ≤ 15 := by
  unfold takeConfirm
  split_ifs <;> omega

theorem takeDivider_range (n : Nat) : 1 ≤ takeDivider n ∧ takeDivider n ≤ 16 := by
  unfold takeDivider
  split_ifs <;> omega

/-- Settles O14: every branch of the normalisations lands in its range, and the branch of a value in range keeps
it. -/
theorem configurationIsNormalised : Obligations.ConfigurationIsNormalised := by
  refine ⟨fun t _ _ _ => ?_, fun n => ?_, fun n => ?_, rfl, rfl, fun n h => if_neg (by omega)⟩
  · obtain ⟨low, mid, high, one⟩ := orderThresholds_ordered t
    exact ⟨low, mid, high, one, orderThresholds_of_ordered⟩
  · refine ⟨(takeConfirm_range n).1, (takeConfirm_range n).2, fun h => ?_, rfl⟩
    rw [takeConfirm, if_neg (by omega), if_pos h.2]
  · refine ⟨(takeDivider_range n).1, (takeDivider_range n).2, fun h => ?_, fun h => ?_⟩
    · rw [takeDivider, if_neg (by omega), if_neg (by omega)]
    · rw [takeDivider, if_neg (by omega), if_pos h]

theorem kind_unused_iff (n : Scanner) (i : Nat) : n.kind i = .unused ↔ (n.config i).kind = .unused ∧ i ≠ 0 := by
  by_cases zero : i = 0 <;> simp [Scanner.kind, zero]

theorem latched_false_iff (n : Scanner) (i : Nat) :
    n.latched i = false ↔ (n.config i).latched = false ∨ i = 0 := by
  by_cases zero : i = 0 <;> simp [Scanner.latched, zero]

/-- Settles O18: the answer goes by the tests of R9 in their order, with point 0 SUPERVISORY and FOLLOW. -/
theorem scannerAnswersRequests : Obligations.ScannerAnswersRequests := by
  intro q i s
  have unused := kind_unused_iff s.scanner i
  have follow := latched_false_iff s.scanner i
  unfold scanAnswer
  refine ⟨fun bad => if_pos (bad.imp_right unused.mpr), fun good => ?_⟩
  rw [if_neg fun bad => good (bad.imp_right unused.mp)]
  refine ⟨fun zero => if_pos zero, fun h => ?_, fun noZero noFollow => ?_⟩
  · have notIsolate : ¬(q = .isolate ∧ i = 0) := fun k => by simp [k.1] at h
    rw [if_neg notIsolate, if_pos (h.imp_right follow.mpr)]
  · rw [if_neg noZero, if_neg fun k => noFollow (k.imp_right follow.mp)]

end Sys2Proof.Machine
end

section
/-!
PROOFS. A property that each write of a block keeps is kept by every step: the operations of a step once, for any
such property.
-/
namespace Sys2Proof.Machine

/-! ## Small facts -/

theorem length_updAt {α : Type} (l : List α) (n : Nat) (f : α → α) : (updAt l n f).length = l.length := by
  induction l generalizing n with
  | nil => rfl
  | cons a l ih =>
    cases n with
    | zero => rfl
    | succ n => exact congrArg (· + 1) (ih n)

theorem addr_of_entryAt {s : State} {a : Address} {e : Entry} (h : s.entryAt a = some e) : e.addr = a := by
  simpa using List.find?_some h

theorem mem_of_entryAt {s : State} {a : Address} {e : Entry} (h : s.entryAt a = some e) : e ∈ s.entries :=
  List.mem_of_find?_eq_some h

theorem entryAt_addr {s : State} {a : Address} {e : Entry} (h : s.entryAt a = some e) :
    s.entryAt e.addr = some e := by rw [addr_of_entryAt h, h]

/-- The entry at an address depends on the table alone. -/
theorem entryAt_congr {s t : State} (h : t.table = s.table) (a : Address) : t.entryAt a = s.entryAt a := by
  simp only [State.entryAt, h]

theorem freeSlot_some {s : State} {i : Nat} (h : s.freeSlot = some i) :
    64 ≤ i ∧ i ≤ 79 ∧ s.ownAt i = none := by
  have free := List.find?_some h
  have mem := List.mem_of_find?_eq_some h
  simp only [List.mem_map, List.mem_range] at mem
  obtain ⟨k, below, rfl⟩ := mem
  exact ⟨by omega, by omega, by simpa using free⟩

theorem decodeRecord_index {b : List Byte} {r : Record} (h : decodeRecord b = some r) : r.index ≤ 79 := by
  unfold decodeRecord at h
  dsimp only at h
  split at h
  · split at h
    case isTrue ok => simp at ok h; subst h; dsimp; omega
    case isFalse => cases h
  · split at h
    case isTrue ok => simp at ok h; subst h; dsimp; omega
    case isFalse => cases h
  · split at h
    case isTrue ok => simp at ok h; subst h; dsimp; omega
    case isFalse => cases h
  · cases h

theorem nextListMessage_queue {s : State} {c : Channel} {out : Message × Channel}
    (h : nextListMessage s c = some out) : out.2.queue = c.queue := by
  unfold nextListMessage at h
  split at h
  · cases h; rfl
  · cases h
  · split at h
    · cases h; rfl
    · cases h; rfl
    · split at h <;> cases h <;> rfl

/-- The waiter that comes next has its room. -/
theorem nextWaiter_room {s : State} {ch : Fin 4} {w : Waiter} (h : nextWaiter s ch = some w) :
    (w ≠ .bundle → (s.channel ch).queue.length < 24) ∧
      (w = .bundle → bundleFits (s.channel ch) (s.bundle ch) = true) := by
  unfold nextWaiter at h
  dsimp only at h
  split at h
  case isTrue k => cases h; exact ⟨fun _ => (room_pos_iff _).mp (by simp at k; exact k.2), by simp⟩
  case isFalse =>
    split at h
    case isTrue k => cases h; exact ⟨fun _ => (room_pos_iff _).mp (by simp at k; exact k.2), by simp⟩
    case isFalse =>
      split at h
      case isTrue k => cases h; exact ⟨fun _ => (room_pos_iff _).mp (by simp at k; exact k.2), by simp⟩
      case isFalse =>
        split at h
        case isTrue k => cases h; exact ⟨by simp, fun _ => k⟩
        case isFalse => cases h

theorem bundleFits_room {c : Channel} {b : Bundle} (h : bundleFits c b = true) : c.queue.length < 24 := by
  unfold bundleFits at h
  split at h
  case _ m _ =>
    have room : 1 ≤ m.room := by cases m <;> simp [Message.room, Config.blockRoom]
    exact (room_pos_iff _).mp (room.trans (of_decide_eq_true h))
  case _ => cases h

/-- The own sequence number and the clearing copies are in their ranges (R86, R89). -/
def Publisher.InForm (p : Publisher) : Prop := p.seq ≤ 4095 ∧ p.CopiesOk

/-- The read engine does not idle over work, and the promote queue has its size (R126, R127). -/
def PlanStore.InForm (p : PlanStore) : Prop := p.EngineOk ∧ p.promoteQueue.length ≤ 2

theorem setCopy_inForm {p : Publisher} (h : p.InForm) (i : Nat) (c : Option ClearingCopy) :
    Publisher.InForm { p with
      copies := updAt p.copies (i - 64) (fun _ => c), copiesInFlight := clearMark i p.copiesInFlight } :=
  ⟨h.1, (length_updAt _ _ _).trans h.2.1, fun k hk => h.2.2 k (List.mem_filter.mp hk).1⟩

theorem Publisher.InForm.noneInFlight {p q : Publisher} (h : p.InForm) (seq : q.seq = p.seq := by rfl)
    (copies : q.copies = p.copies := by rfl) (none : q.copiesInFlight = [] := by rfl) : q.InForm :=
  ⟨seq ▸ h.1, copies ▸ h.2.1, by simp [none]⟩

theorem copyAt_slot {p : Publisher} (h : p.CopiesOk) {i : Nat} {c : ClearingCopy}
    (k : p.copyAt i = some c) : 64 ≤ i ∧ i ≤ 79 := by
  unfold Publisher.copyAt at k
  split at k
  · cases k
  · by_contra out
    rw [List.getD_eq_default _ _ (by rw [h.1]; omega)] at k
    cases k

/-- Marks copied of marker slots only. -/
def Building.SlotsOk (b : Building) : Prop := ∀ i ∈ b.copied, 64 ≤ i ∧ i ≤ 79

theorem takeChange_slotsOk {s : State} (h : s.pub.CopiesOk) {b : Building} (ok : b.SlotsOk) (i : Nat) :
    (takeChange s b i).SlotsOk := by
  unfold takeChange
  split
  · exact ok
  · split
    case _ r fromCopy given =>
      dsimp only [Building.SlotsOk]
      split
      case isFalse => exact ok
      case isTrue copy =>
        subst copy
        have slot : 64 ≤ i ∧ i ≤ 79 := by
          unfold recordForMark at given
          split at given
          · cases given
          · split at given
            · cases given
            · obtain ⟨c, held, _⟩ := Option.map_eq_some_iff.mp given
              exact copyAt_slot h held
        intro k hk
        rcases List.mem_append.mp hk with old | new
        · exact ok k old
        · exact List.mem_singleton.mp new ▸ slot
    case _ => exact ok

theorem takeLevel_copied (s : State) (b : Building) (i : Nat) : (takeLevel s b i).copied = b.copied := by
  unfold takeLevel
  split
  · rfl
  · split <;> rfl

theorem fillState_slotsOk {s : State} (h : s.pub.CopiesOk) : (fillState s).SlotsOk := by
  have changes (l : List Nat) (b : Building) (ok : b.SlotsOk) : (l.foldl (takeChange s) b).SlotsOk :=
    foldl_keeps (P := Building.SlotsOk) (fun _ i k => takeChange_slotsOk h k i) l b ok
  have levels (l : List Nat) (b : Building) (ok : b.SlotsOk) : (l.foldl (takeLevel s) b).SlotsOk :=
    foldl_keeps (P := Building.SlotsOk) (fun b i k => by
      rw [Building.SlotsOk, takeLevel_copied]; exact k) l b ok
  exact levels _ _ (changes _ _ (changes _ _ (by simp [Building.SlotsOk])))

theorem foldl_emptied_length (l : List Nat) (c : List (Option ClearingCopy)) :
    (l.foldl (fun c i => updAt c (i - 64) (fun _ => none)) c).length = c.length :=
  foldl_keeps (P := fun d : List (Option ClearingCopy) => d.length = c.length)
    (fun _ _ k => (length_updAt _ _ _).trans k) l c rfl

/-! ## The properties -/

/-- The property is kept where one block is written, under what the blocks' own bounds ask of the write. -/
structure BlocksClosed (P : State → Prop) : Prop where
  pending {s} (l : List Instr) : P s → P (s.withPending l)
  control {s} {v : StationControl} : P s → (running : v.running = s.control.running := by rfl) →
    (resetHeld : v.resetHeld = s.control.resetHeld := by rfl) →
    (straps : v.straps = s.control.straps := by rfl) → P (s.withControl v)
  due {s} (v : TickDue) : P s → P (s.withDue v)
  timers {s} : P s → P (tickTimers s)
  incidentEnded {s} : P s → P (s.withIncident s.incident.ended)
  origin {s} (x : Nat) (f : OriginRecord → OriginRecord) : P s → P (s.modOrigin x f)
  recovery {s} (r : Option Recovery) : P s → P (s.withTable { s.table with recovery := r })
  merge {s} {v : MergeUnit} : P s → (s.merge.queue.length ≤ 4 → v.queue.length ≤ 4) → P (s.withMerge v)
  riser {s} {v : RiserLine} : P s → (stuckTimer : v.stuckTimer = s.riser.stuckTimer := by rfl) →
    P (s.withRiser v)
  pub {s} {v : Publisher} : P s → (s.pub.InForm → v.InForm) → P (s.withPub v)
  crew {s} {v : CrewUnit} : P s → (s.crew.linkTimer ≤ 50 → v.linkTimer ≤ 50) →
    (channels : v.channels = s.crew.channels := by rfl) → P (s.withCrew v)
  channel {s} {ch : Fin 4} {c : Channel} : P s → ((s.channel ch).QueueOk → c.QueueOk) →
    P (s.setChannel ch c)
  scanner {s} {v : Scanner} : P s →
    (channels : v.channels.length = s.scanner.channels.length := by rfl) → P (s.withScanner v)

/-- The property is kept by the operations that a step is made of besides: those on the bundles with the store, and
those on the entries with the blocks that follow them. -/
structure StepClosed (P : State → Prop) : Prop extends BlocksClosed P where
  transferEvent {s} (b : BlockBytes) : P s → P (transferEvent b s)
  sheetCarried {s} (ch : Fin 4) (n : Nat) : P s → s.control.running = true → P (sheetCarried ch n s)
  placeBundleMessage {s} (ch : Fin 4) : P s → bundleFits (s.channel ch) (s.bundle ch) = true →
    P (placeBundleMessage ch s)
  abortForDetach {s} (ch : Fin 4) : P s → P (abortForDetach ch s)
  removeHeldOut {s} : P s → P (removeHeldOut s)
  unconfirmOrigin {s} (x : Nat) : P s → P (unconfirmOrigin x s)
  setSweep {s} (x : Nat) (b : Bool) : P s → P (setSweep x b s)
  sweepOrigin {s} (x : Nat) : P s → P (sweepOrigin x s)
  applyRecord {s} (x : Nat) {r : Record} : P s → r.index ≤ 79 → P (applyRecord x r s)
  placeOwn {s} {e : Entry} : P s → s.entryAt e.addr = none → e.addr.station = s.own → e.addr.index ≤ 79 →
    P (placeEntry e s)
  rewrite {s} {old new : Entry} : P s → s.entryAt old.addr = some old → new.addr = old.addr →
    P (rewriteEntry old new s)
  writeLevel {s} (i v : Nat) : P s → P (writeLevel i v s)

section
variable {P : State → Prop}

/-! ## Writes of one block -/

namespace BlocksClosed
variable {s : State}

theorem raise (H : BlocksClosed P) (h : P s) (n : Notice) (ch : Fin 4) : P (s.raise n ch) :=
  H.channel h fun k => queueOk_raise k n

theorem raiseAll (H : BlocksClosed P) (h : P s) (n : Notice) : P (s.raiseAll n) :=
  eachChannel_keeps (P := P) (fun ch _ k => H.raise k n ch) s h

theorem setCondition (H : BlocksClosed P) (h : P s) (c : Condition) : P (s.setCondition c) := by
  unfold State.setCondition
  split
  · exact h
  · exact H.raiseAll (H.control h) _

theorem clearCondition (H : BlocksClosed P) (h : P s) (c : Condition) : P (s.clearCondition c) :=
  H.control h

theorem setChange (H : BlocksClosed P) (h : P s) (i : Nat) : P (s.setChange i) := H.pub h id

theorem setLevelMark (H : BlocksClosed P) (h : P s) (i : Nat) : P (s.setLevelMark i) := H.pub h id

theorem setCopy (H : BlocksClosed P) (h : P s) (i : Nat) (c : Option ClearingCopy) : P (s.setCopy i c) :=
  H.pub h fun k => setCopy_inForm k i c

theorem modChan (H : BlocksClosed P) (h : P s) (i : Nat) (f : ScanChannel → ScanChannel) :
    P (s.modChan i f) := H.scanner h (length_updAt _ _ _)

theorem publishLevel (H : BlocksClosed P) (h : P s) (i : Nat) (v : Option Nat) : P (publishLevel i v s) := by
  unfold Machine.publishLevel
  split
  · exact H.modChan h _ _
  · exact h

theorem noteSupply (H : BlocksClosed P) (h : P s) (i : Nat) (a b : ScanState) : P (noteSupply i a b s) := by
  unfold Machine.noteSupply
  split
  · split
    · exact H.setCondition h _
    · split
      · exact H.clearCondition h _
      · exact h
  · exact h

theorem answerWith (H : BlocksClosed P) (h : P s) (y : Nat) (st : Status) (x : Nat) (ch : Fin 4) :
    P (answerWith y st x ch s) := H.channel h fun k => queueOk_answer k _

theorem answer (H : BlocksClosed P) (h : P s) (y : Nat) (st : Status) (ch : Fin 4) :
    P (answer y st ch s) := H.answerWith h y st 0 ch

/-! ## Origins and recovery -/

theorem wantSeries (H : BlocksClosed P) (h : P s) (x : Nat) : P (wantSeries x s) := H.origin _ _ h

theorem failRecovery (H : BlocksClosed P) (h : P s) (x : Nat) : P (failRecovery x s) := by
  unfold Machine.failRecovery
  split
  · split
    · exact H.recovery _ h
    · exact h
  · exact h

theorem endRecovery (H : BlocksClosed P) (h : P s) (x : Nat) : P (endRecovery x s) := by
  unfold Machine.endRecovery
  split
  · dsimp only
    split
    · split
      · exact H.recovery _ h
      · exact H.origin _ _ (H.recovery _ h)
    · exact h
  · exact h

theorem clearLoss (H : BlocksClosed P) (h : P s) (x : Nat) : P (clearLoss x s) := by
  unfold Machine.clearLoss
  split
  · split
    · exact H.recovery _ h
    · exact h
  · exact h

theorem noteLoss (H : BlocksClosed P) (h : P s) (x : Nat) : P (noteLoss x s) := by
  unfold Machine.noteLoss
  dsimp only
  split
  · split
    · exact H.recovery _ (H.origin _ _ h)
    · exact H.origin _ _ h
  · exact H.origin _ _ h

theorem startRecovery (H : BlocksClosed P) (h : P s) : P (startRecovery s) := by
  unfold Machine.startRecovery
  split
  · split
    · exact H.wantSeries (H.recovery _ h) _
    · exact h
  · exact h

theorem expireAwait (H : BlocksClosed P) (h : P s) (x : Nat) : P (expireAwait x s) := by
  unfold Machine.expireAwait
  split
  · exact H.origin _ _ h
  · exact h

/-! ## The riser line and the Publisher -/

theorem startSending (H : BlocksClosed P) (h : P s) (f : TxFrame) (n : Nat) : P (startSending f n s) :=
  H.riser h

theorem sendOrWait (H : BlocksClosed P) (h : P s) (f : TxFrame) (n : Nat) : P (sendOrWait f n s) := by
  unfold Machine.sendOrWait
  split <;> exact H.riser h

theorem lineQuiet (H : BlocksClosed P) (h : P s) : P (lineQuiet s) := by
  unfold Machine.lineQuiet
  dsimp only
  split
  · exact H.startSending (H.riser h) _ _
  all_goals exact H.riser h

theorem quietEvent (H : BlocksClosed P) (h : P s) : P (quietEvent s) := by
  unfold Machine.quietEvent
  split
  · exact h
  · exact H.lineQuiet h

theorem remarkRecord (H : BlocksClosed P) (h : P s) (r : Record) : P (remarkRecord s r) := by
  unfold Machine.remarkRecord
  split
  · exact H.setChange h _
  · exact H.setChange h _
  · exact H.setLevelMark h _

theorem remarkFrame (H : BlocksClosed P) (h : P s) (f : TxFrame) : P (remarkFrame f s) := by
  unfold Machine.remarkFrame
  split
  · exact foldl_keeps (P := P) (fun _ r k => H.remarkRecord k r) _ _ h
  · exact h
  · exact h

theorem rollBack (H : BlocksClosed P) (h : P s) (f : TxFrame) : P (rollBack f s) := by
  unfold Machine.rollBack
  split
  · split <;> exact H.pub h id
  · exact h

theorem giveUp (H : BlocksClosed P) (h : P s) (f : TxFrame) : P (giveUp f s) := by
  unfold Machine.giveUp
  exact H.setCondition (H.riser (H.pub (H.rollBack (H.remarkFrame h f) f) fun k => k.noneInFlight)) _

theorem enterBackoff (H : BlocksClosed P) (h : P s) (f : TxFrame) (n : Nat) : P (enterBackoff f n s) := by
  have drawn := H.riser (v := { s.riser with draws := s.riser.draws + 1 }) h
  unfold Machine.enterBackoff
  dsimp only
  split
  · exact H.sendOrWait drawn _ _
  · exact H.riser drawn

theorem mismatchEvent (H : BlocksClosed P) (h : P s) (n : Nat) : P (mismatchEvent n s) := by
  unfold Machine.mismatchEvent
  split
  · have counted := H.riser (v := { s.riser with collisionTotal := sat16 s.riser.collisionTotal }) h
    unfold mismatchAt
    dsimp only
    split
    · exact H.riser (H.giveUp counted _)
    · exact H.riser (H.enterBackoff counted _ _)
  all_goals exact h

theorem backoffExpires (H : BlocksClosed P) (h : P s) : P (backoffExpires s) := by
  unfold Machine.backoffExpires
  split
  · exact H.sendOrWait h _ _
  all_goals exact h

theorem awaitOrigin (H : BlocksClosed P) (h : P s) (x : Nat) : P (awaitOrigin s x) := H.origin _ _ h

theorem publisherCompletes (H : BlocksClosed P) (h : P s) (f : TxFrame) : P (publisherCompletes f s) := by
  unfold Machine.publisherCompletes
  split
  · exact H.pub h id
  · exact foldl_keeps (P := P) (fun _ x k => H.awaitOrigin k x) _ _ h
  · exact h

theorem emptySentCopies (H : BlocksClosed P) (h : P s) : P (emptySentCopies s) :=
  H.pub h fun k => ⟨k.1, (foldl_emptied_length _ _).trans k.2.1, fun _ hi => absurd hi List.not_mem_nil⟩

theorem completionEvent (H : BlocksClosed P) (h : P s) : P (completionEvent s) := by
  unfold Machine.completionEvent
  split
  case _ f _ _ =>
    have numbered := H.pub (v := { s.pub with
        seq := (s.pub.seq + 1) % 4096, summaryCounter := Config.summaryInterval s.pub.seed
        summaryDue := false }) h
      fun k => ⟨Nat.le_of_lt_succ (Nat.mod_lt _ (by decide)), k.2⟩
    exact H.riser (H.emptySentCopies (H.publisherCompletes (H.clearCondition numbered _) f))
  all_goals exact h

theorem offerFrame (H : BlocksClosed P) (h : P s) (f : RxFrame) : P (offerFrame f s) := by
  unfold Machine.offerFrame
  split
  case isTrue room =>
    refine H.merge h fun _ => ?_
    rw [List.length_append]
    exact room
  case isFalse => exact H.merge h id

theorem frameArrives (H : BlocksClosed P) (h : P s) (f : RxFrame) : P (frameArrives f s) := by
  unfold Machine.frameArrives
  split
  · exact H.setCondition h _
  · split
    · exact H.merge h id
    · exact H.offerFrame (H.origin _ _ h) _

theorem frameEndEvent (H : BlocksClosed P) (h : P s) (l : List Byte) (b : Bool) : P (frameEndEvent l b s) := by
  have rested := H.riser (v := { s.riser with rx := .idle }) h
  unfold Machine.frameEndEvent frameEnds
  split
  · exact h
  · split
    · exact h
    · dsimp only
      split
      · exact H.riser rested
      · exact H.riser rested
      · split
        · exact rested
        · exact H.frameArrives rested _

theorem lineActive (H : BlocksClosed P) (h : P s) (gap : Bool) : P (lineActive gap s) := H.riser h

theorem stuckEvent (H : BlocksClosed P) (h : P s) : P (stuckEvent s) := by
  unfold Machine.stuckEvent
  exact H.setCondition (H.riser h) _

theorem buildState (H : BlocksClosed P) (h : P s) : P (buildState s) := by
  have marked := H.pub (v := { s.pub with
      change := (fillState s).change, level := (fillState s).level, copiesInFlight := (fillState s).copied }) h
    fun k => ⟨k.1, k.2.1, fillState_slotsOk k.2⟩
  unfold Machine.buildState
  dsimp only
  split
  · exact marked
  · exact H.sendOrWait marked _ _

theorem buildFullset (H : BlocksClosed P) (h : P s) : P (buildFullset s) := by
  unfold Machine.buildFullset
  exact H.sendOrWait (H.pub h fun k => k.noneInFlight) _ _

theorem buildSummary (H : BlocksClosed P) (h : P s) : P (buildSummary s) := by
  unfold Machine.buildSummary
  exact H.sendOrWait (H.pub h fun k => k.noneInFlight) _ _

theorem buildResync (H : BlocksClosed P) (h : P s) : P (buildResync s) := by
  unfold Machine.buildResync
  exact H.sendOrWait (H.pub h fun k => k.noneInFlight) _ _

theorem buildItem (H : BlocksClosed P) (h : P s) (i : FrameItem) : P (buildItem i s) := by
  cases i with
  | start | series => exact H.buildFullset h
  | urgent | state => exact H.buildState h
  | resync => exact H.buildResync h
  | summary => exact H.buildSummary h

theorem publish (H : BlocksClosed P) (n : Nat) : ∀ {s}, P s → P (publish n s) := by
  induction n with
  | zero => exact id
  | succ n ih =>
    intro s h
    unfold Machine.publish
    split
    · exact ih (H.buildItem h _)
    · exact h

theorem hearNames (H : BlocksClosed P) (h : P s) (l : List Nat) : P (hearNames l s) := by
  refine foldl_keeps (P := P) (fun t x k => ?_) l s h
  unfold hearName
  split
  · exact H.pub k id
  · split
    · exact H.awaitOrigin k _
    · exact k

theorem hearRevision (H : BlocksClosed P) (h : P s) (r : Nat) : P (hearRevision r s) := by
  unfold Machine.hearRevision
  split
  · exact h
  · exact H.raiseAll h _

theorem applySummary (H : BlocksClosed P) (h : P s) (x : Nat) (b : List Byte) : P (applySummary x b s) := by
  unfold Machine.applySummary
  generalize (if (b.getD 1 0).getLsbD 0 = true then some (fieldAt b 2) else none) = rev
  cases rev with
  | none => exact H.origin _ _ h
  | some r =>
    dsimp only
    split
    · exact H.origin _ _ h
    · exact H.hearRevision (H.origin _ _ h) r

theorem checkCount (H : BlocksClosed P) (h : P s) (x n : Nat) : P (checkCount x n s) := by
  unfold Machine.checkCount
  dsimp only
  split
  · exact H.wantSeries (H.origin _ _ h) _
  · exact h

/-! ## The crew port -/

theorem takeSummary (H : BlocksClosed P) (h : P s) : P (takeSummary s) := by
  unfold Machine.takeSummary
  split
  · exact H.pub h id
  · exact h

theorem takeIncidentHold (H : BlocksClosed P) (h : P s) : P (takeIncidentHold s) := by
  unfold Machine.takeIncidentHold
  dsimp only
  split
  · split
    · exact H.incidentEnded (H.due _ h)
    · exact H.due _ h
  · exact h

theorem takeStuck (H : BlocksClosed P) (h : P s) : P (takeStuck s) := by
  unfold Machine.takeStuck
  split
  · exact H.stuckEvent (H.due _ h)
  · exact h

theorem takeRecovery (H : BlocksClosed P) (h : P s) : P (takeRecovery s) := by
  unfold Machine.takeRecovery
  split
  · exact H.startRecovery (H.due _ h)
  · exact h

theorem takeAwaits (H : BlocksClosed P) (h : P s) : P (takeAwaits s) :=
  foldl_keeps (P := P) (fun _ x k => H.expireAwait k x) _ s h

theorem linkTake (H : BlocksClosed P) (h : P s) : P (linkTake s) := by
  unfold Machine.linkTake
  split
  · split
    case _ queue => exact H.crew (H.channel h fun k => queueOk_takeHead k queue) id
    case _ => exact h
  · exact H.crew h id

theorem linkAlive (H : BlocksClosed P) (h : P s) : P (linkAlive s) := H.crew h fun _ => Nat.zero_le _

theorem attachRequest (H : BlocksClosed P) (h : P s) (ch : Fin 4) (r : Nat × Nat) :
    P (attachRequest ch r s) := by
  unfold Machine.attachRequest
  split
  · exact H.answer h _ _ _
  · split
    · exact H.answer h _ _ _
    · exact H.answer (H.channel h (by exact id)) _ _ _

theorem setWatch_queueOk {c : Channel} (h : c.QueueOk) (k : WatchSlot) (w : Option Watch) :
    (c.setWatch k w).QueueOk := by cases k <;> exact h

theorem replaceList_queueOk {c : Channel} (h : c.QueueOk) (l : ListProgress) : (c.replaceList l).QueueOk := by
  unfold Channel.replaceList
  split <;> exact h

end BlocksClosed

/-! ## The operations on the entries -/

namespace StepClosed
variable {s : State}

theorem takeSilence (H : StepClosed P) (h : P s) (x : Nat) : P (takeSilence x s) := by
  have hears {t : State} (k : P t) : P (monitorHearsSilent x t) := by
    unfold monitorHearsSilent
    split
    · exact H.raiseAll k _
    · exact k
  unfold Machine.takeSilence
  dsimp only
  split
  · split
    · exact hears (H.origin _ _ (H.failRecovery (H.unconfirmOrigin _ (H.origin _ _ (H.due _ h))) _))
    · exact H.due _ h
  · exact h

theorem takeHolds (H : StepClosed P) (h : P s) : P (takeHolds s) := by
  unfold Machine.takeHolds
  split
  · exact H.removeHeldOut (H.due _ h)
  · exact h

theorem detachChannel (H : StepClosed P) (h : P s) (ch : Fin 4) : P (detachChannel ch s) :=
  H.channel (H.abortForDetach ch h) fun _ => queueOk_reset

theorem takeLinkLoss (H : StepClosed P) (h : P s) : P (takeLinkLoss s) := by
  unfold Machine.takeLinkLoss
  split
  · exact eachChannel_keeps (P := P) (fun ch _ k => H.detachChannel k ch) _ (H.due _ h)
  · exact h

theorem takeDue (H : StepClosed P) (h : P s) : P (takeDue s) :=
  H.takeLinkLoss (H.takeStuck (H.takeSummary (H.takeAwaits (H.takeIncidentHold (H.takeRecovery
    (H.takeHolds (foldl_keeps (P := P) (fun _ x k => H.takeSilence k x) _ s h)))))))

/-! ## The part at rest -/

theorem place (H : StepClosed P) (h : P s) {w : Waiter} {ch : Fin 4} (next : nextWaiter s ch = some w) :
    P (place w ch s) := by
  obtain ⟨room, fits⟩ := nextWaiter_room next
  cases w with
  | answer =>
    unfold Machine.place placeAnswer
    dsimp only
    split
    · exact H.channel h fun _ => queueOk_push _ (room (by decide))
    · exact h
  | notice => exact H.channel h fun _ => queueOk_push _ (room (by decide))
  | list =>
    unfold Machine.place placeListMessage
    dsimp only
    split
    case _ given =>
      refine H.channel h fun _ => queueOk_push _ ?_
      rw [nextListMessage_queue given]
      exact room (by decide)
    case _ => exact h
  | bundle => exact H.placeBundleMessage ch h (fits rfl)

theorem placeIfNext (H : StepClosed P) (h : P s) (w : Waiter) (ch : Fin 4) : P (placeIfNext w ch s) := by
  unfold Machine.placeIfNext
  split
  case isTrue next => exact H.place h next
  case isFalse => exact h

theorem placeOn (H : StepClosed P) (n : Nat) (ch : Fin 4) : ∀ {s}, P s → P (placeOn n ch s) := by
  induction n with
  | zero => exact id
  | succ n ih =>
    intro s h
    unfold Machine.placeOn
    split
    case _ next => exact ih (H.place h next)
    case _ => exact h

theorem atOnce (H : StepClosed P) (h : P s) : P (atOnce s) :=
  H.publish _ (eachChannel_keeps (P := P) (fun ch _ => H.placeOn _ ch) s h)

theorem settle (H : StepClosed P) (h : P s) : P (settle s) := H.atOnce (H.takeDue h)

/-! ## Scanning -/

theorem changeScanState (H : StepClosed P) (h : P s) {i : Nat} (loop : i < 64) (new : ScanState)
    (v : Option Nat) : P (changeScanState i new v s) := by
  have moved := H.modChan h i fun c => { c with state := new }
  refine H.noteSupply ?_ _ _ _
  unfold writeOwn
  dsimp only
  have table (t : State) : (Machine.publishLevel i v t).table = t.table := by
    unfold Machine.publishLevel
    split <;> rfl
  have control (t : State) : (Machine.publishLevel i v t).control = t.control := by
    unfold Machine.publishLevel
    split <;> rfl
  split
  case _ old held =>
    have place := addr_of_entryAt held
    refine H.rewrite (H.publishLevel (H.setChange moved i) i v) ?_ place.symm
    rw [entryAt_congr (table _)]
    exact entryAt_addr held
  case _ absent =>
    split
    · exact H.setChange moved i
    · refine H.placeOwn (H.publishLevel (H.setChange moved i) i v) ?_ ?_ (Nat.le_of_lt_succ (Nat.lt_of_lt_of_le loop (by decide)))
      · rw [entryAt_congr (table _)]
        exact absent
      · rw [State.own, control]
        rfl

theorem scanChannel (H : StepClosed P) (h : P s) (r : Readings) {i : Nat} (loop : i < 64) :
    P (scanChannel r s i) := by
  unfold Machine.scanChannel
  dsimp only
  split
  · exact h
  · split
    · exact H.changeScanState (H.modChan h _ _) loop _ _
    · exact H.modChan h _ _

theorem checkLevel (H : StepClosed P) (h : P s) (r : Readings) (i : Nat) : P (checkLevel r s i) := by
  unfold Machine.checkLevel
  dsimp only
  split
  · exact H.setLevelMark (H.publishLevel (H.writeLevel _ _ h) _ _) _
  · exact h

theorem levelCheck (H : StepClosed P) (h : P s) (r : Readings) : P (levelCheck r s) := by
  unfold Machine.levelCheck
  split
  · exact H.scanner h
  · have restarted {t : State} (k : P t) : P (t.withScanner { t.scanner with divider := 1 }) := H.scanner k
    exact restarted (foldl_keeps (P := P) (fun _ i k => H.checkLevel k r i) _ s h)

/-- What is kept by each step of a fold at a member of the list is kept by the fold. -/
theorem foldl_keeps_mem {α σ : Type} {Q : σ → Prop} {f : σ → α → σ} (l : List α)
    (keeps : ∀ t, ∀ a ∈ l, Q t → Q (f t a)) : ∀ s, Q s → Q (l.foldl f s) := by
  induction l with
  | nil => exact fun _ h => h
  | cons a l ih =>
    exact fun s h => ih (fun t b hb => keeps t b (List.mem_cons_of_mem a hb)) _
      (keeps s a List.mem_cons_self h)

theorem scanIfRunning (H : StepClosed P) (h : P s) (r : Readings) : P (scanIfRunning r s) := by
  unfold Machine.scanIfRunning
  split
  · have scanned : P ((List.range 64).foldl (Machine.scanChannel r) s) :=
      foldl_keeps_mem (Q := P) _ (fun _ i hi k => H.scanChannel k r (List.mem_range.mp hi)) s h
    exact H.levelCheck scanned r
  · exact h

theorem tickWork (H : StepClosed P) (h : P s) (r : Readings) (o : TickOrder) : P (tickWork r o s) := by
  cases o with
  | scanFirst => exact H.scanIfRunning (H.timers h) r
  | expiriesFirst => exact H.scanIfRunning (H.takeDue (H.timers h)) r

theorem restorePoint (H : StepClosed P) (h : P s) (i : Nat) : P (restorePoint i s) := by
  unfold Machine.restorePoint
  split
  · exact H.modChan h _ _
  · exact h

theorem isolatePoint (H : StepClosed P) (h : P s) {i : Nat} (loop : i < 64) : P (isolatePoint i s) := by
  unfold Machine.isolatePoint
  split
  · exact h
  · exact H.changeScanState (H.modChan h _ _) loop _ _

theorem deisolatePoint (H : StepClosed P) (h : P s) {i : Nat} (loop : i < 64) : P (deisolatePoint i s) := by
  unfold Machine.deisolatePoint
  split
  · exact H.changeScanState (H.modChan h _ _) loop _ _
  · exact h

/-! ## The take of a frame -/

theorem applyRecords (H : StepClosed P) (h : P s) (x : Nat) (f : RxFrame) : P (applyRecords x f s) := by
  refine foldl_keeps (P := P) (fun t b k => ?_) _ s h
  unfold applyRecordBytes
  split
  case _ given => exact H.applyRecord x k (decodeRecord_index given)
  case _ => exact k

theorem applyBody (H : StepClosed P) (h : P s) (x : Nat) (f : RxFrame) : P (applyBody x f s) := by
  unfold Machine.applyBody
  split
  · exact H.applyRecords h x f
  · exact H.applyRecords h x f
  · exact H.applySummary h x _
  · exact H.hearNames h _

theorem moveStatus (H : StepClosed P) (h : P s) (x : Nat) (c : FrameClass) : P (moveStatus x c s) := by
  have asked {p : Prop} [Decidable p] (f : OriginRecord → OriginRecord) :
      P (if p then wantSeries x (s.modOrigin x f) else s.modOrigin x f) := by
    split
    · exact H.wantSeries (H.origin _ _ h) _
    · exact H.origin _ _ h
  unfold Machine.moveStatus
  dsimp only
  split
  · exact H.failRecovery (H.setSweep _ _ (asked _)) _
  · exact asked _

theorem applyFrame (H : StepClosed P) (h : P s) (f : RxFrame) (c : FrameClass) : P (applyFrame f c s) := by
  have numbered := H.origin f.station (fun o => { o with held := some f.seq }) (H.moveStatus h f.station c)
  have begun : P (if f.first then beginSeries f.station ((Machine.moveStatus f.station c s).modOrigin f.station
      (fun o => { o with held := some f.seq })) else (Machine.moveStatus f.station c s).modOrigin f.station
      (fun o => { o with held := some f.seq })) := by
    split
    · exact H.origin _ _ (H.clearLoss (H.setSweep _ _ numbered) _)
    · exact numbered
  have applied := H.applyBody begun f.station f
  have ended {p : Prop} [Decidable p] {t : State} (k : P t) : P (if p then finishSeries f.station t else t) := by
    split
    · exact H.endRecovery (H.origin _ _ (H.sweepOrigin _ k)) _
    · exact k
  unfold Machine.applyFrame
  dsimp only
  split
  · exact H.checkCount (ended applied) _ _
  · exact ended applied

theorem takeHead (H : StepClosed P) (h : P s) (k : FrameKind) : P (takeHead k s) := by
  unfold Machine.takeHead
  split
  case _ f l queue =>
    split
    · have taken := H.merge (v := { s.merge with queue := l }) h fun full => by
        rw [queue, List.length_cons] at full
        exact Nat.le_of_succ_le full
      unfold takeFrame
      split
      · exact H.merge taken id
      · split
        · exact H.merge taken id
        · exact H.merge taken id
        all_goals exact H.applyFrame taken _ _
    · exact h
  case _ => exact h

/-! ## The requests of the hub -/

theorem markRequest (H : StepClosed P) (h : P s) (ch : Fin 4) (r : MarkRequest) : P (markRequest ch r s) := by
  unfold Machine.markRequest
  split
  · exact H.answer h _ _ _
  · split
    · exact H.answer h _ _ _
    · split
      · exact H.answer h _ _ _
      case _ i slot =>
        obtain ⟨_, high, free⟩ := freeSlot_some slot
        exact H.answerWith (H.setChange (H.placeOwn (H.setCopy h i none) (by exact free) (by rfl) (by exact high)) i) _ _ _ _

theorem clearMarker (H : StepClosed P) (h : P s) {e : Entry} (held : s.entryAt e.addr = some e) :
    P (clearMarker e s) := by
  unfold Machine.clearMarker
  split
  · exact h
  · exact H.rewrite (H.setChange h _) held rfl

theorem unmarkRequest (H : StepClosed P) (h : P s) (ch : Fin 4) (i : Nat) : P (unmarkRequest ch i s) := by
  unfold Machine.unmarkRequest
  split
  · exact H.answer h _ _ _
  · split
    · exact H.answer h _ _ _
    · split
      · exact H.answer h _ _ _
      case _ held =>
        split
        · exact H.answer (H.clearMarker h (entryAt_addr held)) _ _ _
        · exact H.answer h _ _ _

theorem scanAnswer_ok_loop {q : ScanRequest} {i : Nat} {s : State} (h : scanAnswer q i s = .ok) : i < 64 := by
  by_contra out
  rw [scanAnswer, if_pos (.inl (Nat.le_of_not_lt out))] at h
  cases h

theorem scannerRequest (H : StepClosed P) (h : P s) (y : Nat) (q : ScanRequest) {effect : Nat → State → State}
    (keeps : ∀ i, i < 64 → P (effect i s)) (ch : Fin 4) (i : Nat) : P (scannerRequest y q effect ch i s) := by
  unfold Machine.scannerRequest
  split
  · exact H.answer h _ _ _
  · split
    case _ ok => exact H.answer (keeps i (scanAnswer_ok_loop ok)) _ _ _
    case _ => exact H.answer h _ _ _

theorem takeRequest (H : StepClosed P) (h : P s) {α : Type} (y : Nat) (p : Option α) (b : Bool) (ch : Fin 4)
    {carry : α → State → State} (keeps : ∀ a, s.control.running = true → P (carry a s)) :
    P (takeRequest y p b ch carry s) := by
  unfold Machine.takeRequest
  split
  · exact H.crew h id
  · split
    · exact H.answer h _ _ _
    case isFalse running =>
      split
      · exact H.answer h _ _ _
      · split
        · exact H.answer h _ _ _
        · exact keeps _ (by simpa using running)

theorem takeByType (H : StepClosed P) (h : P s) (ch : Fin 4) (n : Nat) (f : List Byte) :
    P (takeByType ch n f s) := by
  unfold Machine.takeByType
  split
  · exact H.takeRequest h _ _ _ _ fun _ _ => H.attachRequest h _ _
  · exact H.takeRequest h _ _ _ _ fun _ _ => H.answer (H.detachChannel h _) _ _ _
  · exact H.takeRequest h _ _ _ _ fun _ running => H.sheetCarried _ _ h running
  · exact H.takeRequest h _ _ _ _ fun _ _ =>
      H.answer (H.channel h fun k => BlocksClosed.setWatch_queueOk k _ _) _ _ _
  · exact H.takeRequest h _ _ _ _ fun _ _ =>
      H.answer (H.channel h fun k => BlocksClosed.setWatch_queueOk k _ _) _ _ _
  · exact H.takeRequest h _ _ _ _ fun _ _ => H.markRequest h _ _
  · exact H.takeRequest h _ _ _ _ fun _ _ => H.unmarkRequest h _ _
  · exact H.takeRequest h _ _ _ _ fun _ _ =>
      H.scannerRequest h _ _ (fun _ loop => H.isolatePoint h loop) _ _
  · exact H.takeRequest h _ _ _ _ fun _ _ =>
      H.scannerRequest h _ _ (fun _ loop => H.deisolatePoint h loop) _ _
  · exact H.takeRequest h _ _ _ _ fun _ _ => H.scannerRequest h _ _ (fun i _ => H.restorePoint h i) _ _
  · exact H.takeRequest h _ _ _ _ fun _ _ => H.channel h fun k => BlocksClosed.replaceList_queueOk k _
  · exact H.takeRequest h _ _ _ _ fun _ _ => H.channel h fun k => BlocksClosed.replaceList_queueOk k _
  · exact H.takeRequest h _ _ _ _ fun _ _ => by
      unfold collectRequest
      exact H.answerWith (H.channel h (by exact id)) _ _ _ _
  · exact H.takeRequest h _ _ _ _ fun _ _ => h

theorem takeLinkEvent (H : StepClosed P) (h : P s) (e : LinkEvent) : P (takeLinkEvent e s) := by
  cases e with
  | badCheck | badLength => exact H.crew h id
  | message c n f =>
    have alive := H.linkAlive h
    change P (takeMessage c n f s)
    unfold takeMessage
    split
    · split
      · exact alive
      · exact H.takeByType alive _ _ _
    · exact H.crew alive id

theorem takeLinkEvents (H : StepClosed P) : ∀ (l : List LinkEvent) {s : State}, P s → P (takeLinkEvents l s)
  | [], _, h => h
  | [e], _, h => H.takeLinkEvent h e
  | e :: f :: l, _, h => H.takeLinkEvents (f :: l) (H.settle (H.takeLinkEvent h e))

theorem receive (H : StepClosed P) (h : P s) (l : List Byte) : P (receive l s) :=
  H.takeLinkEvents _ (H.crew h id)

theorem strayMessage (H : StepClosed P) (h : P s) (c : Byte) (l : List Byte) : P (strayMessage c l s) := by
  unfold Machine.strayMessage
  split
  · split
    · exact H.receive h _
    · exact h
  · exact h

/-! ## The step -/

theorem external (H : StepClosed P) (h : P s) {f : State → State} (keeps : ∀ {u}, P u → P (f u)) :
    P (external f s) := by
  unfold Machine.external
  split
  · exact h
  · exact keeps (H.settle h)

theorem framed (H : StepClosed P) (h : P s) {f : State → State} (keeps : ∀ {u}, P u → P (f u)) :
    P (framed f s) := by
  unfold Machine.framed
  split
  · exact h
  · exact keeps (H.atOnce h)

theorem internal (_ : StepClosed P) (h : P s) {f : State → State} (keeps : ∀ {u}, P u → P (f u)) :
    P (internal f s) := by
  unfold Machine.internal
  split
  · exact h
  · exact keeps h

theorem ite_self (_ : StepClosed P) {p : Prop} [Decidable p] {f : State → State}
    (keeps : ∀ {u}, P u → P (f u)) {u : State} (h : P u) : P (if p then f u else u) := by
  split
  · exact keeps h
  · exact h

/-- A property of these is kept by every command but a reset. -/
theorem exec (H : StepClosed P) (h : P s) {c : Instr} {t : State} (cold : ∀ st, c ≠ .coldStart st)
    (warm : ∀ st, c ≠ .warmRestart st) (asserted : c ≠ .resetAssert) (done : exec c s = .next t) : P t := by
  cases c with
  | coldStart st => exact absurd rfl (cold st)
  | warmRestart st => exact absurd rfl (warm st)
  | resetAssert => exact absurd rfl asserted
  | tick r o =>
    cases done
    split
    · exact H.control h
    · exact H.tickWork (H.settle h) r o
  | silenceExpiry x => cases done; exact H.internal h fun k => H.takeSilence k x
  | holdExpiry => cases done; exact H.internal h H.takeHolds
  | recoveryStart => cases done; exact H.internal h H.takeRecovery
  | incidentHoldExpiry => cases done; exact H.internal h H.takeIncidentHold
  | awaitTimerExpiry x => cases done; exact H.internal h fun k => H.expireAwait k x
  | summaryCounterExpiry => cases done; exact H.internal h H.takeSummary
  | stuckEvent => cases done; exact H.internal h H.takeStuck
  | linkLoss => cases done; exact H.internal h H.takeLinkLoss
  | lineQuietEvent => cases done; exact H.external h H.quietEvent
  | mismatch n => cases done; exact H.external h fun k => H.mismatchEvent k n
  | backoffExpiry => cases done; exact H.external h H.backoffExpires
  | frameCompletion => cases done; exact H.external h H.completionEvent
  | riserFrameEnd l b => cases done; exact H.external h fun k => H.frameEndEvent k l b
  | stateFrame | fullsetFrame | summaryFrame | resyncFrame =>
    cases done; exact H.framed h fun k => H.takeHead k _
  | stateFrameBuild => cases done; exact H.internal h fun k => H.ite_self H.buildState k
  | fullsetFrameBuild => cases done; exact H.internal h fun k => H.ite_self H.buildFullset k
  | summaryFrameBuild => cases done; exact H.internal h fun k => H.ite_self H.buildSummary k
  | resyncFrameBuild => cases done; exact H.internal h fun k => H.ite_self H.buildResync k
  | transferEnd b => cases done; exact H.external h fun k => H.transferEvent b k
  | linkTransmitterTake => cases done; exact H.external h H.linkTake
  | answerPlaced ch | noticePendingPlaced ch | listMessagePlaced ch | bundleMessagePlaced ch =>
    cases done; exact H.internal h fun k => H.placeIfNext k _ ch
  | lineBusy gap => cases done; exact H.external h fun k => H.lineActive k gap
  | badCheckMessage l => cases done; exact H.external h fun k => H.ite_self (fun k => H.receive k l) k
  | lengthOutOfRange len => cases done; exact H.external h fun k => H.ite_self (fun k => H.receive k _) k
  | strayChannelMessage ch l => cases done; exact H.external h fun k => H.strayMessage k ch l
  | unknownTypeRequest ch ty f =>
    cases done
    refine H.external h fun k => ?_
    split
    · exact k
    · exact H.receive k _
  | _ => cases done; exact H.external h fun k => H.receive k _

/-- A property of these that every reset keeps is kept by every step. -/
theorem step (H : StepClosed P) (cold : ∀ st {s}, P s → P (coldStart st s))
    (warm : ∀ st {s}, P s → P (warmRestart st s)) (asserted : ∀ {s}, P s → P (assertReset s)) {t : State}
    (h : P s) (done : step s = .next t) : P t := by
  unfold Machine.step at done
  split at done
  · cases done; exact h
  case _ c rest _ =>
    have k := H.pending rest h
    cases c with
    | coldStart st => cases done; exact cold st k
    | warmRestart st => cases done; exact warm st k
    | resetAssert => cases done; exact asserted k
    | _ => exact H.exec k (by simp) (by simp) (by simp) done

end StepClosed
end

end Sys2Proof.Machine
end

section
/-!
PROOFS. What every step keeps: the outbound queues, the late sets, and the sizes with the read budget.
-/
namespace Sys2Proof.Machine

/-! ## The late set under the operations of a bundle (R137, R145, R147) -/

/-- A bundle that is not IDLE may hold any late set of another within its bounds. -/
theorem Bundle.LateOk.busy {b d : Bundle} (h : b.LateOk) (late : d.late = b.late) (busy : d.state ≠ .idle) :
    d.LateOk := by
  rw [Bundle.LateOk, late]
  exact ⟨h.1, h.2.1, fun idle => absurd idle busy⟩

theorem Bundle.lateOk_nil {b : Bundle} (h : b.late = []) : b.LateOk := by
  rw [Bundle.LateOk, h]
  exact ⟨Nat.zero_le _, List.nodup_nil, fun _ => rfl⟩

theorem composeNext_lateOk (s : State) {b : Bundle} (h : b.LateOk) : (composeNext s b).LateOk := by
  unfold composeNext
  split
  · exact h
  · split
    · exact h
    · exact h
    · split
      · exact h
      · exact h
      · split
        · exact h.busy rfl (by simp [Bundle.awaiting, enterOverlay])
        · split
          · split <;> exact h
          · exact h
    · exact h
    case _ state =>
      split
      case _ a l late =>
        obtain ⟨small, apart, _⟩ := h
        rw [late, List.length_cons] at small
        rw [late] at apart
        exact ⟨Nat.le_of_succ_le small, (List.nodup_cons.mp apart).2,
          fun idle => by simp [Bundle.awaiting, state] at idle⟩
      case _ => exact h

theorem ended_lateOk {b : Bundle} (h : b.LateOk) : b.ended.LateOk := by
  unfold Bundle.ended
  split
  case isTrue none => exact Bundle.lateOk_nil (List.isEmpty_iff.mp none)
  case isFalse => exact h.busy rfl (by simp)

theorem mem_insertAddress {a x : Address} {l : List Address} : x ∈ insertAddress a l ↔ x = a ∨ x ∈ l := by
  induction l with
  | nil => simp [insertAddress]
  | cons b l ih =>
    unfold insertAddress
    split
    case isTrue same => subst same; simp
    case isFalse =>
      split
      · simp
      · simp only [List.mem_cons, ih]
        tauto

theorem nodup_insertAddress {a : Address} {l : List Address} (h : l.Nodup) (new : a ∉ l) :
    (insertAddress a l).Nodup := by
  induction l with
  | nil => simp [insertAddress]
  | cons b l ih =>
    obtain ⟨apart, tail⟩ := List.nodup_cons.mp h
    obtain ⟨ne, notIn⟩ := not_or.mp (fun k => new (List.mem_cons.mpr k))
    rw [insertAddress, if_neg ne]
    split
    · exact List.nodup_cons.mpr ⟨new, h⟩
    · refine List.nodup_cons.mpr ⟨fun k => ?_, ih tail notIn⟩
      rcases mem_insertAddress.mp k with same | old
      · exact ne same.symm
      · exact apart old

theorem length_insertAddress {a : Address} {l : List Address} (new : a ∉ l) :
    (insertAddress a l).length = l.length + 1 := by
  induction l with
  | nil => rfl
  | cons b l ih =>
    obtain ⟨ne, notIn⟩ := not_or.mp (fun k => new (List.mem_cons.mpr k))
    rw [insertAddress, if_neg ne]
    split
    · rfl
    · rw [List.length_cons, ih notIn, List.length_cons]

/-! ## The store and the bundles -/

theorem rewriteSupplyPlace_entries (s : State) : ∃ l, rewriteSupplyPlace s = s.setEntries l := by
  unfold rewriteSupplyPlace
  split
  · exact ⟨_, rfl⟩
  · exact ⟨s.table.entries, rfl⟩

theorem request_inForm {p : PlanStore} (h : p.InForm) (st : Straps) (r : ReadRequest) :
    (p.request st r).1.InForm :=
  ⟨(request_spec p st r h.1 h.2).1, (request_spec p st r h.1 h.2).2.1⟩

theorem cancel_inForm {p : PlanStore} (h : p.InForm) (ch : Fin 4) : (p.cancel ch).InForm := by
  obtain ⟨_, _, promote, _, _, _, _, engine⟩ := cancel_spec p ch
  exact ⟨engine h.1, promote.trans h.2⟩

/-- The property is kept besides where a bundle or the store is written, under what their bounds ask of the
write. -/
structure StoreClosed (P : State → Prop) : Prop extends BlocksClosed P where
  store {s} {v : PlanStore} : P s → (s.store.InForm → v.InForm) → P (s.withStore v)
  bundle {s} {ch : Fin 4} {b : Bundle} : P s → ((s.bundle ch).LateOk → b.LateOk) → P (s.setBundle ch b)
  enterRunning {s} : P s → P (enterRunning s)

/-- The property is kept whatever entries are written and whatever picture change is told. -/
structure PictureBlind (P : State → Prop) : Prop extends BlocksClosed P where
  entries {s} (l : List Entry) : P s → P (s.setEntries l)
  emit {s} (pc : PictureChange) : P s → P (emit pc s)

section
variable {P : State → Prop}

namespace StoreClosed
variable {s : State}

theorem askStore (H : StoreClosed P) (h : P s) (r : ReadRequest) : P (askStore r s).1 :=
  H.store h fun k => request_inForm k _ _

theorem issueRead (H : StoreClosed P) (h : P s) (ch : Fin 4) : P (issueRead ch s).1 := by
  unfold Machine.issueRead
  dsimp only
  split
  · exact H.askStore (H.bundle h (by exact id)) _
  · exact h

theorem issueReads (H : StoreClosed P) (h : P s) (ch : Fin 4) : P (issueReads ch s).1 :=
  H.issueRead (H.issueRead h ch) ch

theorem composeBundle (H : StoreClosed P) (h : P s) (ch : Fin 4) : P (composeBundle ch s) :=
  H.bundle h fun k => composeNext_lateOk _ k

theorem beginBundle (H : StoreClosed P) (h : P s) (ch : Fin 4) (n : Nat) : P (beginBundle ch n s).1 := by
  unfold Machine.beginBundle
  exact H.askStore (H.bundle h fun k => k.busy (by rfl) (by simp [Bundle.begun])) _

theorem bundleHears (H : StoreClosed P) (h : P s) (rep : StoreReport) : P (bundleHears rep s).1 := by
  unfold Machine.bundleHears
  dsimp only
  split
  · exact H.issueReads (H.bundle h (by exact id)) _
  · split
    · exact h
    · split
      · exact H.composeBundle (H.issueReads (H.bundle h fun k => k.busy (by rfl) (by simp [takeHandle])) _) _
      · exact H.composeBundle (H.bundle h (by exact id)) _
      · exact h

theorem runOnDefaults (H : StoreClosed P) (h : P s) : P (runOnDefaults s) := by
  unfold Machine.runOnDefaults
  exact H.enterRunning (H.control (H.setCondition h _))

theorem loaderHears (H : StoreClosed P) (h : P s) (code : ReadCode) (data : List Byte) :
    P (loaderHears code data s).1 := by
  have step {t : State} (k : P t) (n : LoadStep) : P (t.atStep n) := H.control k
  unfold Machine.loaderHears
  split
  · exact h
  · split
    · unfold takeHeader
      dsimp only
      split
      · exact H.askStore (step (H.control (H.store h (by exact id))) _) _
      · exact H.runOnDefaults (H.setCondition h _)
    · unfold takeConfig
      split
      · split
        · exact H.askStore (step (H.control h) _) _
        · exact H.runOnDefaults h
      · exact H.runOnDefaults h
    · unfold takeDirectory
      dsimp only
      split
      · split
        · exact H.askStore (step (H.control h) _) _
        · exact H.enterRunning (H.control h)
      · exact H.enterRunning (H.control h)
    · exact h
    · exact h

theorem hears (H : StoreClosed P) (h : P s) (rep : StoreReport) : P (hears rep s).1 := by
  unfold Machine.hears
  split
  · exact H.bundleHears h _
  · split
    · exact H.loaderHears h _ _
    · exact H.bundleHears h _

theorem deliver (H : StoreClosed P) (n : Nat) : ∀ (l : List StoreReport) {s : State}, P s → P (deliver n l s) := by
  induction n with
  | zero => exact fun _ _ h => h
  | succ n ih =>
    intro l s h
    cases l with
    | nil => exact h
    | cons rep l => exact ih _ (H.hears h rep)

theorem settleReports (H : StoreClosed P) {out : State × List StoreReport} (h : P out.1) :
    P (settleReports out) := H.deliver _ _ h

theorem transferEvent (H : StoreClosed P) (h : P s) (b : BlockBytes) : P (transferEvent b s) :=
  H.settleReports (H.store h fun k => ⟨transferEnd_engineOk _ _ _ k.1, transferEnd_promote_le _ _ _ k.2⟩)

theorem cancelReads (H : StoreClosed P) (h : P s) (ch : Fin 4) : P (cancelReads ch s) := by
  unfold Machine.cancelReads
  exact H.store (H.bundle h (by exact id)) fun k => cancel_inForm k ch

theorem abortForDetach (H : StoreClosed P) (h : P s) (ch : Fin 4) : P (abortForDetach ch s) := by
  unfold Machine.abortForDetach
  dsimp only
  split
  · exact h
  · exact H.bundle (H.cancelReads h ch) fun _ => Bundle.lateOk_nil rfl

theorem abortForSheet (H : StoreClosed P) (h : P s) (ch : Fin 4) (n : Nat) : P (abortForSheet ch n s).1 := by
  unfold Machine.abortForSheet
  dsimp only
  exact H.beginBundle (H.bundle (H.cancelReads h ch) fun _ => Bundle.lateOk_nil (by rfl)) ch n

theorem sheetCarried (H : StoreClosed P) (h : P s) (ch : Fin 4) (n : Nat) : P (sheetCarried ch n s) := by
  refine H.settleReports ?_
  unfold sheetRequest
  dsimp only
  split
  · exact H.beginBundle h ch n
  · exact H.bundle h (by exact id)
  all_goals exact H.abortForSheet h ch n

theorem afterPlacing (H : StoreClosed P) (h : P s) (ch : Fin 4) (m : Message) : P (afterPlacing ch m s).1 := by
  unfold Machine.afterPlacing
  dsimp only
  split
  · exact H.bundle h (by exact id)
  · exact H.issueReads (H.bundle h (by exact id)) ch
  · exact H.bundle h (by exact id)
  · exact H.bundle h (by exact id)
  · exact H.bundle (H.channel h (by exact id)) fun k => ended_lateOk (by exact k)
  · split
    case isTrue last =>
      split
      · exact H.beginBundle (H.bundle h fun _ => Bundle.lateOk_nil (by exact last.2)) ch _
      · exact H.bundle h fun _ => Bundle.lateOk_nil last.2
    case isFalse => exact H.bundle h (by exact id)

theorem placeBundleMessage (H : StoreClosed P) (h : P s) (ch : Fin 4)
    (fits : bundleFits (s.channel ch) (s.bundle ch) = true) : P (placeBundleMessage ch s) := by
  unfold Machine.placeBundleMessage
  split
  · exact H.composeBundle (H.settleReports (H.afterPlacing
      (H.channel h fun _ => queueOk_push _ (bundleFits_room fits)) ch _)) ch
  · exact h

/-! ## Telling the crews and the Monitor -/

theorem queueUpdate (H : StoreClosed P) (h : P s) (pc : PictureChange) (f : Option Nat) (ch : Fin 4) :
    P (queueUpdate pc f ch s) := by
  unfold Machine.queueUpdate
  split
  · exact H.raise h _ _
  case isFalse clear => exact H.channel h fun k => queueOk_push_of_clear k _ (by simpa using clear)

theorem offerLate (H : StoreClosed P) (h : P s) (a : Address) {ch : Fin 4} (busy : (s.bundle ch).state ≠ .idle) :
    P (offerLate a ch s) := by
  unfold Machine.offerLate
  dsimp only
  split
  · exact h
  case isFalse new =>
    have new : a ∉ (s.bundle ch).late := by simpa using new
    split
    case isTrue room =>
      refine H.bundle h fun k => ⟨?_, nodup_insertAddress k.2.1 new, fun idle => absurd idle busy⟩
      rw [length_insertAddress new]
      exact room
    case isFalse => exact H.raise h _ _

theorem routeOn (H : StoreClosed P) (h : P s) (pc : PictureChange) (ch : Fin 4) : P (routeOn pc ch s) := by
  unfold Machine.routeOn
  dsimp only
  split
  · exact h
  · split
    case isTrue takes =>
      have busy : (s.bundle ch).state ≠ .idle := fun idle => by simp [Bundle.takesLate, idle] at takes
      split
      · exact H.queueUpdate (H.offerLate h _ busy) _ _ _
      · exact H.offerLate h _ busy
    case isFalse =>
      split
      · exact H.queueUpdate h _ _ _
      · split
        · exact H.queueUpdate h _ _ _
        · exact h

variable (incident : ∀ {s} (m : IncidentMonitor), P s → P (s.withIncident m))
include incident

theorem noteMove (H : StoreClosed P) (h : P s) (m : IncidentMonitor) (before : Option IncidentOrigin) :
    P (noteMove before (s.withIncident m)) := by
  unfold Machine.noteMove
  split
  · split
    · exact incident _ h
    · exact H.raiseAll (incident _ h) _
  · exact incident _ h

theorem monitorTakes (H : StoreClosed P) (h : P s) (pc : PictureChange) : P (monitorTakes pc s) := by
  have vertical {t : State} (k : P t) : P (checkVertical pc.entry t) := by
    unfold checkVertical
    split
    · split
      · exact H.raiseAll (incident _ k) _
      · exact k
    · exact k
  have lateral {t : State} (k : P t) : P (checkLateral pc.entry t) := by
    unfold checkLateral
    split
    · split
      · exact H.raiseAll (incident _ k) _
      · exact k
    · exact k
  unfold Machine.monitorTakes
  split
  · refine lateral (vertical ?_)
    unfold alarmRises
    dsimp only
    split
    · exact incident _ h
    · split
      · split
        · exact H.noteMove incident h _ _
        · exact incident _ h
      · exact H.noteMove incident h _ _
  · split
    · unfold alarmFalls
      dsimp only
      split
      · split
        · split <;> exact incident _ h
        · exact incident _ h
      · split
        · split
          · exact H.noteMove incident h _ _
          · exact incident _ h
        · exact incident _ h
    · split
      · unfold followLocation
        split
        · split
          · exact incident _ h
          · exact h
        · exact h
      · exact h

/-- What is kept by the writes of the Monitor, of a bundle's late set and of a channel is kept by the emission of a
picture change. -/
theorem emit (H : StoreClosed P) (h : P s) (pc : PictureChange) : P (emit pc s) :=
  eachChannel_keeps (P := P) (fun ch _ k => H.routeOn k pc ch) _ (H.monitorTakes incident h pc)

end StoreClosed

namespace PictureBlind
variable {s : State}

theorem putEntry (H : PictureBlind P) (h : P s) (e : Entry) : P (s.putEntry e) := H.entries _ h

theorem dropEntry (H : PictureBlind P) (h : P s) (a : Address) : P (s.dropEntry a) := H.entries _ h

theorem placeEntry (H : PictureBlind P) (h : P s) (e : Entry) : P (placeEntry e s) := H.emit _ (H.putEntry h e)

theorem removeByHold (H : PictureBlind P) (h : P s) (e : Entry) : P (removeByHold e s) := by
  refine H.emit _ ?_
  unfold handCopy
  split
  · exact H.setCopy (H.dropEntry h _) _ _
  · exact H.dropEntry h _

theorem rewriteEntry (H : PictureBlind P) (h : P s) (old new : Entry) : P (rewriteEntry old new s) := by
  have held {t : State} (k : P t) :
      P (if old.state ≠ .cleared ∧ holdMet t new = true then Machine.removeByHold new t else t) := by
    split
    · exact H.removeByHold k new
    · exact k
  unfold Machine.rewriteEntry
  cases writeChange old new with
  | none => exact held (H.putEntry h new)
  | some pc => exact held (H.emit pc (H.putEntry h new))

theorem unconfirmOrigin (H : PictureBlind P) (h : P s) (x : Nat) : P (unconfirmOrigin x s) := by
  refine foldl_keeps (P := P) (fun t e k => ?_) _ _ (H.entries _ h)
  unfold unconfirmEntry
  split
  · exact H.emit _ (H.putEntry k _)
  · exact k

theorem applyRecord (H : PictureBlind P) (h : P s) (x : Nat) (r : Record) : P (applyRecord x r s) := by
  unfold Machine.applyRecord
  split
  · unfold applyLevel
    dsimp only
    split
    · exact H.putEntry h _
    · exact H.emit _ (H.putEntry h _)
  · exact h
  · exact H.rewriteEntry h _ _
  · unfold presentRecord
    split
    · exact h
    · split
      · exact H.placeEntry h _
      · split
        · split
          · exact H.placeEntry (H.noteLoss (H.emit _ (H.dropEntry h _)) _) _
          · exact H.noteLoss h _
        · exact H.noteLoss h _

theorem writeLevel (H : PictureBlind P) (h : P s) (i v : Nat) : P (writeLevel i v s) := by
  unfold Machine.writeLevel
  split
  · exact H.emit _ (H.putEntry h _)
  · exact h

end PictureBlind

/-- A property of both kinds is one of those that `StepClosed` speaks of. -/
theorem StepClosed.of_blind (B : PictureBlind P)
    (transfer : ∀ {s} (b : BlockBytes), P s → P (Machine.transferEvent b s))
    (sheet : ∀ {s} (ch : Fin 4) (n : Nat), P s → s.control.running = true → P (Machine.sheetCarried ch n s))
    (place : ∀ {s} (ch : Fin 4), P s → bundleFits (s.channel ch) (s.bundle ch) = true →
      P (Machine.placeBundleMessage ch s))
    (detach : ∀ {s} (ch : Fin 4), P s → P (Machine.abortForDetach ch s)) : StepClosed P where
  toBlocksClosed := B.toBlocksClosed
  transferEvent := transfer
  sheetCarried := sheet
  placeBundleMessage := place
  abortForDetach := detach
  removeHeldOut h := foldl_keeps (P := P) (fun _ e k => B.removeByHold k e) _ _ h
  unconfirmOrigin x h := B.unconfirmOrigin h x
  setSweep _ _ h := B.entries _ h
  sweepOrigin _ h := foldl_keeps (P := P) (fun _ _ k => B.emit _ (B.dropEntry k _)) _ _ h
  applyRecord x _ h _ := B.applyRecord h x _
  placeOwn h _ _ _ := B.placeEntry h _
  rewrite h _ _ := B.rewriteEntry h _ _
  writeLevel i v h := B.writeLevel h i v

/-- A property that sees neither the entries nor the Monitor's state is kept by every command but a reset. -/
theorem StoreClosed.stepClosed (H : StoreClosed P) (entries : ∀ {s} (l : List Entry), P s → P (s.setEntries l))
    (incident : ∀ {s} (m : IncidentMonitor), P s → P (s.withIncident m)) : StepClosed P :=
  .of_blind
    { toBlocksClosed := H.toBlocksClosed, entries := entries, emit := fun pc h => H.emit incident h pc }
    (fun b h => H.transferEvent h b) (fun ch n h _ => H.sheetCarried h ch n)
    (fun ch h fits => H.placeBundleMessage h ch fits) (fun ch h => H.abortForDetach h ch)

end

/-! ## The resets -/

/-- A reset answers a state whose every block but the table, the Monitor, the store and the control is as at
reset. -/
theorem reset_blocks (st : Straps) (s : State) (t : State) (h : t = coldStart st s ∨ t = warmRestart st s) :
    t.crew = .reset ∧ t.bundles = .all .reset ∧ t.merge = .reset ∧ t.scanner = .reset ∧ t.pub = .reset ∧
      t.riser.stuckTimer = 0 ∧ t.control.resetHeld = false ∧ t.control.running = false ∧
      (t.store = { PlanStore.reset with engine := .first .header false } ∨ t.store = .reset) := by
  have supplied (tick : Nat) (table : PictureTable) (incident : IncidentMonitor)
      (e : t = strapsStep (.supplied st tick table incident s.pending)) :
      t.crew = .reset ∧ t.bundles = .all .reset ∧ t.merge = .reset ∧ t.scanner = .reset ∧ t.pub = .reset ∧
      t.riser.stuckTimer = 0 ∧ t.control.resetHeld = false ∧ t.control.running = false ∧
      (t.store = { PlanStore.reset with engine := .first .header false } ∨ t.store = .reset) := by
    subst e
    by_cases valid : 1 ≤ st.station.toNat ∧ st.station.toNat ≤ 250
    · rw [(strapsStep_supplied _ _ _ _ _).1 valid]
      exact ⟨rfl, rfl, rfl, rfl, rfl, rfl, rfl, rfl, .inl rfl⟩
    · rw [(strapsStep_supplied _ _ _ _ _).2 valid]
      exact ⟨rfl, rfl, rfl, rfl, rfl, rfl, rfl, rfl, .inr rfl⟩
  rcases h with h | h
  · exact supplied _ _ _ (h.trans (coldStart_eq st s))
  · exact supplied _ _ _ (h.trans (warmRestart_eq st s))

/-! ## The outbound queues (R170, R171) -/

theorem queuesOk_of_channels {s t : State} (h : QueuesOk s) (same : t.crew.channels = s.crew.channels) :
    QueuesOk t := fun ch => by
  rw [State.channel, same]
  exact h ch

theorem queuesOk_of_reset {s : State} (h : s.crew = .reset) : QueuesOk s := fun ch => by
  rw [State.channel, h, CrewUnit.reset, Four.get_all]
  exact queueOk_reset

theorem queuesOk_storeClosed : StoreClosed QueuesOk where
  pending _ h := h
  control h _ _ _ := h
  due _ h := h
  timers h := h
  incidentEnded h := h
  origin _ _ h := queuesOk_of_channels h (by rw [modOrigin_crew])
  recovery _ h := h
  merge h _ := h
  riser h _ := h
  pub h _ := h
  crew h _ same := queuesOk_of_channels h same
  channel h k := queuesOk_setChannel h _ (k (h _))
  scanner h _ := h
  store h _ := h
  bundle h _ := h
  enterRunning {s} h := by
    obtain ⟨l, placed⟩ := rewriteSupplyPlace_entries
      ((s.withControl { s.control with running := true }).withScanner { s.scanner with cfg := s.newScanConfig })
    refine queuesOk_of_channels h ?_
    simp only [enterRunning, withControl_scanner, placed]
    rfl

/-- Settles O55: a message enters where a place is free or the channel is not CONDENSED, and every other write leaves
the queues. -/
theorem stepsKeepTheQueuesInBounds : Obligations.StepsKeepTheQueuesInBounds := fun _ _ h done =>
  (queuesOk_storeClosed.stepClosed (fun _ k => k) (fun _ k => k)).step
    (fun st s _ => queuesOk_of_reset (reset_blocks st s _ (.inl rfl)).1)
    (fun st s _ => queuesOk_of_reset (reset_blocks st s _ (.inr rfl)).1)
    (fun k => by rw [assertReset_eq]; exact k) h done

/-! ## The late sets (R137) -/

theorem lateSetsOk_of_reset {s : State} (h : s.bundles = .all .reset) : LateSetsOk s := fun ch => by
  rw [State.bundle, h, Four.get_all]
  exact Bundle.lateOk_nil rfl

theorem lateSetsOk_of_bundles {s t : State} (h : LateSetsOk s) (same : t.bundles = s.bundles) : LateSetsOk t :=
  fun ch => by
    rw [State.bundle, same]
    exact h ch

theorem lateSetsOk_storeClosed : StoreClosed LateSetsOk where
  pending _ h := h
  control h _ _ _ := h
  due _ h := h
  timers h := h
  incidentEnded h := h
  origin _ _ h := lateSetsOk_of_bundles h (modOrigin_bundles _ _ _)
  recovery _ h := h
  merge h _ := h
  riser h _ := h
  pub h _ := h
  crew h _ _ := h
  channel h _ := h
  scanner h _ := h
  store h _ := h
  bundle h k d := by
    rw [bundle_setBundle]
    split
    · exact k (h _)
    · exact h d
  enterRunning h := lateSetsOk_of_bundles h (enterRunning_same _).1

/-- Settles O57: an address joins a late set in OVERLAY alone, where it is new and has room, and a bundle becomes
IDLE over an empty one. -/
theorem stepsKeepTheLateSets : Obligations.StepsKeepTheLateSets := fun _ _ h done =>
  (lateSetsOk_storeClosed.stepClosed (fun _ k => k) (fun _ k => k)).step
    (fun st s _ => lateSetsOk_of_reset (reset_blocks st s _ (.inl rfl)).2.1)
    (fun st s _ => lateSetsOk_of_reset (reset_blocks st s _ (.inr rfl)).2.1)
    (fun k => by rw [assertReset_eq]; exact k) h done

/-! ## The sizes and the read budget (R48, R126, R137) -/

/-- The sizes of the blocks of a part that is not held, the reads apart. -/
structure PartOk (s : State) : Prop where
  free : s.control.resetHeld = false
  merge : s.merge.queue.length ≤ 4
  store : s.store.InForm
  linkTimer : s.crew.linkTimer ≤ 50
  stuckTimer : s.riser.stuckTimer ≤ 20
  pub : s.pub.InForm
  origins : s.table.origins.length = 250
  channels : s.scanner.channels.length = 64

theorem partOk_storeClosed : StoreClosed PartOk where
  pending _ h := { h with }
  control h _ held _ := { h with free := held.trans h.free }
  due _ h := { h with }
  timers {s} h := { h with
    linkTimer := by
      change satSucc 50 s.crew.linkTimer ≤ 50
      rw [satSucc_eq_min]
      exact Nat.min_le_right _ _
    stuckTimer := by
      change (if s.riser.wasQuiet then 0 else satSucc 20 s.riser.stuckTimer) ≤ 20
      rw [satSucc_eq_min]
      split <;> omega
    pub := by
      change (tickPub s.control.running s.pub).InForm
      unfold tickPub
      split <;> exact h.pub
    origins := (List.length_map _).trans h.origins }
  incidentEnded h := { h with }
  origin x f h := by
    rw [modOrigin_eq]
    refine { h with origins := ?_ }
    change (if x = 0 then _ else updAt _ _ _).length = 250
    split
    · exact h.origins
    · exact (length_updAt _ _ _).trans h.origins
  recovery _ h := { h with }
  merge h k := { h with merge := k h.merge }
  riser h same := { h with stuckTimer := same ▸ h.stuckTimer }
  pub h k := { h with pub := k h.pub }
  crew h k _ := { h with linkTimer := k h.linkTimer }
  channel h _ := { h with }
  scanner h same := { h with channels := same.trans h.channels }
  store h k := { h with store := k h.store }
  bundle h _ := { h with }
  enterRunning {s} h := by
    obtain ⟨l, placed⟩ := rewriteSupplyPlace_entries
      ((s.withControl { s.control with running := true }).withScanner { s.scanner with cfg := s.newScanConfig })
    simp only [enterRunning, withControl_scanner, placed]
    exact { h with }

theorem reading_blind : PictureBlind (Reading []) where
  pending _ h := h.of_eq rfl rfl rfl
  control h running _ _ := h.of_eq rfl rfl running
  due _ h := h.of_eq rfl rfl rfl
  timers h := h.of_eq rfl rfl rfl
  incidentEnded h := h.of_eq rfl rfl rfl
  origin _ _ h := h.of_eq (modOrigin_bundles _ _ _) (modOrigin_store _ _ _) (by rw [modOrigin_control])
  recovery _ h := h.of_eq rfl rfl rfl
  merge h _ := h.of_eq rfl rfl rfl
  riser h _ := h.of_eq rfl rfl rfl
  pub h _ := h.of_eq rfl rfl rfl
  crew h _ _ := h.of_eq rfl rfl rfl
  channel h _ := h.of_eq rfl rfl rfl
  scanner h _ := h.of_eq rfl rfl rfl
  entries _ h := h.of_eq rfl rfl rfl
  emit pc h := h.told (emit_told pc _)

theorem reading_stepClosed : StepClosed (Reading []) :=
  .of_blind reading_blind (fun b h => h.transferEvent b)
    (fun ch n h running => (h.sheetRequest running ch n).settleReports)
    (fun ch h _ => h.placeBundleMessage ch) (fun ch h => h.abortForDetach ch)

/-- While the part is not held, the sizes are those of the blocks and the reads that are owed. -/
theorem sizesOk_of_reading {s : State} (h : PartOk s) (k : Reading [] s) : SizesOk s :=
  ⟨h.merge, k.mainQueue_le, h.store.2, h.linkTimer, h.stuckTimer, h.pub.1, h.pub.2, h.origins, h.channels,
    fun ch => (k.bundle ch).2.1, fun _ => h.store.1, (readsOk_iff s).mpr fun _ => k⟩

theorem reading_of_sizesOk {s : State} (h : SizesOk s) (free : s.control.resetHeld = false) :
    PartOk s ∧ Reading [] s := by
  obtain ⟨merge, _, promote, linkTimer, stuckTimer, seq, copies, origins, channels, _, engine, reads⟩ := h
  exact ⟨⟨free, merge, ⟨engine free, promote⟩, linkTimer, stuckTimer, ⟨seq, copies⟩, origins, channels⟩,
    (readsOk_iff s).mp reads free⟩

theorem sizesOk_of_reset (st : Straps) (s : State) {t : State} (h : t = coldStart st s ∨ t = warmRestart st s)
    (origins : t.table.origins.length = 250) : SizesOk t := by
  obtain ⟨crew, bundles, merge, scanner, pub, stuck, free, running, store⟩ := reset_blocks st s t h
  have engine : t.store.InForm := by
    rcases store with store | store <;> rw [store]
    · exact ⟨fun idle => ReadEngine.noConfusion idle, Nat.zero_le _⟩
    · exact ⟨fun _ => ⟨rfl, rfl⟩, Nat.zero_le _⟩
  refine sizesOk_of_reading ⟨free, by rw [merge]; decide, engine, by rw [crew]; decide, by rw [stuck]; decide,
    ?_, origins, by rw [scanner]; exact reset_channels_length⟩ ⟨fun ch => ?_, ?_, fun _ ch => ?_, ?_⟩
  · rw [pub]
    exact ⟨by decide, rfl, fun _ hi => absurd hi List.not_mem_nil⟩
  · have none : t.store.readsOf (.channel ch) = [] ∧ t.store.orphansOf ch = 0 := by
      rcases store with store | store <;> rw [store] <;> fin_cases ch <;> exact ⟨rfl, rfl⟩
    rw [none.1, none.2, State.bundle, bundles, Four.get_all]
    exact Bundle.readsOk_quiet rfl rfl rfl rfl (Nat.zero_le _)
  · rw [running]
    rcases store with store | store <;> rw [store] <;> decide
  · rw [State.bundle, bundles, Four.get_all]
    rfl
  · intro r orphan
    rcases store with store | store <;> rw [store] at orphan <;> cases orphan

/-- A held part's sizes stand: it takes no command but a reset, and counts its ticks. -/
theorem sizesOk_held {s t : State} (h : SizesOk s) (held : s.control.resetHeld = true) {c : Instr}
    (cold : ∀ st, c ≠ .coldStart st) (warm : ∀ st, c ≠ .warmRestart st) (asserted : c ≠ .resetAssert)
    (done : exec c s = .next t) : SizesOk t := by
  by_cases tick : ∃ r o, c = .tick r o
  · obtain ⟨r, o, rfl⟩ := tick
    cases done
    rw [if_pos held]
    exact h
  · have stands := heldPartOnlyCountsTicks.1 c s held cold warm (fun r o e => tick ⟨r, o, e⟩) asserted
    cases stands.symm.trans done
    exact h

theorem sizesOk_exec {s t : State} (h : SizesOk s) {c : Instr} (cold : ∀ st, c ≠ .coldStart st)
    (warm : ∀ st, c ≠ .warmRestart st) (asserted : c ≠ .resetAssert) (done : exec c s = .next t) :
    SizesOk t := by
  by_cases held : s.control.resetHeld = true
  · exact sizesOk_held h held cold warm asserted done
  · obtain ⟨part, reading⟩ := reading_of_sizesOk h (by simpa using held)
    have parts := partOk_storeClosed.stepClosed (fun _ k => { k with }) (fun _ k => { k with })
    exact sizesOk_of_reading (parts.exec part cold warm asserted done)
      (reading_stepClosed.exec reading cold warm asserted done)

theorem coldStart_origins (st : Straps) (s : State) : (coldStart st s).table.origins.length = 250 := by
  rw [coldStart_eq]
  by_cases valid : 1 ≤ st.station.toNat ∧ st.station.toNat ≤ 250
  · rw [(strapsStep_supplied _ _ _ _ _).1 valid]
    exact List.length_replicate ..
  · rw [(strapsStep_supplied _ _ _ _ _).2 valid]
    exact List.length_replicate ..

theorem warmRestart_origins (st : Straps) (s : State) :
    (warmRestart st s).table.origins.length = s.table.origins.length := by
  rw [warmRestart_eq]
  by_cases valid : 1 ≤ st.station.toNat ∧ st.station.toNat ≤ 250
  · rw [(strapsStep_supplied _ _ _ _ _).1 valid]
    exact List.length_mapIdx ..
  · rw [(strapsStep_supplied _ _ _ _ _).2 valid]
    exact List.length_mapIdx ..

/-- Settles O58: the blocks' sizes are kept write by write, the reads by the budget of every operation that asks,
answers or cancels, and a reset leaves at most the loader's one read. -/
theorem stepsKeepTheSizes : Obligations.StepsKeepTheSizes := by
  intro s t h done
  unfold step at done
  split at done
  · cases done; exact h
  case _ c rest _ =>
    have h : SizesOk (s.withPending rest) := h
    cases c with
    | coldStart st => cases done; exact sizesOk_of_reset st _ (.inl rfl) (coldStart_origins st _)
    | warmRestart st =>
      cases done
      exact sizesOk_of_reset st _ (.inr rfl) ((warmRestart_origins st _).trans h.2.2.2.2.2.2.2.1)
    | resetAssert =>
      cases done
      obtain ⟨merge, main, promote, linkTimer, stuckTimer, seq, copies, origins, channels, budget, _, _⟩ := h
      rw [assertReset_eq]
      exact ⟨merge, main, promote, linkTimer, stuckTimer, seq, copies, origins, channels, budget,
        fun free => Bool.noConfusion free, fun free => Bool.noConfusion free⟩
    | _ => exact sizesOk_exec h (by simp) (by simp) (by simp) done

end Sys2Proof.Machine
end

section
/-!
PROOFS. The Picture Table and the Incident Monitor over a step (R17, R107): O56.
-/
namespace Sys2Proof.Machine

/-! ## Counting entries -/

/-- 1 for an entry that the predicate holds of, and 0 for another. -/
def one (p : Entry → Bool) (e : Entry) : Nat := if p e then 1 else 0

theorem countP_putEntry_held (p : Entry → Bool) {l : List Entry} (r : Rising l) {old new : Entry} (h : old ∈ l)
    (same : new.addr = old.addr) : (putEntry new l).countP p + one p old = l.countP p + one p new := by
  induction l with
  | nil => cases h
  | cons y l ih =>
    obtain ⟨hy, hl⟩ := r
    rcases List.mem_cons.mp h with rfl | inside
    · simp only [putEntry, same, if_true, List.countP_cons, one]
      omega
    · have after := hy old inside
      have apart : ¬new.addr = y.addr := fun k => before_ne after (k ▸ same)
      have later : ¬new.addr.before y.addr = true := fun k => by
        rw [same] at k
        exact Bool.noConfusion ((before_irrefl _).symm.trans (before_trans k after))
      have rest := ih hl inside
      simp only [putEntry, if_neg apart, if_neg later, List.countP_cons]
      omega

theorem countP_putEntry_new (p : Entry → Bool) {l : List Entry} {e : Entry} (h : ∀ x ∈ l, x.addr ≠ e.addr) :
    (putEntry e l).countP p = l.countP p + one p e := by
  induction l with
  | nil => simp [putEntry, one, List.countP_cons]
  | cons y l ih =>
    have apart : ¬e.addr = y.addr := fun k => h y List.mem_cons_self k.symm
    have rest := ih fun x hx => h x (List.mem_cons_of_mem _ hx)
    simp only [putEntry, if_neg apart]
    split <;> simp only [List.countP_cons, one] at * <;> omega

theorem dropEntry_of_absent {l : List Entry} {a : Address} (h : ∀ x ∈ l, x.addr ≠ a) : dropEntry a l = l :=
  List.filter_eq_self.mpr fun x hx => by simpa using h x hx

theorem countP_dropEntry (p : Entry → Bool) {l : List Entry} (r : Rising l) {e : Entry} (h : e ∈ l) :
    (dropEntry e.addr l).countP p + one p e = l.countP p := by
  induction l with
  | nil => cases h
  | cons y l ih =>
    obtain ⟨hy, hl⟩ := r
    rcases List.mem_cons.mp h with rfl | inside
    · have gone : dropEntry e.addr (e :: l) = l := by
        rw [← dropEntry_of_absent fun x hx k => before_ne (hy x hx) k.symm]
        simp [dropEntry]
      rw [gone, List.countP_cons, one]
    · have stays : dropEntry e.addr (y :: l) = y :: dropEntry e.addr l := by
        simp [dropEntry, before_ne (hy e inside)]
      have rest := ih hl inside
      rw [stays, List.countP_cons, List.countP_cons]
      omega

/-- The entry is in ALARM. -/
def Entry.inAlarm (e : Entry) : Bool := e.state == .alarm

theorem alarmsHeld_eq (s : State) : s.alarmsHeld = s.entries.countP Entry.inAlarm :=
  List.countP_eq_length_filter.symm

theorem foreign_length (s : State) : s.foreign.length = s.entries.countP fun e => !s.ownEntry e :=
  List.countP_eq_length_filter.symm

theorem absent_of_entryAt {s : State} {a : Address} (h : s.entryAt a = none) : ∀ x ∈ s.entries, x.addr ≠ a :=
  fun x hx k => by simpa [k] using List.find?_eq_none.mp h x hx

/-! ## The table after a write -/

theorem tableOk_of_eq {s t : State} (h : TableOk s) (entries : t.entries = s.entries) (own : t.own = s.own) :
    TableOk t := by
  obtain ⟨rising, indices, pool⟩ := h
  refine ⟨entries ▸ rising, entries ▸ indices, ?_⟩
  simp only [State.foreign, State.ownEntry, entries, own] at pool ⊢
  exact pool

theorem tableOk_putEntry_held {s : State} (h : TableOk s) {old new : Entry} (held : s.entryAt old.addr = some old)
    (same : new.addr = old.addr) : TableOk (s.putEntry new) := by
  obtain ⟨rising, indices, pool⟩ := h
  have mem := mem_of_entryAt held
  refine ⟨rising_putEntry new rising, fun e he => ?_, ?_⟩
  · rcases mem_putEntry_of he with rfl | he
    · exact same ▸ indices _ mem
    · exact indices e he
  · have count := countP_putEntry_held (fun e => !s.ownEntry e) rising mem same
    simp only [one, State.ownEntry, same] at count
    rw [foreign_length] at pool ⊢
    exact le_of_eq_of_le (Nat.add_right_cancel count) pool

theorem tableOk_putEntry_new {s : State} (h : TableOk s) {e : Entry} (absent : s.entryAt e.addr = none)
    (index : e.addr.index ≤ 79) (room : e.addr.station = s.own ∨ s.foreign.length < 560) :
    TableOk (s.putEntry e) := by
  obtain ⟨rising, indices, pool⟩ := h
  refine ⟨rising_putEntry e rising, fun x hx => ?_, ?_⟩
  · rcases mem_putEntry_of hx with rfl | hx
    · exact index
    · exact indices x hx
  · have count : (s.putEntry e).foreign.length = s.foreign.length + one (fun e => !s.ownEntry e) e := by
      rw [foreign_length, foreign_length]
      exact countP_putEntry_new _ (absent_of_entryAt absent)
    have small : one (fun e => !s.ownEntry e) e ≤ 1 := by
      unfold one
      split <;> decide
    rcases room with own | room
    · rw [count, one, State.ownEntry, own]
      simpa using pool
    · omega

theorem tableOk_dropEntry {s : State} (h : TableOk s) (a : Address) : TableOk (s.dropEntry a) := by
  obtain ⟨rising, indices, pool⟩ := h
  refine ⟨rising_dropEntry a rising, fun e he => indices e (mem_dropEntry.mp he).1, ?_⟩
  rw [foreign_length] at pool ⊢
  exact Nat.le_trans (List.filter_sublist.countP_le) pool

theorem alarmsHeld_putEntry_held {s : State} (rising : Rising s.entries) {old new : Entry}
    (held : s.entryAt old.addr = some old) (same : new.addr = old.addr) :
    (s.putEntry new).alarmsHeld + one Entry.inAlarm old = s.alarmsHeld + one Entry.inAlarm new := by
  rw [alarmsHeld_eq, alarmsHeld_eq]
  exact countP_putEntry_held _ rising (mem_of_entryAt held) same

theorem alarmsHeld_putEntry_new {s : State} {e : Entry} (absent : s.entryAt e.addr = none) :
    (s.putEntry e).alarmsHeld = s.alarmsHeld + one Entry.inAlarm e := by
  rw [alarmsHeld_eq, alarmsHeld_eq]
  exact countP_putEntry_new _ (absent_of_entryAt absent)

theorem alarmsHeld_dropEntry {s : State} (rising : Rising s.entries) {e : Entry} (mem : e ∈ s.entries) :
    (s.dropEntry e.addr).alarmsHeld + one Entry.inAlarm e = s.alarmsHeld := by
  rw [alarmsHeld_eq, alarmsHeld_eq]
  exact countP_dropEntry _ rising mem

/-! ## What the Monitor makes of a picture change -/

/-- The alarm count after a picture change (R109). -/
def PictureChange.counted (pc : PictureChange) (n : Nat) : Nat :=
  if pc.entersAlarm then n + 1 else if pc.leavesAlarm then n - 1 else n

/-- The Monitor is consistent and its alarm count is `n`. -/
def IncidentMonitor.Counts (m : IncidentMonitor) (n : Nat) : Prop := IncidentOk m ∧ m.alarmCount = n

theorem checkVertical_counts {s : State} {n : Nat} (h : s.incident.Counts n) (e : Entry) :
    (checkVertical e s).incident.Counts n := by
  unfold checkVertical
  split
  · split
    · rw [raiseAll_incident]; exact h
    · exact h
  · exact h

theorem checkLateral_counts {s : State} {n : Nat} (h : s.incident.Counts n) (e : Entry) :
    (checkLateral e s).incident.Counts n := by
  unfold checkLateral
  split
  · split
    · rw [raiseAll_incident]; exact h
    · exact h
  · exact h

theorem alarmRises_counts {s : State} {n : Nat} (h : s.incident.Counts n) (e : Entry) :
    (alarmRises e s).incident.Counts (n + 1) := by
  obtain ⟨⟨active, hold⟩, count⟩ := h
  have counted : s.incident.alarmCount + 1 = n + 1 := congrArg (· + 1) count
  have noTimer {q : Prop} : (none : Option Nat).isSome = true → q := fun k => Bool.noConfusion k
  unfold alarmRises
  dsimp only
  split
  case isTrue => exact ⟨⟨rfl, noTimer⟩, counted⟩
  case isFalse running =>
    have running : s.incident.active = true := by simpa using running
    split
    case _ stopped named =>
      split
      · rw [noteMove_incident]
        exact ⟨⟨running, noTimer⟩, counted⟩
      · exact ⟨⟨active, fun k => noTimer (stopped ▸ k)⟩, counted⟩
    case _ =>
      rw [noteMove_incident]
      exact ⟨⟨running, noTimer⟩, counted⟩

theorem alarmFalls_counts {s : State} {n : Nat} (h : s.incident.Counts n) (e : Entry) :
    (alarmFalls e s).incident.Counts (n - 1) := by
  obtain ⟨⟨active, hold⟩, count⟩ := h
  have counted : s.incident.alarmCount - 1 = n - 1 := congrArg (· - 1) count
  unfold alarmFalls
  dsimp only
  split
  case isTrue zero =>
    split
    case isTrue running =>
      split
      · exact ⟨⟨rfl, fun k => Bool.noConfusion k⟩, counted⟩
      · exact ⟨⟨active, fun _ => ⟨running, zero⟩⟩, counted⟩
    case isFalse => exact ⟨⟨active, fun k => ⟨(hold k).1, zero⟩⟩, counted⟩
  case isFalse more =>
    have stopped {q : Prop} (k : s.incident.hold.isSome = true) : q :=
      absurd (by rw [(hold k).2]) more
    split
    case isTrue named =>
      split
      case _ o _ =>
        rw [noteMove_incident]
        refine ⟨⟨?_, stopped⟩, counted⟩
        have some : s.incident.origin.isSome = true := by
          rw [← Option.isSome_map, named]
          rfl
        exact active.trans some
      case _ => exact ⟨⟨active, stopped⟩, counted⟩
    case isFalse => exact ⟨⟨active, stopped⟩, counted⟩

theorem followLocation_counts {s : State} {n : Nat} (h : s.incident.Counts n) (e : Entry) :
    (followLocation e s).incident.Counts n := by
  unfold followLocation
  split
  case _ o named =>
    split
    · obtain ⟨⟨active, hold⟩, count⟩ := h
      rw [named] at active
      exact ⟨⟨active, hold⟩, count⟩
    · exact h
  case _ => exact h

theorem monitorTakes_counts {s : State} {n : Nat} (h : s.incident.Counts n) (pc : PictureChange) :
    (monitorTakes pc s).incident.Counts (pc.counted n) := by
  unfold monitorTakes PictureChange.counted
  split
  · exact checkLateral_counts (checkVertical_counts (alarmRises_counts h _) _) _
  · split
    · exact alarmFalls_counts h _
    · split
      · exact followLocation_counts h _
      · exact h

theorem routeOn_incident (pc : PictureChange) (ch : Fin 4) (s : State) :
    (routeOn pc ch s).incident = s.incident := by
  have update (f : Option Nat) (t : State) : (queueUpdate pc f ch t).incident = t.incident := by
    unfold queueUpdate
    split <;> rfl
  have late (a : Address) : (offerLate a ch s).incident = s.incident := by
    unfold offerLate
    dsimp only
    split
    · rfl
    · split <;> rfl
  unfold routeOn
  dsimp only
  split
  · rfl
  · split
    · split
      · rw [update, late]
      · exact late _
    · split
      · exact update _ _
      · split
        · exact update _ _
        · rfl

theorem routeChange_incident (pc : PictureChange) (s : State) : (routeChange pc s).incident = s.incident :=
  eachChannel_keeps (P := fun t : State => t.incident = s.incident)
    (fun ch t k => (routeOn_incident pc ch t).trans k) s rfl

theorem emit_counts {s : State} {n : Nat} (h : s.incident.Counts n) (pc : PictureChange) :
    (emit pc s).incident.Counts (pc.counted n) := by
  rw [emit, routeChange_incident]
  exact monitorTakes_counts h pc

/-! ## The property as a whole -/

theorem pictureOk_iff (s : State) : PictureOk s ↔ TableOk s ∧ s.incident.Counts s.alarmsHeld :=
  ⟨fun ⟨table, count, ok⟩ => ⟨table, ok, count⟩, fun ⟨table, ok, count⟩ => ⟨table, count, ok⟩⟩

theorem pictureOk_of_eq {s t : State} (h : PictureOk s) (entries : t.entries = s.entries) (own : t.own = s.own)
    (incident : t.incident = s.incident) : PictureOk t := by
  obtain ⟨table, count, ok⟩ := h
  refine ⟨tableOk_of_eq table entries own, ?_, incident ▸ ok⟩
  rw [incident, State.alarmsHeld, entries]
  exact count

/-- A write of the table told by a change that counts what the write did to the entries in ALARM. -/
theorem pictureOk_emit {s t : State} (h : PictureOk s) (table : TableOk t) (incident : t.incident = s.incident)
    (pc : PictureChange) (counts : pc.counted s.alarmsHeld = t.alarmsHeld) : PictureOk (emit pc t) := by
  obtain ⟨_, count⟩ := (pictureOk_iff s).mp h
  refine (pictureOk_iff _).mpr ⟨tableOk_of_eq table (by simp [State.entries]) (by simp [State.own]), ?_⟩
  have same : (emit pc t).alarmsHeld = t.alarmsHeld := by simp [State.alarmsHeld, State.entries]
  rw [same, ← counts]
  exact emit_counts (incident ▸ count) pc

/-! ## Entries placed and taken out -/

theorem counted_admission (e : Entry) (n : Nat) :
    (plainChange .admission e).counted n = n + one Entry.inAlarm e := by
  cases is : e.state == .alarm <;>
    simp [PictureChange.counted, PictureChange.entersAlarm, PictureChange.leavesAlarm, plainChange, one,
      Entry.inAlarm, is]

theorem counted_outgoing {kind : ChangeKind} (h : kind = .remove ∨ kind = .evict) (e : Entry) (n : Nat) :
    (plainChange kind e).counted n = n - one Entry.inAlarm e := by
  rcases h with rfl | rfl <;> cases is : e.state == .alarm <;>
    simp [PictureChange.counted, PictureChange.entersAlarm, PictureChange.leavesAlarm, plainChange, one,
      Entry.inAlarm, is]

/-- A change that is neither of an entry's coming nor of its going nor of its state leaves the count. -/
theorem counted_same {pc : PictureChange} (h : pc.kind = .level ∨ pc.kind = .confirm ∨ pc.kind = .unconfirm)
    (n : Nat) : pc.counted n = n := by
  rcases h with h | h | h <;> simp [PictureChange.counted, PictureChange.entersAlarm, PictureChange.leavesAlarm, h]

theorem counted_state {old new : Entry} (moved : old.state ≠ new.state) (sheet : Option (Option Nat)) {n m : Nat}
    (counts : m + one Entry.inAlarm old = n + one Entry.inAlarm new) :
    PictureChange.counted { kind := .state, entry := new, prevState := some old.state, prevSheet := sheet } n =
      m := by
  simp only [PictureChange.counted, PictureChange.entersAlarm, PictureChange.leavesAlarm, one,
    Entry.inAlarm] at *
  by_cases is : new.state = .alarm
  · have was : ¬old.state = .alarm := fun k => moved (k.trans is.symm)
    simp_all
  · by_cases was : old.state = .alarm
    · simp_all
      omega
    · simp_all

theorem pictureOk_placeEntry {s : State} (h : PictureOk s) {e : Entry} (absent : s.entryAt e.addr = none)
    (index : e.addr.index ≤ 79) (room : e.addr.station = s.own ∨ s.foreign.length < 560) :
    PictureOk (placeEntry e s) :=
  pictureOk_emit h (tableOk_putEntry_new h.1 absent index room) rfl _
    ((counted_admission e _).trans (alarmsHeld_putEntry_new absent).symm)

/-- An entry taken out and told of, whatever else is written meanwhile. -/
theorem pictureOk_takenOut {s t : State} (h : PictureOk s) {e : Entry} (mem : e ∈ s.entries)
    (entries : t.entries = (s.dropEntry e.addr).entries) (own : t.own = s.own)
    (incident : t.incident = s.incident) {kind : ChangeKind} (going : kind = .remove ∨ kind = .evict) :
    PictureOk (emit (plainChange kind e) t) := by
  refine pictureOk_emit h (tableOk_of_eq (tableOk_dropEntry h.1 e.addr) entries own) incident _ ?_
  have count := alarmsHeld_dropEntry h.1.1 mem
  have same : t.alarmsHeld = (s.dropEntry e.addr).alarmsHeld := by
    unfold State.alarmsHeld
    rw [entries]
  rw [counted_outgoing going, same]
  omega

theorem handCopy_entries (e : Entry) (s : State) : (handCopy e s).entries = s.entries := by
  unfold handCopy
  split <;> rfl

theorem handCopy_incident (e : Entry) (s : State) : (handCopy e s).incident = s.incident := by
  unfold handCopy
  split <;> rfl

theorem handCopy_own (e : Entry) (s : State) : (handCopy e s).own = s.own := by
  unfold handCopy
  split <;> rfl

theorem pictureOk_removeByHold {s : State} (h : PictureOk s) {e : Entry} (mem : e ∈ s.entries) :
    PictureOk (removeByHold e s) :=
  pictureOk_takenOut h mem (handCopy_entries _ _) (handCopy_own _ _) (handCopy_incident _ _) (.inl rfl)

theorem pictureOk_removeBySweep {s : State} (h : PictureOk s) {e : Entry} (mem : e ∈ s.entries) :
    PictureOk (removeBySweep e s) :=
  pictureOk_takenOut h mem rfl rfl rfl (.inl rfl)

theorem removeByHold_entries (e : Entry) (s : State) :
    (removeByHold e s).entries = (s.dropEntry e.addr).entries := by
  exact (congrArg PictureTable.entries (emit_table _ _)).trans (handCopy_entries e _)

theorem removeBySweep_entries (e : Entry) (s : State) :
    (removeBySweep e s).entries = (s.dropEntry e.addr).entries :=
  congrArg PictureTable.entries (emit_table _ _)

/-- A walk over held entries in rising address, where each operation leaves the entries of other addresses. -/
theorem foldl_rising {P : State → Prop} {f : State → Entry → State}
    (keeps : ∀ t e, P t → e ∈ t.entries → P (f t e))
    (others : ∀ t e x, x ∈ t.entries → x.addr ≠ e.addr → x ∈ (f t e).entries) {l : List Entry} (r : Rising l) :
    ∀ s, (∀ e ∈ l, e ∈ s.entries) → P s → P (l.foldl f s) := by
  induction l with
  | nil => exact fun _ _ h => h
  | cons e l ih =>
    obtain ⟨first, rest⟩ := r
    intro s held h
    refine ih rest _ (fun x hx => ?_) (keeps s e h (held e List.mem_cons_self))
    exact others s e x (held x (List.mem_cons_of_mem _ hx)) fun k => before_ne (first x hx) k.symm

/-! ## Entries rewritten -/

theorem pictureOk_putEntry {s : State} (h : PictureOk s) {old new : Entry} (held : s.entryAt old.addr = some old)
    (same : new.addr = old.addr) (state : new.state = old.state) : PictureOk (s.putEntry new) := by
  obtain ⟨table, count, ok⟩ := h
  have alarms := alarmsHeld_putEntry_held table.1 held same
  simp only [one, Entry.inAlarm, state] at alarms
  exact ⟨tableOk_putEntry_held table held same, count.trans (Nat.add_right_cancel alarms).symm, ok⟩

/-- A rewrite that leaves the state, told as a change of something else. -/
theorem pictureOk_told_same {s : State} (h : PictureOk s) {old new : Entry} (held : s.entryAt old.addr = some old)
    (same : new.addr = old.addr) (state : new.state = old.state) {pc : PictureChange}
    (kind : pc.kind = .level ∨ pc.kind = .confirm ∨ pc.kind = .unconfirm) :
    PictureOk (emit pc (s.putEntry new)) := by
  have k := pictureOk_putEntry h held same state
  exact pictureOk_emit k k.1 rfl pc (counted_same kind _)

theorem writeChange_cases {old new : Entry} {pc : PictureChange} (h : writeChange old new = some pc) :
    (old.state ≠ new.state ∧
      pc = { kind := .state, entry := new, prevState := some old.state, prevSheet := prevSheetOf old new }) ∨
    (new.state = old.state ∧ (pc.kind = .level ∨ pc.kind = .confirm)) := by
  unfold writeChange at h
  split at h
  case isTrue moved => exact .inl ⟨moved, (Option.some.inj h).symm⟩
  case isFalse still =>
    have still : new.state = old.state := (not_not.mp still).symm
    split at h
    · exact .inr ⟨still, .inl (Option.some.inj h ▸ rfl)⟩
    · split at h
      · exact .inr ⟨still, .inr (Option.some.inj h ▸ rfl)⟩
      · cases h

theorem writeChange_none {old new : Entry} (h : writeChange old new = none) : new.state = old.state := by
  unfold writeChange at h
  split at h
  case isTrue => cases h
  case isFalse still => exact (not_not.mp still).symm

theorem pictureOk_rewriteEntry {s : State} (h : PictureOk s) {old new : Entry}
    (held : s.entryAt old.addr = some old) (same : new.addr = old.addr) : PictureOk (rewriteEntry old new s) := by
  have finish {t : State} (k : PictureOk t) (entries : t.entries = (s.putEntry new).entries) :
      PictureOk (if old.state ≠ .cleared ∧ holdMet t new = true then removeByHold new t else t) := by
    split
    · exact pictureOk_removeByHold k (entries ▸ mem_putEntry_self new _)
    · exact k
  unfold rewriteEntry
  cases written : writeChange old new with
  | none => exact finish (pictureOk_putEntry h held same (writeChange_none written)) rfl
  | some pc =>
    refine finish ?_ (congrArg PictureTable.entries (emit_table _ _))
    rcases writeChange_cases written with ⟨moved, rfl⟩ | ⟨still, kind⟩
    · exact pictureOk_emit h (tableOk_putEntry_held h.1 held same) rfl _
        (counted_state moved _ (alarmsHeld_putEntry_held h.1.1 held same))
    · exact pictureOk_told_same h held same still (kind.imp_right .inl)

theorem pictureOk_applyLevel {s : State} (h : PictureOk s) {e : Entry} (held : s.entryAt e.addr = some e)
    (r : Record) : PictureOk (applyLevel e r s) := by
  unfold applyLevel
  dsimp only
  split
  · exact pictureOk_putEntry h held rfl rfl
  · exact pictureOk_told_same h (new := { e with datum := .level r.value, learned := s.now }) held rfl rfl (.inl rfl)

/-! ## Sweep marks and confirmation -/

theorem pictureOk_setSweep {s : State} (h : PictureOk s) (x : Nat) (b : Bool) : PictureOk (setSweep x b s) := by
  obtain ⟨⟨rising, indices, pool⟩, count, ok⟩ := h
  have blind (p : Entry → Bool) (same : ∀ e : Entry, p { e with sweep := b } = p e) :
      (setSweep x b s).entries.countP p = s.entries.countP p := by
    refine List.countP_map.trans (List.countP_congr fun e _ => ?_)
    dsimp only [Function.comp]
    split
    · rw [same]
    · rfl
  refine ⟨⟨rising_map _ (fun e => ?_) rising, fun e he => ?_, ?_⟩, ?_, ok⟩
  · split <;> rfl
  · obtain ⟨y, hy, rfl⟩ := List.mem_map.mp he
    split <;> exact indices y hy
  · rw [foreign_length] at pool ⊢
    exact le_of_eq_of_le (blind _ fun _ => rfl) pool
  · rw [alarmsHeld_eq] at count ⊢
    exact count.trans (blind _ fun _ => rfl).symm

theorem unconfirmEntry_others {s : State} {e x : Entry} (r : Rising s.entries) (hx : x ∈ s.entries)
    (apart : x.addr ≠ e.addr) : x ∈ (unconfirmEntry e s).entries := by
  unfold unconfirmEntry
  split
  · rw [State.entries, emit_table]
    exact (mem_putEntry r).mpr (.inr ⟨hx, apart⟩)
  · exact hx

theorem entryAt_of_mem {s : State} (r : Rising s.entries) {e : Entry} (h : e ∈ s.entries) :
    s.entryAt e.addr = some e := find_rising r h

theorem pictureOk_unconfirmEntry {s : State} (h : PictureOk s) {e : Entry} (mem : e ∈ s.entries) :
    PictureOk (unconfirmEntry e s) := by
  unfold unconfirmEntry
  split
  · exact pictureOk_told_same h (new := { e with confirmed := false }) (entryAt_of_mem h.1.1 mem) rfl rfl
      (.inr (.inr rfl))
  · exact h

theorem pictureOk_unconfirmOrigin {s : State} (h : PictureOk s) (x : Nat) : PictureOk (unconfirmOrigin x s) := by
  have cleared := pictureOk_setSweep h x false
  have walk : ∀ l : List Entry, Rising l → ∀ t, (∀ e ∈ l, e ∈ t.entries) → PictureOk t →
      PictureOk (l.foldl (fun t e => unconfirmEntry e t) t) := by
    intro l
    induction l with
    | nil => exact fun _ _ _ k => k
    | cons e l ih =>
      intro r t held k
      obtain ⟨first, rest⟩ := r
      refine ih rest _ (fun y hy => ?_) (pictureOk_unconfirmEntry k (held e List.mem_cons_self))
      exact unconfirmEntry_others k.1.1 (held y (List.mem_cons_of_mem _ hy)) fun q =>
        before_ne (first y hy) q.symm
  exact walk _ (rising_filter _ cleared.1.1) _ (fun _ he => (List.mem_filter.mp he).1) cleared

theorem pictureOk_sweepOrigin {s : State} (h : PictureOk s) (x : Nat) : PictureOk (sweepOrigin x s) := by
  refine foldl_rising (P := PictureOk) (fun t e k mem => pictureOk_removeBySweep k mem) (fun t e y hy apart => ?_)
    (rising_filter _ (rising_filter _ h.1.1)) _
    (fun _ he => (List.mem_filter.mp (List.mem_filter.mp he).1).1) h
  rw [removeBySweep_entries]
  exact mem_dropEntry.mpr ⟨hy, apart⟩

theorem pictureOk_removeHeldOut {s : State} (h : PictureOk s) : PictureOk (removeHeldOut s) := by
  refine foldl_rising (P := PictureOk) (fun t e k mem => pictureOk_removeByHold k mem) (fun t e y hy apart => ?_)
    (rising_filter _ h.1.1) _ (fun _ he => (List.mem_filter.mp he).1) h
  rw [removeByHold_entries]
  exact mem_dropEntry.mpr ⟨hy, apart⟩

/-! ## Records of peers -/

theorem pictureOk_modOrigin {s : State} (h : PictureOk s) (x : Nat) (f : OriginRecord → OriginRecord) :
    PictureOk (s.modOrigin x f) :=
  pictureOk_of_eq h (modOrigin_table_entries s x f) (congrArg (fun c => c.straps.station.toNat) (modOrigin_control s x f))
    (modOrigin_incident s x f)

theorem pictureOk_noteLoss {s : State} (h : PictureOk s) (x : Nat) : PictureOk (noteLoss x s) := by
  have flagged := pictureOk_modOrigin h x fun o => { o with overflow := true }
  unfold noteLoss
  dsimp only
  split
  · split
    · exact pictureOk_of_eq flagged rfl rfl rfl
    · exact flagged
  · exact flagged

theorem noteLoss_entries (x : Nat) (s : State) : (noteLoss x s).entries = s.entries := by
  have flagged := modOrigin_table_entries s x fun o => { o with overflow := true }
  unfold noteLoss
  dsimp only
  split
  · split <;> exact flagged
  · exact flagged

theorem noteLoss_own (x : Nat) (s : State) : (noteLoss x s).own = s.own := by
  have flagged : (s.modOrigin x fun o => { o with overflow := true }).own = s.own := by
    rw [State.own, modOrigin_control]
    rfl
  unfold noteLoss
  dsimp only
  split
  · split <;> exact flagged
  · exact flagged

theorem evictEntry_entries (v : Entry) (s : State) : (evictEntry v s).entries = (s.dropEntry v.addr).entries := by
  rw [evictEntry, noteLoss_entries, State.entries, emit_table]
  rfl

theorem evictEntry_own (v : Entry) (s : State) : (evictEntry v s).own = s.own := by
  rw [evictEntry, noteLoss_own, State.own, emit_control]
  rfl

theorem pictureOk_evictEntry {s : State} (h : PictureOk s) {v : Entry} (mem : v ∈ s.entries) :
    PictureOk (evictEntry v s) :=
  pictureOk_noteLoss (pictureOk_takenOut h mem rfl rfl rfl (.inr rfl)) _

/-- The eviction of a foreign entry makes room in the pool. -/
theorem evictEntry_foreign_lt {s : State} (h : TableOk s) {v : Entry} (mem : v ∈ s.foreign) :
    (evictEntry v s).foreign.length < 560 := by
  obtain ⟨rising, _, pool⟩ := h
  obtain ⟨held, foreign⟩ := List.mem_filter.mp mem
  have count := countP_dropEntry (fun e => !s.ownEntry e) rising held
  have dropped : (evictEntry v s).foreign.length = (dropEntry v.addr s.entries).countP fun e => !s.ownEntry e := by
    rw [foreign_length, evictEntry_entries]
    simp only [State.ownEntry, evictEntry_own]
    rfl
  rw [foreign_length] at pool
  rw [one, if_pos foreign] at count
  omega

theorem pictureOk_presentRecord {s : State} (h : PictureOk s) (x : Nat) {r : Record} (index : r.index ≤ 79)
    (absent : s.entryAt ⟨x, r.index⟩ = none) : PictureOk (presentRecord x r s) := by
  unfold presentRecord
  split
  · exact h
  · split
    case isTrue free =>
      refine pictureOk_placeEntry h absent index (.inr ?_)
      have room : 0 < 560 - s.foreign.length := free
      omega
    case isFalse =>
      split
      case _ v chosen =>
        have foreign := victim_mem_foreign chosen
        split
        · refine pictureOk_placeEntry (pictureOk_evictEntry h (mem_foreign.mp foreign).1) ?_ index
            (.inr (evictEntry_foreign_lt h.1 foreign))
          have gone : (evictEntry v s).entryAt ⟨x, r.index⟩ = (s.dropEntry v.addr).entryAt ⟨x, r.index⟩ :=
            congrArg (List.find? _) (evictEntry_entries v s)
          refine gone.trans ?_
          rw [entryAt_dropEntry, absent, ite_self]
        · exact pictureOk_noteLoss h x
      case _ => exact pictureOk_noteLoss h x

theorem pictureOk_applyRecord {s : State} (h : PictureOk s) (x : Nat) {r : Record} (index : r.index ≤ 79) :
    PictureOk (applyRecord x r s) := by
  unfold applyRecord
  split
  case _ e held _ => exact pictureOk_applyLevel h (entryAt_addr held) r
  case _ => exact h
  case _ _ e held _ => exact pictureOk_rewriteEntry h (entryAt_addr held) rfl
  case _ _ absent _ => exact pictureOk_presentRecord h x index absent

theorem pictureOk_writeLevel {s : State} (h : PictureOk s) (i v : Nat) : PictureOk (writeLevel i v s) := by
  unfold writeLevel
  split
  case _ e held =>
    exact pictureOk_told_same h (new := { e with datum := .level v, learned := s.now }) (entryAt_addr held) rfl rfl
      (.inl rfl)
  case _ => exact h

/-! ## The entry to RUNNING -/

theorem newIncident_counts {s : State} {n : Nat} (h : s.incident.Counts n) : s.newIncident.Counts n := by
  unfold State.newIncident
  split <;> exact h

theorem pictureOk_rewriteSupplyPlace {s : State} (h : PictureOk s) : PictureOk (rewriteSupplyPlace s) := by
  unfold rewriteSupplyPlace
  split
  case _ e held =>
    exact pictureOk_putEntry h (new := { e with loc := (s.scanner.config 0).loc, place := (s.scanner.config 0).place })
      (entryAt_addr held) rfl rfl
  case _ => exact h

theorem pictureOk_storeClosed : StoreClosed PictureOk where
  pending _ h := h
  control h _ _ straps := pictureOk_of_eq h rfl (congrArg (fun c => c.station.toNat) straps) rfl
  due _ h := h
  timers {s} h := by
    obtain ⟨table, count, active, hold⟩ := h
    refine ⟨tableOk_of_eq table rfl rfl, count, active, fun k => hold ?_⟩
    exact (Option.isSome_map ..).symm.trans k
  incidentEnded h := ⟨h.1, h.2.1, rfl, fun k => Bool.noConfusion k⟩
  origin x f h := pictureOk_modOrigin h x f
  recovery _ h := h
  merge h _ := h
  riser h _ := h
  pub h _ := h
  crew h _ _ := h
  channel h _ := h
  scanner h _ := h
  store h _ := h
  bundle h _ := h
  enterRunning {s} h := by
    have start : PictureOk ((s.withControl { s.control with running := true }).withScanner
        { s.scanner with cfg := s.newScanConfig }) := h
    obtain ⟨table, counts⟩ := (pictureOk_iff _).mp (pictureOk_rewriteSupplyPlace start)
    obtain ⟨l, placed⟩ := rewriteSupplyPlace_entries
      ((s.withControl { s.control with running := true }).withScanner { s.scanner with cfg := s.newScanConfig })
    rw [placed] at table counts
    refine (pictureOk_iff _).mpr ?_
    simp only [enterRunning, withControl_scanner, placed]
    exact ⟨table, newIncident_counts counts⟩

theorem pictureOk_stepClosed : StepClosed PictureOk where
  toBlocksClosed := pictureOk_storeClosed.toBlocksClosed
  transferEvent b h := pictureOk_storeClosed.transferEvent h b
  sheetCarried ch n h _ := pictureOk_storeClosed.sheetCarried h ch n
  placeBundleMessage ch h fits := pictureOk_storeClosed.placeBundleMessage h ch fits
  abortForDetach ch h := pictureOk_storeClosed.abortForDetach h ch
  removeHeldOut := pictureOk_removeHeldOut
  unconfirmOrigin x h := pictureOk_unconfirmOrigin h x
  setSweep x b h := pictureOk_setSweep h x b
  sweepOrigin x h := pictureOk_sweepOrigin h x
  applyRecord x _ h index := pictureOk_applyRecord h x index
  placeOwn h absent own index := pictureOk_placeEntry h absent index (.inl own)
  rewrite h held same := pictureOk_rewriteEntry h held same
  writeLevel i v h := pictureOk_writeLevel h i v

/-! ## The resets (R47, R120) -/

theorem pictureOk_supplied {st : Straps} {tick : Nat} {table : PictureTable} {incident : IncidentMonitor}
    {pending : List Instr} (rising : Rising table.entries) (indices : ∀ e ∈ table.entries, e.addr.index ≤ 79)
    (pool : (table.entries.countP fun e => !(e.addr.station == st.station.toNat)) ≤ 560)
    (absent : ∀ e ∈ table.entries, e.addr ≠ ⟨st.station.toNat, 0⟩)
    (counts : incident.Counts (table.entries.countP Entry.inAlarm)) :
    PictureOk (.supplied st tick table incident pending) := by
  refine ⟨⟨rising_putEntry _ rising, fun e he => ?_, ?_⟩, ?_, counts.1⟩
  · rcases mem_putEntry_of he with rfl | he
    · exact Nat.zero_le _
    · exact indices e he
  · rw [foreign_length]
    refine le_of_eq_of_le (countP_putEntry_new _ absent) ?_
    have own : one (fun e => !(e.addr.station == st.station.toNat)) (.supplyFault st.station.toNat tick) = 0 := by
      simp [one, Entry.supplyFault]
    exact Nat.add_le_add pool (Nat.le_of_eq own)
  · rw [alarmsHeld_eq]
    have calm : one Entry.inAlarm (.supplyFault st.station.toNat tick) = 0 := rfl
    refine counts.2.trans (Eq.symm ?_)
    refine (countP_putEntry_new (e := .supplyFault st.station.toNat tick) _ absent).trans ?_
    rw [calm, Nat.add_zero]

theorem pictureOk_strapsStep {st : Straps} {tick : Nat} {table : PictureTable} {incident : IncidentMonitor}
    {pending : List Instr} (h : PictureOk (.supplied st tick table incident pending)) :
    PictureOk (strapsStep (.supplied st tick table incident pending)) := by
  by_cases valid : 1 ≤ st.station.toNat ∧ st.station.toNat ≤ 250
  · rw [(strapsStep_supplied _ _ _ _ _).1 valid]
    exact h
  · rw [(strapsStep_supplied _ _ _ _ _).2 valid]
    exact h

theorem pictureOk_coldStart (st : Straps) (s : State) : PictureOk (coldStart st s) := by
  rw [coldStart_eq]
  exact pictureOk_strapsStep (pictureOk_supplied trivial (by simp) (Nat.zero_le _) (by simp)
    ⟨⟨rfl, fun k => Bool.noConfusion k⟩, rfl⟩)

theorem oldestAlarm_isSome (l : List Entry) : (oldestAlarm l).isSome = decide (0 < l.countP Entry.inAlarm) := by
  rw [List.countP_eq_length_filter]
  cases chosen : oldestAlarm l with
  | none =>
    have empty := (firstBy_eq_none_iff _ _).mp chosen
    unfold Entry.inAlarm
    rw [empty]
    rfl
  | some e =>
    refine (decide_eq_true (List.length_pos_iff.mpr fun empty => ?_)).symm
    exact Option.some_ne_none e (chosen.symm.trans ((firstBy_eq_none_iff _ _).mpr empty))

theorem recomputed_counts (l : List Entry) :
    (IncidentMonitor.recomputed l).Counts (l.countP Entry.inAlarm) := by
  refine ⟨⟨?_, fun k => Bool.noConfusion k⟩, List.countP_eq_length_filter.symm⟩
  change decide (0 < (l.filter Entry.inAlarm).length) = ((oldestAlarm l).map IncidentOrigin.ofEntry).isSome
  rw [Option.isSome_map, oldestAlarm_isSome, List.countP_eq_length_filter]

theorem entryAfterRestart_addr (old : Nat) (e : Entry) : (entryAfterRestart old e).addr = e.addr := by
  unfold entryAfterRestart
  split <;> rfl

/-- A kept entry is a foreign one, before the restart as after it, or an own marker under the number it had. -/
theorem keptOverRestart_cases {old new : Nat} {e : Entry} (h : keptOverRestart old new e = true) :
    (e.addr.station ≠ old ∧ e.addr.station ≠ new) ∨
      (e.addr.station = old ∧ e.addr.station = new ∧ 64 ≤ e.addr.index) := by
  unfold keptOverRestart at h
  split at h
  case isTrue own =>
    obtain ⟨same, marker⟩ := of_decide_eq_true h
    exact .inr ⟨own, own.trans same, marker⟩
  case isFalse foreign => exact .inl ⟨foreign, by simpa using h⟩

theorem mem_entriesAfterRestart {old new : Nat} {l : List Entry} {e : Entry}
    (h : e ∈ entriesAfterRestart old new l) :
    ∃ x ∈ l, keptOverRestart old new x = true ∧ e.addr = x.addr := by
  obtain ⟨x, kept, rfl⟩ := List.mem_map.mp h
  obtain ⟨mem, keeps⟩ := List.mem_filter.mp kept
  exact ⟨x, mem, keeps, entryAfterRestart_addr old x⟩

/-- What is foreign after a restart was foreign before it. -/
theorem foreign_entriesAfterRestart_le (old new : Nat) (l : List Entry) :
    ((entriesAfterRestart old new l).countP fun e => !(e.addr.station == new)) ≤
      l.countP fun e => !(e.addr.station == old) := by
  unfold entriesAfterRestart
  rw [List.countP_map, List.countP_filter]
  refine List.countP_mono_left fun e _ k => ?_
  simp only [Function.comp, entryAfterRestart_addr, Bool.and_eq_true] at k
  obtain ⟨foreign, kept⟩ := k
  rcases keptOverRestart_cases kept with ⟨apart, _⟩ | ⟨_, own, _⟩
  · simpa using apart
  · exact absurd own (by simpa using foreign)

theorem pictureOk_warmRestart {s : State} (h : TableOk s) (st : Straps) : PictureOk (warmRestart st s) := by
  obtain ⟨rising, indices, pool⟩ := h
  rw [warmRestart_eq]
  refine pictureOk_strapsStep (pictureOk_supplied ?_ ?_ ?_ ?_ (recomputed_counts _))
  · exact rising_map _ (entryAfterRestart_addr _) (rising_filter _ rising)
  · intro e he
    obtain ⟨x, mem, _, addr⟩ := mem_entriesAfterRestart he
    exact addr ▸ indices x mem
  · rw [foreign_length] at pool
    exact Nat.le_trans (foreign_entriesAfterRestart_le _ _ _) pool
  · intro e he supply
    obtain ⟨x, _, kept, addr⟩ := mem_entriesAfterRestart he
    rw [addr] at supply
    rcases keptOverRestart_cases kept with ⟨_, foreign⟩ | ⟨_, _, marker⟩
    · exact foreign (congrArg Address.station supply)
    · rw [supply] at marker
      exact absurd marker (Nat.not_le.mpr (by simp))

/-- Settles O56: each operation on the entries tells a picture change that counts what it did to the entries in
ALARM, and a warm restart counts those it keeps. -/
theorem stepsKeepThePicture : Obligations.StepsKeepThePicture := fun _ _ h done =>
  pictureOk_stepClosed.step (fun st s _ => pictureOk_coldStart st s)
    (fun st _ k => pictureOk_warmRestart k.1 st) (fun k => by rw [assertReset_eq]; exact k) h done

end Sys2Proof.Machine
end

section
/-!
PROOFS. Origin records, marks and copies after a write, and the stations that pass a test: the facts that the
statements about checks and frames rest on.
-/
namespace Sys2Proof.Machine

/-! ## One member of a list changed -/

theorem getD_updAt {α : Type} (l : List α) (n m : Nat) (f : α → α) (d : α) (inside : n < l.length) :
    (updAt l n f).getD m d = if m = n then f (l.getD n d) else l.getD m d := by
  induction l generalizing n m with
  | nil => exact absurd inside (Nat.not_lt_zero n)
  | cons a l ih =>
    cases n with
    | zero => cases m <;> simp [updAt]
    | succ n =>
      cases m with
      | zero => simp [updAt]
      | succ m =>
        have rest := ih n m (Nat.lt_of_succ_lt_succ inside)
        simp only [updAt, List.getD_cons_succ, Nat.add_right_cancel_iff, rest]

theorem updAt_outside {α : Type} (l : List α) (n : Nat) (f : α → α) (outside : l.length ≤ n) : updAt l n f = l := by
  induction l generalizing n with
  | nil => rfl
  | cons a l ih =>
    cases n with
    | zero => exact absurd outside (Nat.not_succ_le_zero _)
    | succ n => rw [updAt, ih n (Nat.le_of_succ_le_succ outside)]

theorem getD_updAt_ne {α : Type} (l : List α) {n m : Nat} (f : α → α) (d : α) (apart : m ≠ n) :
    (updAt l n f).getD m d = l.getD m d := by
  by_cases inside : n < l.length
  · rw [getD_updAt l n m f d inside, if_neg apart]
  · rw [updAt_outside l n f (Nat.le_of_not_lt inside)]

/-! ## Origin records -/

theorem origin_congr {s t : State} (h : t.table.origins = s.table.origins) (x : Nat) : t.origin x = s.origin x := by
  rw [State.origin, State.origin, h]

theorem origin_modOrigin_same {s : State} {x : Nat} (low : 1 ≤ x) (high : x ≤ s.table.origins.length)
    (f : OriginRecord → OriginRecord) : (s.modOrigin x f).origin x = f (s.origin x) := by
  have some : ¬x = 0 := Nat.ne_of_gt low
  simp only [State.origin, modOrigin_eq, withTable_table, if_neg some]
  rw [getD_updAt _ _ _ _ _ (by omega), if_pos rfl]

theorem origin_modOrigin_ne {x y : Nat} (apart : y ≠ x) (s : State) (f : OriginRecord → OriginRecord) :
    (s.modOrigin x f).origin y = s.origin y := by
  simp only [State.origin, modOrigin_eq, withTable_table]
  by_cases none : x = 0
  · rw [if_pos none]
  · rw [if_neg none]
    by_cases zero : y = 0
    · rw [if_pos zero, if_pos zero]
    · rw [if_neg zero, if_neg zero, getD_updAt_ne _ _ _ (by omega)]

/-- A number without a record reads as never heard. -/
theorem origin_outside {s : State} {x : Nat} (outside : s.table.origins.length < x) : s.origin x = .cold := by
  rw [State.origin]
  split
  · rfl
  · exact List.getD_eq_default _ _ (by omega)

theorem modOrigin_origins_length (s : State) (x : Nat) (f : OriginRecord → OriginRecord) :
    (s.modOrigin x f).table.origins.length = s.table.origins.length := by
  simp only [modOrigin_eq, withTable_table]
  split
  · rfl
  · exact length_updAt _ _ _

theorem modOrigin_entryAt (s : State) (x : Nat) (f : OriginRecord → OriginRecord) (a : Address) :
    (s.modOrigin x f).entryAt a = s.entryAt a := by
  rw [State.entryAt, modOrigin_table_entries]
  rfl

/-- A record changed into what it is already. -/
theorem mem_numbersWhere {p : OriginRecord → Bool} {x : Nat} :
    ∀ {l : List OriginRecord} {n : Nat}, x ∈ numbersWhere p n l ↔
      n ≤ x ∧ x < n + l.length ∧ p (l.getD (x - n) .cold) = true := by
  intro l
  induction l with
  | nil => intro n; simp [numbersWhere]; omega
  | cons o l ih =>
    intro n
    have later : x ∈ numbersWhere p (n + 1) l ↔ n + 1 ≤ x ∧ x < n + (o :: l).length ∧
        p ((o :: l).getD (x - n) .cold) = true := by
      rw [ih]
      by_cases after : n + 1 ≤ x
      · obtain ⟨k, rfl⟩ := Nat.exists_eq_add_of_le after
        have e : n + 1 + k - n = k + 1 := by omega
        have e' : n + 1 + k - (n + 1) = k := by omega
        rw [e, e', List.getD_cons_succ, List.length_cons]
        constructor
        · rintro ⟨h, k, m⟩; exact ⟨h, by omega, m⟩
        · rintro ⟨h, k, m⟩; exact ⟨h, by omega, m⟩
      · constructor
        · rintro ⟨h, _⟩; exact absurd h after
        · rintro ⟨h, _⟩; exact absurd h after
    by_cases same : x = n
    · subst same
      have notLater : x ∉ numbersWhere p (x + 1) l := fun k => absurd (later.mp k).1 (by omega)
      unfold numbersWhere
      by_cases is : p o = true
      · simp [is]
      · simp [is, notLater]
    · unfold numbersWhere
      have bounds : n + 1 ≤ x ↔ n ≤ x := by omega
      split
      · rw [List.mem_cons, later, bounds]
        exact or_iff_right same
      · rw [later, bounds]

theorem mem_stationsWhere {s : State} {p : OriginRecord → Bool} {x : Nat} : x ∈ s.stationsWhere p ↔
    1 ≤ x ∧ x ≤ s.table.origins.length ∧ p (s.origin x) = true := by
  rw [State.stationsWhere, mem_numbersWhere, State.origin]
  by_cases zero : x = 0
  · subst zero
    simp
  · rw [if_neg zero]
    have bound : x < 1 + s.table.origins.length ↔ x ≤ s.table.origins.length := by omega
    rw [bound]

/-- The stations that pass a test stand in rising number. -/
theorem stationsWhere_sorted (s : State) (p : OriginRecord → Bool) : (s.stationsWhere p).Pairwise (· < ·) := by
  have rising (l : List OriginRecord) : ∀ n, (numbersWhere p n l).Pairwise (· < ·) := by
    induction l with
    | nil => exact fun _ => List.Pairwise.nil
    | cons o l ih =>
      intro n
      unfold numbersWhere
      split
      · exact List.Pairwise.cons (fun y hy => (mem_numbersWhere.mp hy).1) (ih (n + 1))
      · exact ih (n + 1)
  exact rising _ _

/-- The first station that passes a test is one that passes with none below it. -/
theorem stationsWhere_eq_cons {s : State} {p : OriginRecord → Bool} {x : Nat} (mem : x ∈ s.stationsWhere p)
    (least : ∀ y ∈ s.stationsWhere p, x ≤ y) : ∃ l, s.stationsWhere p = x :: l := by
  have sorted := stationsWhere_sorted s p
  cases list : s.stationsWhere p with
  | nil => rw [list] at mem; cases mem
  | cons y l =>
    rw [list] at mem sorted least
    rcases List.mem_cons.mp mem with rfl | later
    · exact ⟨l, rfl⟩
    · have after := (List.pairwise_cons.mp sorted).1 x later
      have first := least y List.mem_cons_self
      omega

/-! ## Marks and clearing copies -/

theorem mem_setMark {i k : Nat} {l : List Nat} : k ∈ setMark i l ↔ k = i ∨ k ∈ l := by
  induction l with
  | nil => simp [setMark]
  | cons x l ih =>
    unfold setMark
    split
    case isTrue same => subst same; simp
    case isFalse =>
      split
      · simp
      · simp only [List.mem_cons, ih]
        exact or_left_comm

theorem mem_clearMark {i k : Nat} {l : List Nat} : k ∈ clearMark i l ↔ k ∈ l ∧ k ≠ i := by
  simp [clearMark]

theorem copyAt_setCopy_same {s : State} {i : Nat} (low : 64 ≤ i) (high : i - 64 < s.pub.copies.length)
    (c : Option ClearingCopy) : (s.setCopy i c).pub.copyAt i = c := by
  rw [Publisher.copyAt, if_neg (Nat.not_lt.mpr low)]
  change (updAt s.pub.copies (i - 64) fun _ => c).getD (i - 64) none = c
  rw [getD_updAt _ _ _ _ _ high, if_pos rfl]

theorem copyAt_setCopy_ne {s : State} {i k : Nat} (low : 64 ≤ i) (apart : k ≠ i) (c : Option ClearingCopy) :
    (s.setCopy i c).pub.copyAt k = s.pub.copyAt k := by
  rw [Publisher.copyAt, Publisher.copyAt]
  split
  · rfl
  · exact getD_updAt_ne _ _ _ (by omega)

end Sys2Proof.Machine
end

section
/-!
PROOFS. The checks that a tick makes due (R26, R38, R67, R68, R82, R94, R106, R114, R153): O8 to O12.
-/
namespace Sys2Proof.Machine

/-! ## The recovery check (R38) -/

theorem recoverable_iff (o : OriginRecord) : o.recoverable = true ↔
    o.overflow = true ∧ o.status ≠ .silent ∧ o.status ≠ .unknown := by
  simp [OriginRecord.recoverable, and_assoc]

theorem want_eq (r : Resync) : r.want = if r = .none then .wanted else r := by
  cases r <;> rfl

theorem startRecovery_of_first {s : State} (empty : s.table.recovery = none) (room : 64 ≤ s.freeCount) {x : Nat}
    {l : List Nat} (first : s.stationsWhere OriginRecord.recoverable = x :: l) :
    startRecovery s = wantSeries x (s.withTable { s.table with recovery := some ⟨x, false⟩ }) := by
  have may : (s.table.recovery.isNone && decide (Config.recoveryRoom ≤ s.freeCount)) = true := by
    rw [empty]
    exact decide_eq_true room
  rw [startRecovery, if_pos may, first]

theorem startRecovery_of_not {s : State} (h : s.table.recovery ≠ none ∨ s.freeCount < 64 ∨
    s.stationsWhere OriginRecord.recoverable = []) : startRecovery s = s := by
  unfold startRecovery
  split
  case isTrue may =>
    obtain ⟨empty, room⟩ := Bool.and_eq_true_iff.mp may
    rcases h with held | small | none
    · exact absurd (Option.isNone_iff_eq_none.mp empty) held
    · exact absurd (of_decide_eq_true room) (Nat.not_le.mpr small)
    · rw [none]
  case isFalse => rfl

/-- Settles O9: the first station of the list that may be recovered enters the slot. -/
theorem recoveryStartTakesTheLowestOrigin : Obligations.RecoveryStartTakesTheLowestOrigin := by
  intro s free due
  have seen : exec .recoveryStart s = .next (startRecovery (s.withDue { s.due with recovery := false })) := by
    change Host.Outcome.next (internal takeRecovery s) = _
    rw [internal_free free, takeRecovery, if_pos due]
  refine ⟨fun x empty room low high flag heard known none => ?_, fun idle => ?_⟩
  · have mem : x ∈ s.stationsWhere OriginRecord.recoverable :=
      mem_stationsWhere.mpr ⟨low, high, (recoverable_iff _).mpr ⟨flag, heard, known⟩⟩
    obtain ⟨l, first⟩ := stationsWhere_eq_cons mem fun y hy => by
      obtain ⟨some, _, may⟩ := mem_stationsWhere.mp hy
      by_contra below
      exact none y some (Nat.not_le.mp below) ((recoverable_iff _).mp may)
    refine ⟨_, seen.trans (congrArg _ (startRecovery_of_first
      (s := s.withDue { s.due with recovery := false }) empty room first)), ?_, ?_, fun y apart => ?_, ?_⟩
    · rw [wantSeries, modOrigin_table_recovery]
      rfl
    · refine (congrArg OriginRecord.resync (origin_modOrigin_same low ?_ _)).trans (want_eq _)
      exact high
    · exact origin_modOrigin_ne apart _ _
    · exact modOrigin_table_entries _ _ _
  · refine ⟨_, seen, ?_⟩
    rw [startRecovery_of_not ?_]
    · rfl
    · refine idle.imp_right (Or.imp_right fun none => ?_)
      refine List.eq_nil_iff_forall_not_mem.mpr fun x hx => ?_
      obtain ⟨low, high, may⟩ := mem_stationsWhere.mp hx
      exact none x low high ((recoverable_iff _).mp may)

/-! ## Conditions -/

theorem Condition.bit_lt (c : Condition) : c.bit < 8 := by cases c <;> decide

theorem Condition.bit_inj {c d : Condition} : c.bit = d.bit ↔ c = d := by
  cases c <;> cases d <;> decide

theorem hasCondition_setCondition (s : State) (c : Condition) : (s.setCondition c).hasCondition c = true := by
  unfold State.setCondition
  split
  case isTrue held => exact held
  case isFalse =>
    rw [State.hasCondition, (raiseAll_told _ _).control]
    change (setBit s.control.conditions c.bit).getLsbD c.bit = true
    unfold setBit
    have inside := c.bit_lt
    simp [inside]

/-! ## The expiries that move one value -/

theorem stuckEvent_attached {s : State} (clear : s.hasCondition .line = false) {ch : Fin 4}
    (attached : s.isAttached ch = true) :
    NoticeSet.has ((stuckEvent s).channel ch).notices .stationFault = true := by
  have clear' : ¬(s.withRiser { s.riser with stuckCount := sat16 s.riser.stuckCount }).hasCondition .line = true := by
    rw [Bool.not_eq_true]
    exact clear
  rw [stuckEvent, State.setCondition, if_neg clear', has_raiseAll]
  have still : (State.isAttached ((s.withRiser { s.riser with stuckCount := sat16 s.riser.stuckCount }).withControl
      { s.control with conditions := setBit s.control.conditions Condition.line.bit }) ch) = true := attached
  change (_ || (_ && decide (Notice.stationFault = Notice.stationFault))) = true
  rw [decide_eq_true rfl, Bool.and_true]
  exact Bool.or_eq_true_iff.mpr (.inr still)

/-- Settles O11: each of the four expiries is one write, and STATION_FAULT comes where LINE was clear. -/
theorem timerExpiriesTakeEffect : Obligations.TimerExpiriesTakeEffect := by
  refine ⟨fun x s free low high ended => ?_, fun s free running zero => ?_, fun n s free due hold past => ?_,
    fun s free due => ?_⟩
  · have expired : expireAwait x s = s.modOrigin x fun o => { o with resync := .wanted } :=
      if_pos (by rw [OriginRecord.awaitOver, ended]; rfl)
    have told : exec (.awaitTimerExpiry x) s = .next (s.modOrigin x fun o => { o with resync := .wanted }) := by
      change Host.Outcome.next (internal (expireAwait x) s) = _
      rw [internal_free free, expired]
    exact ⟨_, told, origin_modOrigin_same low high _, fun y apart => origin_modOrigin_ne apart _ _,
      modOrigin_table_entries _ _ _, modOrigin_table_recovery _ _ _, modOrigin_crew _ _ _⟩
  · change Host.Outcome.next (internal takeSummary s) = _
    rw [internal_free free, takeSummary]
    split
    · rfl
    case isFalse not =>
      have already : s.pub.summaryDue = true := by
        simpa [State.summaryOver, running, zero] using not
      rw [← already]
  · change Host.Outcome.next (internal takeIncidentHold s) = _
    have passed : s.incident.holdOver = true := by
      rw [IncidentMonitor.holdOver, hold]
      exact decide_eq_true past
    rw [internal_free free, takeIncidentHold, if_pos due]
    exact congrArg _ (if_pos passed)
  · have told : exec .stuckEvent s = .next (stuckEvent (s.withDue { s.due with stuck := false })) := by
      change Host.Outcome.next (internal takeStuck s) = _
      rw [internal_free free, takeStuck, if_pos due]
    have line := setCondition_told ((s.withDue { s.due with stuck := false }).withRiser
      { s.riser with stuckCount := sat16 s.riser.stuckCount }) .line
    refine ⟨_, told, hasCondition_setCondition _ _, ?_, congrArg TickDue.stuck line.due, line.table, line.pub, ?_,
      fun clear ch attached => stuckEvent_attached (s := s.withDue { s.due with stuck := false }) clear attached,
      fun held => ?_⟩
    · refine line.riser.trans ?_
      simp only [sat16, satSucc_eq_min]
      rfl
    · unfold stuckEvent State.setCondition
      split
      · rfl
      · exact raiseAll_incident _ _
    · unfold stuckEvent State.setCondition
      exact (congrArg State.crew (if_pos held)).trans rfl

/-! ## The loss of the link (R153) -/

theorem abortForDetach_crew (ch : Fin 4) (s : State) : (abortForDetach ch s).crew = s.crew := by
  unfold abortForDetach
  split <;> rfl

theorem abortForDetach_state (ch : Fin 4) (s : State) : ((abortForDetach ch s).bundle ch).state = .idle := by
  unfold abortForDetach
  split
  case isTrue idle => exact idle
  case isFalse => simp

theorem abortForDetach_bundle_ne {ch d : Fin 4} (apart : d ≠ ch) (s : State) :
    (abortForDetach ch s).bundle d = s.bundle d := by
  unfold abortForDetach
  split
  · rfl
  · simp only [bundle_setBundle, if_neg apart, cancelReads]
    exact (bundle_setBundle _ _ _ _).trans (if_neg apart)

/-- What a detach leaves of the part besides its channel and the plan store reads of its bundle. -/
structure DetachFrame (s t : State) : Prop where
  control : t.control = s.control
  scanner : t.scanner = s.scanner
  table : t.table = s.table
  merge : t.merge = s.merge
  riser : t.riser = s.riser
  pub : t.pub = s.pub
  incident : t.incident = s.incident
  due : t.due = s.due
  crew : ∃ l, t.crew = { s.crew with channels := l }

theorem detachChannel_frame (ch : Fin 4) (s : State) : DetachFrame s (detachChannel ch s) := by
  unfold detachChannel abortForDetach
  dsimp only
  split <;> exact ⟨rfl, rfl, rfl, rfl, rfl, rfl, rfl, rfl, _, rfl⟩

theorem DetachFrame.trans {s t u : State} (h : DetachFrame s t) (k : DetachFrame t u) : DetachFrame s u := by
  obtain ⟨l, crew⟩ := k.crew
  obtain ⟨_, before⟩ := h.crew
  refine ⟨k.control.trans h.control, k.scanner.trans h.scanner, k.table.trans h.table, k.merge.trans h.merge,
    k.riser.trans h.riser, k.pub.trans h.pub, k.incident.trans h.incident, k.due.trans h.due, l, ?_⟩
  rw [crew, before]

theorem detachChannel_same (ch : Fin 4) (s : State) :
    (detachChannel ch s).channel ch = Channel.reset ∧ ((detachChannel ch s).bundle ch).state = .idle :=
  ⟨channel_setChannel_same _ _ _, abortForDetach_state ch s⟩

theorem detachChannel_ne {ch d : Fin 4} (apart : d ≠ ch) (s : State) :
    (detachChannel ch s).channel d = s.channel d ∧ (detachChannel ch s).bundle d = s.bundle d := by
  refine ⟨(channel_setChannel_ne _ _ apart).trans ?_, abortForDetach_bundle_ne apart s⟩
  rw [State.channel, abortForDetach_crew]
  rfl

/-- An operation on each channel establishes on every channel what it establishes on its own and leaves of the
others. -/
theorem eachChannel_all {Q : Fin 4 → State → Prop} {f : Fin 4 → State → State} (own : ∀ ch s, Q ch (f ch s))
    (others : ∀ ch d s, d ≠ ch → Q d s → Q d (f ch s)) (s : State) (ch : Fin 4) : Q ch (eachChannel f s) := by
  unfold eachChannel
  fin_cases ch
  · exact others 3 0 _ (by decide) (others 2 0 _ (by decide) (others 1 0 _ (by decide) (own 0 _)))
  · exact others 3 1 _ (by decide) (others 2 1 _ (by decide) (own 1 _))
  · exact others 3 2 _ (by decide) (own 2 _)
  · exact own 3 _

/-- Settles O12: each channel is detached in turn, and a detach leaves the rest of the part. -/
theorem linkLossFreesEveryChannel : Obligations.LinkLossFreesEveryChannel := by
  intro s free due
  have told : exec .linkLoss s = .next (linkLost (s.withDue { s.due with linkLoss := false })) := by
    change Host.Outcome.next (internal takeLinkLoss s) = _
    rw [internal_free free, takeLinkLoss, if_pos due]
  have frame : DetachFrame (s.withDue { s.due with linkLoss := false })
      (linkLost (s.withDue { s.due with linkLoss := false })) :=
    eachChannel_keeps (P := DetachFrame _) (fun ch t h => h.trans (detachChannel_frame ch t)) _
      ⟨rfl, rfl, rfl, rfl, rfl, rfl, rfl, rfl, _, rfl⟩
  obtain ⟨l, crew⟩ := frame.crew
  refine ⟨_, told, congrArg TickDue.linkLoss frame.due, eachChannel_all
      (Q := fun ch t => t.channel ch = Channel.reset ∧ (t.bundle ch).state = .idle) detachChannel_same
    (fun ch d t apart k => ?_) _, ?_, ?_, frame.table, frame.scanner, frame.pub, frame.incident, frame.riser,
    frame.merge, frame.control⟩
  · obtain ⟨channel, bundle⟩ := detachChannel_ne apart t
    exact ⟨channel.trans k.1, (congrArg Bundle.state bundle).trans k.2⟩
  · rw [crew]
    rfl
  · rw [crew]
    rfl

end Sys2Proof.Machine
end

section
/-!
PROOFS. The holds that run out and the origins that fall silent (R26, R67, R68): O8 and O10.
-/
namespace Sys2Proof.Machine

/-! ## Removal by hold -/

theorem holdMet_iff (s : State) (e : Entry) : holdMet s e = true ↔
    e.state = .cleared ∧ s.table.clearHold ≤ s.now - e.localSince := by
  simp [holdMet]

theorem holdMet_eq (s : State) : holdMet s = fun e =>
    decide (e.state = .cleared ∧ s.table.clearHold ≤ s.now - e.localSince) := by
  funext e
  rw [Bool.eq_iff_iff, holdMet_iff, decide_eq_true_iff]

theorem removeByHold_pub (e : Entry) (s : State) :
    (removeByHold e s).pub = if s.ownEntry e = true ∧ 64 ≤ e.addr.index then
      (s.setCopy e.addr.index (some ⟨e.datum.value, e.place, e.loc⟩)).pub else s.pub := by
  refine (emit_pub _ _).trans ?_
  unfold handCopy
  by_cases own : s.ownEntry e = true ∧ 64 ≤ e.addr.index
  · have own' : (((s.dropEntry e.addr).ownEntry e) && decide (64 ≤ e.addr.index)) = true :=
      Bool.and_eq_true_iff.mpr ⟨own.1, decide_eq_true own.2⟩
    rw [if_pos own', if_pos own]
    rfl
  · have foreign : ¬(((s.dropEntry e.addr).ownEntry e) && decide (64 ≤ e.addr.index)) = true := fun k => by
      obtain ⟨a, b⟩ := Bool.and_eq_true_iff.mp k
      exact own ⟨a, of_decide_eq_true b⟩
    rw [if_neg foreign, if_neg own]
    rfl

/-- What a removal leaves of the part besides the entries, the followers and the clearing copies. -/
structure RemovalFrame (s t : State) : Prop where
  origins : t.table.origins = s.table.origins
  recovery : t.table.recovery = s.table.recovery
  control : t.control = s.control
  scanner : t.scanner = s.scanner
  merge : t.merge = s.merge
  riser : t.riser = s.riser
  store : t.store = s.store
  due : t.due = s.due
  change : t.pub.change = s.pub.change
  level : t.pub.level = s.pub.level
  copies : t.pub.copies.length = s.pub.copies.length

theorem RemovalFrame.refl (s : State) : RemovalFrame s s := ⟨rfl, rfl, rfl, rfl, rfl, rfl, rfl, rfl, rfl, rfl, rfl⟩

theorem RemovalFrame.trans {s t u : State} (h : RemovalFrame s t) (k : RemovalFrame t u) : RemovalFrame s u :=
  ⟨k.origins.trans h.origins, k.recovery.trans h.recovery, k.control.trans h.control, k.scanner.trans h.scanner,
    k.merge.trans h.merge, k.riser.trans h.riser, k.store.trans h.store, k.due.trans h.due,
    k.change.trans h.change, k.level.trans h.level, k.copies.trans h.copies⟩

theorem removeByHold_frame (e : Entry) (s : State) : RemovalFrame s (removeByHold e s) := by
  have told := emit_told (plainChange .remove e) (handCopy e (s.dropEntry e.addr))
  have copied : RemovalFrame s (handCopy e (s.dropEntry e.addr)) := by
    unfold handCopy
    split
    · exact ⟨rfl, rfl, rfl, rfl, rfl, rfl, rfl, rfl, rfl, rfl, length_updAt _ _ _⟩
    · exact ⟨rfl, rfl, rfl, rfl, rfl, rfl, rfl, rfl, rfl, rfl, rfl⟩
  exact copied.trans ⟨congrArg _ told.table, congrArg _ told.table, told.control, told.scanner, told.merge, told.riser,
    told.store, told.due, congrArg _ told.pub, congrArg _ told.pub,
    congrArg (fun p : Publisher => p.copies.length) told.pub⟩

/-- The entries of a list removed one after the other. -/
def removeAll (l : List Entry) (s : State) : State := l.foldl (fun t e => removeByHold e t) s

theorem removeHeldOut_eq (s : State) : removeHeldOut s = removeAll (s.entries.filter (holdMet s)) s := rfl

theorem removeAll_frame (l : List Entry) (s : State) : RemovalFrame s (removeAll l s) :=
  foldl_keeps (P := RemovalFrame s) (fun t e h => h.trans (removeByHold_frame e t)) l s (.refl s)

theorem removeAll_entryAt (l : List Entry) (s : State) (a : Address) :
    (removeAll l s).entryAt a = if a ∈ l.map Entry.addr then none else s.entryAt a := by
  induction l generalizing s with
  | nil => simp [removeAll]
  | cons e l ih =>
    have first : (removeByHold e s).entryAt a = if a = e.addr then none else s.entryAt a := by
      rw [← entryAt_dropEntry]
      exact congrArg (List.find? _) (removeByHold_entries e s)
    refine (ih (removeByHold e s)).trans ?_
    rw [first, List.map_cons]
    by_cases later : a ∈ l.map Entry.addr
    · rw [if_pos later, if_pos (List.mem_cons_of_mem _ later)]
    · by_cases same : a = e.addr
      · rw [if_neg later, if_pos same, if_pos (same ▸ List.mem_cons_self)]
      · rw [if_neg later, if_neg same, if_neg fun k => (List.mem_cons.mp k).elim same later]

theorem removeByHold_following {s t : State} (h : Following s t) (e : Entry) :
    Following (emit ⟨.remove, e, none, none⟩ (s.dropEntry e.addr)) (removeByHold e t) := by
  refine Following.emit ⟨?_, ?_, ?_, ?_, ?_⟩ (plainChange .remove e)
  · unfold handCopy; split <;> exact h.crew
  · unfold handCopy; split <;> exact h.bundles
  · exact (handCopy_incident _ _).trans h.incident
  · refine (handCopy_entries _ _).trans ?_
    exact congrArg (Machine.dropEntry e.addr) h.entries
  · unfold handCopy; split <;> exact h.tick

theorem removeAll_following (l : List Entry) {s t : State} (h : Following s t) :
    Following (l.foldl (fun u e => emit ⟨.remove, e, none, none⟩ (u.dropEntry e.addr)) s) (removeAll l t) := by
  induction l generalizing s t with
  | nil => exact h
  | cons e l ih => exact ih (removeByHold_following h e)

/-- The copy of a slot stands, as does its mark of the frame in the slot, where no own entry of it is removed. -/
theorem removeAll_copyAt_other {l : List Entry} {s : State} {i : Nat}
    (other : ∀ e ∈ l, s.ownEntry e = true → e.addr.index ≠ i) :
    (removeAll l s).pub.copyAt i = s.pub.copyAt i ∧
      (i ∈ (removeAll l s).pub.copiesInFlight ↔ i ∈ s.pub.copiesInFlight) := by
  refine (StepClosed.foldl_keeps_mem (Q := fun t : State => t.own = s.own ∧ t.pub.copyAt i = s.pub.copyAt i ∧
    (i ∈ t.pub.copiesInFlight ↔ i ∈ s.pub.copiesInFlight)) l (fun t e mem k => ?_) s ⟨rfl, rfl, Iff.rfl⟩).2
  obtain ⟨own, copy, flight⟩ := k
  refine ⟨(congrArg (fun c : StationControl => c.straps.station.toNat) (removeByHold_frame e t).control).trans own, ?_⟩
  rw [removeByHold_pub]
  split
  case isFalse => exact ⟨copy, flight⟩
  case isTrue marker =>
    have apart : i ≠ e.addr.index := fun k => by
      refine other e mem ?_ k.symm
      rw [State.ownEntry, ← own]
      exact marker.1
    rw [copyAt_setCopy_ne marker.2 apart]
    exact ⟨copy, (mem_clearMark.trans (and_iff_left apart)).trans flight⟩

/-- The copy of an own marker removed is of that marker, and of no frame in the slot. -/
theorem removeAll_copyAt_own {l : List Entry} (r : Rising l) {s : State} {e : Entry} (mem : e ∈ l)
    (own : s.ownEntry e = true) (low : 64 ≤ e.addr.index) (high : e.addr.index - 64 < s.pub.copies.length) :
    (removeAll l s).pub.copyAt e.addr.index = some ⟨e.datum.value, e.place, e.loc⟩ ∧
      e.addr.index ∉ (removeAll l s).pub.copiesInFlight := by
  induction l generalizing s with
  | nil => cases mem
  | cons x l ih =>
    obtain ⟨after, rest⟩ := r
    have frame := removeByHold_frame x s
    have sameOwn (y : Entry) : (removeByHold x s).ownEntry y = s.ownEntry y := by
      simp only [State.ownEntry, State.own, frame.control]
    rcases List.mem_cons.mp mem with rfl | later
    · have others : ∀ y ∈ l, (removeByHold e s).ownEntry y = true → y.addr.index ≠ e.addr.index := by
        intro y hy foreign same
        rw [sameOwn] at foreign
        have station : y.addr.station = e.addr.station := by
          simp only [State.ownEntry, beq_iff_eq] at own foreign
          exact foreign.trans own.symm
        exact before_ne (after y hy) (congrArg₂ Address.mk station same).symm
      obtain ⟨copy, flight⟩ := removeAll_copyAt_other others
      rw [removeByHold_pub, if_pos ⟨own, low⟩] at copy flight
      exact ⟨copy.trans (copyAt_setCopy_same low high _), fun k => (mem_clearMark.mp (flight.mp k)).2 rfl⟩
    · exact ih rest later ((sameOwn e).trans own) (frame.copies ▸ high)

/-- Settles O8: the removal walks the entries held out in rising address, and each one takes its entry out, hands its
copy over and tells of it. -/
theorem holdExpiryRemovesWhatIsHeldOut : Obligations.HoldExpiryRemovesWhatIsHeldOut := by
  intro s free due table
  obtain ⟨rising, indices, _⟩ := table
  let seen := s.withDue { s.due with hold := false }
  have told : exec .holdExpiry s = .next (removeAll (s.entries.filter (holdMet s)) seen) := by
    change Host.Outcome.next (internal takeHolds s) = _
    rw [internal_free free, takeHolds, if_pos due]
    rfl
  have frame := removeAll_frame (s.entries.filter (holdMet s)) seen
  refine ⟨_, told, congrArg TickDue.hold frame.due, fun a => ?_, ?_, fun i e low length held cleared past => ?_,
    fun i stands => ?_, frame.origins, frame.recovery, frame.scanner, frame.merge, frame.riser, frame.store,
    frame.control, frame.change, frame.level⟩
  · rw [removeAll_entryAt]
    have seenAt : seen.entryAt a = s.entryAt a := rfl
    rw [seenAt]
    cases held : s.entryAt a with
    | none => rw [ite_self]; rfl
    | some e =>
      have addr := addr_of_entryAt held
      have gone : a ∈ (s.entries.filter (holdMet s)).map Entry.addr ↔ holdMet s e = true := by
        constructor
        · intro k
          obtain ⟨y, hy, same⟩ := List.mem_map.mp k
          obtain ⟨mem, met⟩ := List.mem_filter.mp hy
          rwa [rising_unique rising (mem_of_entryAt held) mem (addr.trans same.symm)]
        · exact fun met => List.mem_map.mpr ⟨e, List.mem_filter.mpr ⟨mem_of_entryAt held, met⟩, addr⟩
      rw [holdMet_iff] at gone
      by_cases met : e.state = .cleared ∧ s.table.clearHold ≤ s.now - e.localSince
      · rw [if_pos (gone.mpr met)]
        simp [Option.filter, met]
      · rw [if_neg fun k => met (gone.mp k)]
        simp [Option.filter, met]
  · rw [← holdMet_eq]
    exact (removeAll_following _ (s := s) (t := seen) ⟨rfl, rfl, rfl, rfl, rfl⟩).same
  · have addr := addr_of_entryAt held
    have mem := mem_of_entryAt held
    have index : e.addr.index = i := congrArg Address.index addr
    have inside : e.addr.index ≤ 79 := indices e mem
    subst index
    refine removeAll_copyAt_own (rising_filter _ rising) (s := seen)
      (List.mem_filter.mpr ⟨mem, (holdMet_iff s e).mpr ⟨cleared, past⟩⟩) ?_ low ?_
    · exact beq_iff_eq.mpr (congrArg Address.station addr)
    · change e.addr.index - 64 < s.pub.copies.length
      omega
  · refine removeAll_copyAt_other (s := seen) fun e hm own index => ?_
    obtain ⟨mem, met⟩ := List.mem_filter.mp hm
    obtain ⟨cleared, past⟩ := (holdMet_iff s e).mp met
    have station : e.addr.station = s.own := eq_of_beq own
    have held : s.ownAt i = some e := by
      rw [State.ownAt, ← station, ← index]
      exact entryAt_of_mem rising mem
    exact absurd (stands e held cleared) (Nat.not_lt.mpr past)

/-! ## The routing of a change sees no entry -/

theorem queueUpdate_setEntries (pc : PictureChange) (f : Option Nat) (ch : Fin 4) (s : State) (l : List Entry) :
    queueUpdate pc f ch (s.setEntries l) = (queueUpdate pc f ch s).setEntries l := by
  unfold queueUpdate
  rw [apply_ite (fun t : State => t.setEntries l)]
  rfl

theorem offerLate_setEntries (a : Address) (ch : Fin 4) (s : State) (l : List Entry) :
    offerLate a ch (s.setEntries l) = (offerLate a ch s).setEntries l := by
  unfold offerLate
  dsimp only
  rw [apply_ite (fun t : State => t.setEntries l), apply_ite (fun t : State => t.setEntries l)]
  rfl

theorem routeOn_setEntries (pc : PictureChange) (ch : Fin 4) (s : State) (l : List Entry) :
    routeOn pc ch (s.setEntries l) = (routeOn pc ch s).setEntries l := by
  have channel : (s.setEntries l).channel ch = s.channel ch := rfl
  have bundle : (s.setEntries l).bundle ch = s.bundle ch := rfl
  unfold routeOn
  dsimp only
  rw [channel, bundle, setEntries_crew]
  split
  · rfl
  · simp only [queueUpdate_setEntries, offerLate_setEntries, apply_ite (fun t : State => t.setEntries l)]

theorem routeChange_setEntries (pc : PictureChange) (s : State) (l : List Entry) :
    routeChange pc (s.setEntries l) = (routeChange pc s).setEntries l := by
  simp only [routeChange, eachChannel, routeOn_setEntries]

/-! ## The notices of a change -/

theorem has_raise_other {n m : Notice} (other : n ≠ m) (s : State) (ch d : Fin 4) :
    NoticeSet.has ((s.raise n ch).channel d).notices m = NoticeSet.has (s.channel d).notices m := by
  rw [State.raise, channel_setChannel]
  split
  case isTrue same => rw [Channel.has_raise, decide_eq_false other, Bool.and_false, Bool.or_false, same]
  case isFalse => rfl

theorem notices_enqueue (s : State) (ch d : Fin 4) (m : Message) :
    ((s.enqueue ch m).channel d).notices = (s.channel d).notices := by
  rw [State.enqueue, channel_setChannel]
  split
  case isTrue same => rw [same]; rfl
  case isFalse => rfl

/-- The routing of a change raises no notice but PICTURE_CHANGED and SHEET_STALE (R145, R171). -/
theorem has_routeChange {m : Notice} (changed : m ≠ .pictureChanged) (stale : m ≠ .sheetStale) (pc : PictureChange)
    (s : State) (d : Fin 4) : NoticeSet.has ((routeChange pc s).channel d).notices m =
      NoticeSet.has (s.channel d).notices m := by
  have update (f : Option Nat) (ch : Fin 4) (t : State) :
      NoticeSet.has ((queueUpdate pc f ch t).channel d).notices m = NoticeSet.has (t.channel d).notices m := by
    unfold queueUpdate
    split
    · exact has_raise_other changed.symm _ _ _
    · rw [notices_enqueue]
  have late (a : Address) (ch : Fin 4) (t : State) :
      NoticeSet.has ((offerLate a ch t).channel d).notices m = NoticeSet.has (t.channel d).notices m := by
    unfold offerLate
    dsimp only
    split
    · rfl
    · split
      · rw [channel_setBundle]
      · exact has_raise_other stale.symm _ _ _
  refine eachChannel_keeps (P := fun t : State => NoticeSet.has (t.channel d).notices m =
    NoticeSet.has (s.channel d).notices m) (fun ch t k => Eq.trans ?_ k) s rfl
  unfold routeOn
  dsimp only
  split
  · rfl
  · split
    · split
      · rw [update, late]
      · exact late _ _ _
    · split
      · exact update _ _ _
      · split
        · exact update _ _ _
        · rfl

theorem raiseAll_crew_congr {s t : State} (h : t.crew = s.crew) (n : Notice) :
    (t.raiseAll n).crew = (s.raiseAll n).crew := by
  have each {u v : State} (k : v.crew = u.crew) (ch : Fin 4) : (v.raise n ch).crew = (u.raise n ch).crew := by
    simp only [State.raise, State.setChannel, State.withCrew, State.channel, k]
  exact each (each (each (each h 0) 1) 2) 3

/-! ## An origin unconfirmed (R29) -/

/-- The entry as it stands after its origin is unconfirmed. -/
def Entry.unconfirmed (e : Entry) : Entry := { e with confirmed := false, sweep := false }

theorem unconfirmEntry_of_confirmed {e : Entry} (h : e.confirmed = true) (s : State) :
    unconfirmEntry e s = routeChange (plainChange .unconfirm { e with confirmed := false })
      (s.putEntry { e with confirmed := false }) := if_pos h

theorem unconfirmEntry_of_not {e : Entry} (h : e.confirmed = false) (s : State) : unconfirmEntry e s = s :=
  if_neg (by simp [h])

theorem unconfirmEntry_entryAt_ne {a : Address} {e : Entry} (apart : a ≠ e.addr) (s : State) :
    (unconfirmEntry e s).entryAt a = s.entryAt a := by
  unfold unconfirmEntry
  split
  · rw [entryAt_congr (emit_table _ _)]
    exact entryAt_putEntry_ne _ { e with confirmed := false } _ apart
  · rfl

theorem unconfirmEntry_entryAt_same {s : State} {e : Entry} (held : s.entryAt e.addr = some e) :
    (unconfirmEntry e s).entryAt e.addr = some { e with confirmed := false } := by
  unfold unconfirmEntry
  split
  · rw [entryAt_congr (emit_table _ _)]
    exact entryAt_putEntry_same _ { e with confirmed := false }
  case isFalse not =>
    have already : e.confirmed = false := by simpa using not
    rw [held, ← already]

/-- The entries of a list, held as they stand there, unconfirmed one after the other. -/
def unconfirmAll (l : List Entry) (s : State) : State := l.foldl (fun t e => unconfirmEntry e t) s

theorem unconfirmAll_entryAt {l : List Entry} (r : Rising l) {s : State}
    (held : ∀ e ∈ l, s.entryAt e.addr = some e) (a : Address) : (unconfirmAll l s).entryAt a =
      (s.entryAt a).map fun e => if e ∈ l then { e with confirmed := false } else e := by
  induction l generalizing s with
  | nil => simp [unconfirmAll]
  | cons e l ih =>
    obtain ⟨first, rest⟩ := r
    have apart : ∀ x ∈ l, x.addr ≠ e.addr := fun x hx k => before_ne (first x hx) k.symm
    have next : ∀ x ∈ l, (unconfirmEntry e s).entryAt x.addr = some x := fun x hx => by
      rw [unconfirmEntry_entryAt_ne (apart x hx)]
      exact held x (List.mem_cons_of_mem _ hx)
    refine (ih rest next).trans ?_
    by_cases same : a = e.addr
    · have here := held e List.mem_cons_self
      subst same
      rw [unconfirmEntry_entryAt_same here, here]
      have gone : ({ e with confirmed := false } : Entry) ∉ l := fun k => apart _ k rfl
      simp [gone]
    · rw [unconfirmEntry_entryAt_ne same]
      refine Option.map_congr fun y hy => ?_
      have other : y ≠ e := fun k => same (by rw [← addr_of_entryAt hy, k])
      simp [other]

/-- The unconfirmed entries are told of one by one, and nothing else happens. -/
theorem unconfirmAll_eq (l : List Entry) (s : State) (m : List Entry) :
    ∃ k, unconfirmAll l (s.setEntries m) =
      (((l.filter Entry.confirmed).map fun e => { e with confirmed := false }).foldl
        (fun u e => emit ⟨.unconfirm, e, none, none⟩ u) s).setEntries k := by
  induction l generalizing s m with
  | nil => exact ⟨m, rfl⟩
  | cons e l ih =>
    change ∃ k, unconfirmAll l (unconfirmEntry e (s.setEntries m)) = _
    cases confirmed : e.confirmed with
    | false =>
      rw [unconfirmEntry_of_not confirmed, List.filter_cons, if_neg (by simp [confirmed])]
      exact ih s m
    | true =>
      have told : unconfirmEntry e (s.setEntries m) =
          (routeChange (plainChange .unconfirm { e with confirmed := false }) s).setEntries
            (Machine.putEntry { e with confirmed := false } m) := by
        rw [unconfirmEntry_of_confirmed confirmed, ← routeChange_setEntries]
        rfl
      rw [told, List.filter_cons, if_pos confirmed]
      exact ih _ _

theorem setSweep_entryAt {s : State} (x : Nat) (b : Bool) (a : Address) :
    (setSweep x b s).entryAt a = (s.entryAt a).map fun e =>
      if e.addr.station = x then { e with sweep := b } else e := by
  have same (e : Entry) : (if e.addr.station = x then { e with sweep := b } else e).addr = e.addr := by
    split <;> rfl
  refine List.find?_map.trans (congrArg (Option.map _) ?_)
  unfold State.entryAt
  congr 1
  funext e
  exact congrArg (· == a) (same e)

theorem unconfirmOrigin_entryAt {s : State} (r : Rising s.entries) (x : Nat) (a : Address) :
    (unconfirmOrigin x s).entryAt a =
      (s.entryAt a).map fun e => if e.addr.station = x then e.unconfirmed else e := by
  have same (e : Entry) : (if e.addr.station = x then { e with sweep := false } else e).addr = e.addr := by
    split <;> rfl
  have rising : Rising (setSweep x false s).entries := rising_map _ same r
  have walk := unconfirmAll_entryAt (rising_filter (fun e => e.addr.station == x) rising)
    (fun e he => entryAt_of_mem rising (List.mem_filter.mp he).1) a
  refine walk.trans ?_
  rw [setSweep_entryAt, Option.map_map]
  refine Option.map_congr fun e held => ?_
  simp only [Function.comp]
  by_cases of : e.addr.station = x
  · have mem : ({ e with sweep := false } : Entry) ∈
        (setSweep x false s).entries.filter fun e => e.addr.station == x := by
      refine List.mem_filter.mpr ⟨List.mem_map.mpr ⟨e, mem_of_entryAt held, if_pos of⟩, beq_iff_eq.mpr of⟩
    rw [if_pos of, if_pos of, if_pos mem]
    rfl
  · have out : e ∉ (setSweep x false s).entries.filter fun e => e.addr.station == x :=
      fun k => of (eq_of_beq (List.mem_filter.mp k).2)
    rw [if_neg of, if_neg of, if_neg out]

/-- The entries of an origin, unconfirmed, as they are told of. -/
def State.unconfirms (s : State) (x : Nat) : List Entry :=
  (s.entries.filter fun e => e.addr.station == x && e.confirmed).map Entry.unconfirmed

/-- The state that has heard of the entries of an origin unconfirmed, its own entries as they were. -/
def State.toldUnconfirms (s : State) (x : Nat) : State :=
  (s.unconfirms x).foldl (fun u e => emit ⟨.unconfirm, e, none, none⟩ u) s

theorem unconfirmOrigin_eq (x : Nat) (s : State) : ∃ k, unconfirmOrigin x s = (s.toldUnconfirms x).setEntries k := by
  obtain ⟨k, eq⟩ := unconfirmAll_eq ((setSweep x false s).entriesOf x) s
    (s.entries.map fun e => if e.addr.station = x then { e with sweep := false } else e)
  refine ⟨k, eq.trans (congrArg (fun l : List Entry => State.setEntries (l.foldl _ s) k) ?_)⟩
  have list (m : List Entry) : ((((m.map fun e => if e.addr.station = x then { e with sweep := false } else e).filter
      fun e => e.addr.station == x).filter Entry.confirmed).map fun e => { e with confirmed := false }) =
      (m.filter fun e => e.addr.station == x && e.confirmed).map Entry.unconfirmed := by
    induction m with
    | nil => rfl
    | cons e m ih =>
      by_cases of : e.addr.station = x <;> cases is : e.confirmed <;>
        simp [of, is, Entry.unconfirmed, ih, -List.filter_filter]
  exact list s.entries

theorem toldUnconfirms_keeps {P : State → Prop} {s : State} (h : P s) (x : Nat)
    (keeps : ∀ e t, P t → P (routeChange ⟨.unconfirm, e, none, none⟩ t)) : P (s.toldUnconfirms x) :=
  foldl_keeps (P := P) (fun t e k => keeps e t k) _ s h

/-! ## An origin fallen silent (R67, R68) -/

theorem failRecovery_frees (x : Nat) (s : State) : ∀ r, (failRecovery x s).table.recovery = some r → r.origin ≠ x := by
  intro r held
  unfold failRecovery at held
  split at held
  case _ q slot =>
    split at held
    · cases held
    case isFalse other =>
      rw [slot] at held
      cases held
      exact other
  case _ slot =>
    rw [slot] at held
    cases held

theorem failRecovery_eq (x : Nat) (s : State) :
    ∃ r, failRecovery x s = s.withTable { s.table with recovery := r } := by
  unfold failRecovery
  split
  · split
    · exact ⟨none, rfl⟩
    · exact ⟨s.table.recovery, rfl⟩
  · exact ⟨s.table.recovery, rfl⟩

/-- The state of an origin fallen silent, before the Monitor hears of it. -/
def State.silenced (x : Nat) (s : State) : State :=
  (failRecovery x (unconfirmOrigin x (s.modOrigin x fun o => { o with status := .silent }))).modOrigin x
    fun o => { o with resync := .none }

theorem becomeSilent_eq (x : Nat) (s : State) : becomeSilent x s = monitorHearsSilent x (s.silenced x) := rfl

theorem Following.routeChange {s t : State} (h : Following s t) (pc : PictureChange) :
    Following (routeChange pc s) (routeChange pc t) :=
  h.eachChannel fun _ _ _ k => k.routeOn _ _

theorem toldUnconfirms_following {s t : State} (h : Following s t) (x : Nat) :
    Following (s.toldUnconfirms x) (t.toldUnconfirms x) := by
  have same : t.unconfirms x = s.unconfirms x := by rw [State.unconfirms, State.unconfirms, h.entries]
  have walk : ∀ (l : List Entry) (s t : State), Following s t →
      Following (l.foldl (fun u e => emit ⟨.unconfirm, e, none, none⟩ u) s)
        (l.foldl (fun u e => emit ⟨.unconfirm, e, none, none⟩ u) t) := by
    intro l
    induction l with
    | nil => exact fun _ _ k => k
    | cons e l ih => exact fun s t k => ih _ _ (k.emit _)
  rw [State.toldUnconfirms, State.toldUnconfirms, same]
  exact walk _ s t h

theorem toldUnconfirms_told (s : State) (x : Nat) : Told s (s.toldUnconfirms x) :=
  toldUnconfirms_keeps (P := Told s) (.refl s) x fun _ t k => k.trans (routeChange_told _ t)

theorem toldUnconfirms_incident (s : State) (x : Nat) : (s.toldUnconfirms x).incident = s.incident :=
  toldUnconfirms_keeps (P := fun t : State => t.incident = s.incident) rfl x
    fun _ t k => (routeChange_incident _ t).trans k

theorem toldUnconfirms_has {m : Notice} (changed : m ≠ .pictureChanged) (stale : m ≠ .sheetStale) (s : State)
    (x : Nat) (ch : Fin 4) : NoticeSet.has ((s.toldUnconfirms x).channel ch).notices m =
      NoticeSet.has (s.channel ch).notices m :=
  toldUnconfirms_keeps (P := fun t : State => NoticeSet.has (t.channel ch).notices m =
    NoticeSet.has (s.channel ch).notices m) rfl x fun _ t k => (has_routeChange changed stale _ t ch).trans k

/-- An origin fallen silent, as the blocks besides the table see it. -/
structure SilencedFrame (x : Nat) (s t : State) : Prop where
  crew : t.crew = (s.toldUnconfirms x).crew
  bundles : t.bundles = (s.toldUnconfirms x).bundles
  incident : t.incident = s.incident
  pub : t.pub = s.pub
  scanner : t.scanner = s.scanner
  riser : t.riser = s.riser

theorem silenced_frame (x : Nat) (s : State) : SilencedFrame x s (s.silenced x) := by
  let marked := s.modOrigin x fun o => { o with status := .silent }
  have follow : Following s marked := ⟨modOrigin_crew _ _ _, modOrigin_bundles _ _ _, modOrigin_incident _ _ _,
    modOrigin_table_entries _ _ _, congrArg StationControl.tick (modOrigin_control _ _ _)⟩
  obtain ⟨crew, bundles, incident, _, _⟩ := toldUnconfirms_following follow x
  have told := toldUnconfirms_told marked x
  obtain ⟨k, unconfirmed⟩ := unconfirmOrigin_eq x marked
  obtain ⟨r, failed⟩ := failRecovery_eq x (unconfirmOrigin x marked)
  rw [State.silenced, failed, unconfirmed]
  refine ⟨?_, ?_, ?_, ?_, ?_, ?_⟩
  · rw [modOrigin_crew]; exact crew
  · rw [modOrigin_bundles]; exact bundles
  · rw [modOrigin_incident]; exact incident.trans (toldUnconfirms_incident s x)
  · rw [modOrigin_pub]; exact told.pub.trans (modOrigin_pub _ _ _)
  · rw [modOrigin_scanner]; exact told.scanner.trans (modOrigin_scanner _ _ _)
  · rw [modOrigin_riser]; exact told.riser.trans (modOrigin_riser _ _ _)

theorem unconfirmOrigin_origins (x : Nat) (s : State) :
    (unconfirmOrigin x s).table.origins = s.table.origins := by
  obtain ⟨k, eq⟩ := unconfirmOrigin_eq x s
  rw [eq]
  change (s.toldUnconfirms x).table.origins = _
  rw [(toldUnconfirms_told s x).table]

theorem failRecovery_table (x : Nat) (s : State) : (failRecovery x s).table.origins = s.table.origins ∧
    (failRecovery x s).table.entries = s.table.entries := by
  obtain ⟨r, eq⟩ := failRecovery_eq x s
  rw [eq]
  exact ⟨rfl, rfl⟩

/-- The origin records after the origin has fallen silent and before its resync state is NONE. -/
theorem silencing_origins (x : Nat) (s : State) :
    (failRecovery x (unconfirmOrigin x (s.modOrigin x fun o => { o with status := .silent }))).table.origins =
      (s.modOrigin x fun o => { o with status := .silent }).table.origins :=
  (failRecovery_table x _).1.trans (unconfirmOrigin_origins x _)

theorem silenced_origin_same {s : State} {x : Nat} (low : 1 ≤ x) (high : x ≤ s.table.origins.length) :
    (s.silenced x).origin x = { s.origin x with status := .silent, resync := .none } := by
  rw [State.silenced, origin_modOrigin_same low, origin_congr (silencing_origins x s), origin_modOrigin_same low high]
  rw [silencing_origins, modOrigin_origins_length]
  exact high

theorem silenced_origin_ne {x y : Nat} (apart : y ≠ x) (s : State) : (s.silenced x).origin y = s.origin y := by
  rw [State.silenced, origin_modOrigin_ne apart, origin_congr (silencing_origins x s), origin_modOrigin_ne apart]

theorem silenced_entryAt {s : State} (r : Rising s.entries) (x : Nat) (a : Address) :
    (s.silenced x).entryAt a = (s.entryAt a).map fun e => if e.addr.station = x then e.unconfirmed else e := by
  have rising : Rising (s.modOrigin x fun o => { o with status := .silent }).entries := by
    rw [State.entries, modOrigin_table_entries]
    exact r
  rw [State.silenced, modOrigin_entryAt, State.entryAt, (failRecovery_table x _).2]
  refine (unconfirmOrigin_entryAt rising x a).trans ?_
  rw [modOrigin_entryAt]

theorem unconfirmOrigin_rising {s : State} (r : Rising s.entries) (x : Nat) :
    Rising (unconfirmOrigin x s).entries := by
  refine foldl_keeps (P := fun t : State => Rising t.entries) (fun t e k => ?_) _ _
    (rising_map (fun e => if e.addr.station = x then { e with sweep := false } else e) (fun e => ?_) r)
  · unfold unconfirmEntry
    split
    · rw [State.entries, emit_table]
      exact rising_putEntry _ k
    · exact k
  · split <;> rfl

theorem silenced_rising {s : State} (r : Rising s.entries) (x : Nat) : Rising (s.silenced x).entries := by
  rw [State.silenced, State.entries, modOrigin_table_entries, (failRecovery_table x _).2]
  refine unconfirmOrigin_rising ?_ x
  rw [State.entries, modOrigin_table_entries]
  exact r

theorem mem_iff_entryAt {s : State} (r : Rising s.entries) (e : Entry) :
    e ∈ s.entries ↔ s.entryAt e.addr = some e := ⟨entryAt_of_mem r, mem_of_entryAt⟩

/-- A silent origin holds an entry in ALARM exactly when it held one before. -/
theorem silenced_alarm {s : State} (r : Rising s.entries) (x : Nat) :
    (((s.silenced x).entriesOf x).any fun e => e.state == .alarm) = true ↔
      ∃ e ∈ s.entries, e.addr.station = x ∧ e.state = .alarm := by
  simp only [State.entriesOf, List.any_eq_true, List.mem_filter, beq_iff_eq]
  constructor
  · rintro ⟨e, ⟨mem, of⟩, alarm⟩
    have held := (mem_iff_entryAt (silenced_rising r x) e).mp mem
    rw [silenced_entryAt r] at held
    obtain ⟨y, before, same⟩ := Option.map_eq_some_iff.mp held
    have kept : y.addr = e.addr ∧ y.state = e.state := by
      subst same
      split <;> exact ⟨rfl, rfl⟩
    exact ⟨y, mem_of_entryAt before, kept.1 ▸ of, kept.2.trans alarm⟩
  · rintro ⟨e, mem, of, alarm⟩
    have held : (s.silenced x).entryAt e.addr = some e.unconfirmed := by
      rw [silenced_entryAt r, entryAt_of_mem r mem]
      exact congrArg some (if_pos of)
    exact ⟨e.unconfirmed, ⟨mem_of_entryAt held, of⟩, alarm⟩

theorem pastLimit_iff (o : OriginRecord) : o.pastLimit = true ↔
    (o.status = .live ∨ o.status = .gapped ∨ o.status = .resyncing) ∧ 3 * o.interval + 2 < o.silence := by
  simp only [OriginRecord.pastLimit, OriginRecord.silenceLimit, Bool.and_eq_true, Bool.or_eq_true, beq_iff_eq,
    or_assoc]
  exact and_congr_right' decide_eq_true_iff

theorem monitorHearsSilent_of_alarm {x : Nat} {s : State}
    (h : ((s.entriesOf x).any fun e => e.state == .alarm) = true) :
    monitorHearsSilent x s = s.raiseAll .originSilent := if_pos h

theorem monitorHearsSilent_of_calm {x : Nat} {s : State}
    (h : ¬((s.entriesOf x).any fun e => e.state == .alarm) = true) : monitorHearsSilent x s = s := if_neg h

/-- Settles O10: the origin's record, entries and recovery change as R68 says, the blocks that follow hear of the
entries unconfirmed, and the Monitor of the origin where it holds an ALARM. -/
theorem silenceExpirySilencesTheOrigin : Obligations.SilenceExpirySilencesTheOrigin := by
  intro x s free table low high due status past
  obtain ⟨rising, _, _⟩ := table
  let seen := s.withDue { s.due with silence := s.due.silence.erase x }
  have limit : (seen.origin x).pastLimit = true := (pastLimit_iff _).mpr ⟨status, past⟩
  have told : exec (.silenceExpiry x) s = .next (becomeSilent x seen) := by
    change Host.Outcome.next (internal (takeSilence x) s) = _
    rw [internal_free free, takeSilence, if_pos due]
    exact congrArg _ (if_pos limit)
  have follow : Following s seen := ⟨rfl, rfl, rfl, rfl, rfl⟩
  have sameTold := toldUnconfirms_following follow x
  have heard : Told (seen.silenced x) (becomeSilent x seen) := monitorHearsSilent_told _ _
  have frame := silenced_frame x seen
  have alarm := silenced_alarm (s := seen) rising x
  have bundles : (becomeSilent x seen).bundles = (seen.silenced x).bundles := by
    rw [becomeSilent_eq, monitorHearsSilent]
    split
    · exact eachChannel_keeps (P := fun t : State => t.bundles = (seen.silenced x).bundles) (fun _ _ k => k) _ rfl
    · rfl
  have incident : (becomeSilent x seen).incident = (seen.silenced x).incident := by
    rw [becomeSilent_eq, monitorHearsSilent]
    split
    · exact raiseAll_incident _ _
    · rfl
  have calm (h : ∀ e ∈ s.entries, e.addr.station = x → e.state ≠ .alarm) :
      becomeSilent x seen = seen.silenced x :=
    monitorHearsSilent_of_calm fun k => by
      obtain ⟨e, mem, of, is⟩ := alarm.mp k
      exact h e mem of is
  have loud (h : ∃ e ∈ s.entries, e.addr.station = x ∧ e.state = .alarm) :
      becomeSilent x seen = (seen.silenced x).raiseAll .originSilent :=
    monitorHearsSilent_of_alarm (alarm.mpr h)
  refine ⟨_, told, ?_, fun y apart => ?_, fun a => ?_, fun r held => ?_, fun t ht => ⟨?_, fun h => ?_, fun h => ?_⟩,
    fun h ch attached => ?_, fun h ch => ?_, incident.trans frame.incident, heard.pub.trans frame.pub,
    heard.scanner.trans frame.scanner, heard.riser.trans frame.riser⟩
  · rw [origin_congr (congrArg _ heard.table)]
    exact silenced_origin_same (s := seen) low high
  · rw [origin_congr (congrArg _ heard.table)]
    exact silenced_origin_ne apart seen
  · rw [entryAt_congr heard.table]
    exact silenced_entryAt (s := seen) rising x a
  · rw [heard.table, State.silenced, modOrigin_table_recovery] at held
    exact failRecovery_frees x _ r held
  · subst ht
    exact bundles.trans (frame.bundles.trans sameTold.bundles)
  · subst ht
    rw [calm h]
    exact frame.crew.trans sameTold.crew
  · subst ht
    rw [loud h]
    exact raiseAll_crew_congr (frame.crew.trans sameTold.crew) _
  · rw [loud h, has_raiseAll]
    have still : (seen.silenced x).isAttached ch = true := by
      have same : (seen.silenced x).isAttached ch = (seen.toldUnconfirms x).isAttached ch := by
        rw [State.isAttached, State.isAttached, State.channel, State.channel, frame.crew]
      rw [same, (toldUnconfirms_told seen x).isAttached]
      exact attached
    rw [still]
    simp
  · have same : NoticeSet.has ((seen.silenced x).channel ch).notices .originSilent =
        NoticeSet.has ((seen.toldUnconfirms x).channel ch).notices .originSilent := by
      rw [State.channel, State.channel, frame.crew]
    rw [calm h, same]
    exact toldUnconfirms_has (by decide) (by decide) seen x ch

end Sys2Proof.Machine
end

section
/-!
PROOFS. Records of peers applied to the table (R22, R27, R32 to R37, R61 to R64): O21 and O22.
-/
namespace Sys2Proof.Machine

/-! ## A held entry rewritten -/

/-- A rewrite takes its entry out at once (R27). -/
def State.rewriteGone (s : State) (old new : Entry) : Bool :=
  decide (old.state ≠ .cleared ∧ new.state = .cleared ∧ s.table.clearHold ≤ s.now - new.localSince)

/-- The rewritten entry told of, before its hold is looked at. -/
def toldWrite (old new : Entry) (s : State) : State :=
  match writeChange old new with
  | some pc => emit pc (s.putEntry new)
  | none => s.putEntry new

theorem toldWrite_told (old new : Entry) (s : State) : Told (s.putEntry new) (toldWrite old new s) := by
  unfold toldWrite
  split
  · exact emit_told _ _
  · exact .refl _

theorem rewriteEntry_eq (old new : Entry) (s : State) : rewriteEntry old new s =
    if s.rewriteGone old new = true then removeByHold new (toldWrite old new s) else toldWrite old new s := by
  have same : holdMet (toldWrite old new s) new = true ↔
      new.state = .cleared ∧ s.table.clearHold ≤ s.now - new.localSince := by
    rw [holdMet_iff, State.now, (toldWrite_told old new s).table, (toldWrite_told old new s).control]
    rfl
  have gone : (old.state ≠ .cleared ∧ holdMet (toldWrite old new s) new = true) ↔ s.rewriteGone old new = true := by
    rw [same, State.rewriteGone, decide_eq_true_iff]
  rw [← if_congr gone rfl rfl]
  unfold rewriteEntry toldWrite
  cases writeChange old new <;> rfl

theorem toldWrite_entryAt_same (old new : Entry) (s : State) :
    (toldWrite old new s).entryAt new.addr = some new := by
  rw [entryAt_congr (toldWrite_told old new s).table]
  exact entryAt_putEntry_same s new

theorem toldWrite_entryAt_ne {a : Address} {new : Entry} (apart : a ≠ new.addr) (old : Entry) (s : State) :
    (toldWrite old new s).entryAt a = s.entryAt a := by
  rw [entryAt_congr (toldWrite_told old new s).table]
  exact entryAt_putEntry_ne s new a apart

theorem removeByHold_entryAt (e : Entry) (s : State) (a : Address) :
    (removeByHold e s).entryAt a = if a = e.addr then none else s.entryAt a := by
  rw [← entryAt_dropEntry]
  exact congrArg (List.find? _) (removeByHold_entries e s)

theorem rewriteEntry_entryAt_same (old new : Entry) (s : State) : (rewriteEntry old new s).entryAt new.addr =
    if s.rewriteGone old new = true then none else some new := by
  rw [rewriteEntry_eq]
  split
  · rw [removeByHold_entryAt, if_pos rfl]
  · exact toldWrite_entryAt_same old new s

theorem rewriteEntry_entryAt_ne {a : Address} {new : Entry} (apart : a ≠ new.addr) (old : Entry) (s : State) :
    (rewriteEntry old new s).entryAt a = s.entryAt a := by
  rw [rewriteEntry_eq]
  split
  · rw [removeByHold_entryAt, if_neg apart]
    exact toldWrite_entryAt_ne apart old s
  · exact toldWrite_entryAt_ne apart old s

/-- What is told of a picture change moves nothing of the blocks that a removal leaves. -/
theorem Told.removalFrame {s t : State} (told : Told s t) : RemovalFrame s t :=
  ⟨congrArg PictureTable.origins told.table, congrArg PictureTable.recovery told.table, told.control, told.scanner,
    told.merge, told.riser, told.store, told.due, congrArg Publisher.change told.pub,
    congrArg Publisher.level told.pub, congrArg (fun p : Publisher => p.copies.length) told.pub⟩

theorem putEntry_frame (e : Entry) (s : State) : RemovalFrame s (s.putEntry e) :=
  ⟨rfl, rfl, rfl, rfl, rfl, rfl, rfl, rfl, rfl, rfl, rfl⟩

theorem toldWrite_frame (old new : Entry) (s : State) : RemovalFrame s (toldWrite old new s) :=
  (putEntry_frame new s).trans (toldWrite_told old new s).removalFrame

theorem rewriteEntry_frame (old new : Entry) (s : State) : RemovalFrame s (rewriteEntry old new s) := by
  rw [rewriteEntry_eq]
  split
  · exact (toldWrite_frame old new s).trans (removeByHold_frame new _)
  · exact toldWrite_frame old new s

theorem writeProduces_writeChange (old new : Entry) : WriteProduces old new (writeChange old new) := by
  unfold WriteProduces writeChange prevSheetOf plainChange
  refine ⟨fun moved => if_pos moved, fun still => ⟨fun level => ?_, fun datum loc place => ⟨fun confirm => ?_, fun not => ?_⟩⟩⟩
  · rw [if_neg (not_not.mpr still), if_pos level]
  · rw [if_neg (not_not.mpr still), if_neg (by simp [datum, loc, place]), if_pos confirm]
  · rw [if_neg (not_not.mpr still), if_neg (by simp [datum, loc, place]), if_neg ?_]
    rintro ⟨was, is⟩
    rcases not with k | k
    · exact Bool.noConfusion (k.symm.trans was)
    · exact Bool.noConfusion (k.symm.trans is)

/-- The blocks that follow hear of a rewrite by the row of R22 that applies, and of the REMOVE behind it. -/
theorem toldOfWrite_rewriteEntry (old new : Entry) (s : State) :
    ToldOfWrite old new (s.rewriteGone old new) s (rewriteEntry old new s) := by
  refine ⟨writeChange old new, writeProduces_writeChange old new, fun told h => ?_⟩
  have h : told = toldWrite old new s := h
  rw [rewriteEntry_eq, h]
  split
  · exact (removeByHold_following (.refl _) new).same
  · exact (Following.refl _).same

/-! ## News lost (R37, R39) -/

theorem noteLoss_eq (x : Nat) (s : State) : ∃ r : Option Recovery, r.map Recovery.origin =
    s.table.recovery.map Recovery.origin ∧ noteLoss x s =
      (s.modOrigin x fun o => { o with overflow := true }).withTable
        { (s.modOrigin x fun o => { o with overflow := true }).table with recovery := r } := by
  unfold noteLoss
  dsimp only
  split
  case _ r held =>
    rw [modOrigin_table_recovery] at held
    split
    · exact ⟨some { r with loss := true }, by rw [held]; rfl, rfl⟩
    · exact ⟨some r, by rw [held], by rw [← held, ← modOrigin_table_recovery]; rfl⟩
  case _ none =>
    rw [modOrigin_table_recovery] at none
    exact ⟨Option.none, by rw [none], by rw [← none, ← modOrigin_table_recovery]; rfl⟩

theorem noteLoss_overflow {s : State} {x : Nat} (low : 1 ≤ x) (high : x ≤ s.table.origins.length) :
    ((noteLoss x s).origin x).overflow = true := by
  obtain ⟨r, _, eq⟩ := noteLoss_eq x s
  rw [eq]
  exact congrArg OriginRecord.overflow (origin_modOrigin_same low high fun o => { o with overflow := true })

theorem noteLoss_following (x : Nat) {s t : State} (h : Following s t) : Following s (noteLoss x t) := by
  obtain ⟨r, _, eq⟩ := noteLoss_eq x t
  rw [eq]
  exact ⟨(modOrigin_crew _ _ _).trans h.crew, (modOrigin_bundles _ _ _).trans h.bundles,
    (modOrigin_incident _ _ _).trans h.incident, (modOrigin_table_entries _ _ _).trans h.entries,
    (congrArg StationControl.tick (modOrigin_control _ _ _)).trans h.tick⟩

theorem Following.putEntry {s t : State} (h : Following s t) (e : Entry) : Following (s.putEntry e) (t.putEntry e) :=
  ⟨h.crew, h.bundles, h.incident, congrArg (Machine.putEntry e) h.entries, h.tick⟩

theorem evictEntry_entryAt (v : Entry) (s : State) (a : Address) :
    (evictEntry v s).entryAt a = if a = v.addr then none else s.entryAt a := by
  rw [← entryAt_dropEntry]
  exact congrArg (List.find? _) (evictEntry_entries v s)

theorem foreign_length_put {s : State} {e : Entry} (absent : s.entryAt e.addr = none) (foreign : e.addr.station ≠ s.own) :
    (s.putEntry e).foreign.length = s.foreign.length + 1 := by
  rw [foreign_length, foreign_length]
  refine (countP_putEntry_new (fun y => !s.ownEntry y) (absent_of_entryAt absent)).trans ?_
  rw [one, State.ownEntry, if_pos (by simpa using foreign)]

theorem foreign_length_evict {s : State} (rising : Rising s.entries) {v : Entry} (mem : v ∈ s.foreign) :
    (evictEntry v s).foreign.length + 1 = s.foreign.length := by
  obtain ⟨held, foreign⟩ := List.mem_filter.mp mem
  have count := countP_dropEntry (fun e => !s.ownEntry e) rising held
  rw [one, if_pos foreign] at count
  rw [foreign_length, foreign_length, evictEntry_entries]
  simp only [State.ownEntry, evictEntry_own]
  exact count

theorem placeEntry_foreign (e : Entry) (s : State) : (placeEntry e s).foreign = (s.putEntry e).foreign := by
  simp only [State.foreign, State.entries, State.ownEntry, State.own, placeEntry, emit_table, emit_control]

theorem placeEntry_entryAt_same (e : Entry) (s : State) : (placeEntry e s).entryAt e.addr = some e := by
  rw [entryAt_congr (placeEntry_table e s)]
  exact entryAt_putEntry_same s e

theorem placeEntry_entryAt_ne {a : Address} {e : Entry} (apart : a ≠ e.addr) (s : State) :
    (placeEntry e s).entryAt a = s.entryAt a := by
  rw [entryAt_congr (placeEntry_table e s)]
  exact entryAt_putEntry_ne s e a apart

/-! ## A record for an address that is not held (R32, R34) -/

theorem applyRecord_absent {s : State} {x : Nat} {r : Record} (absent : s.entryAt ⟨x, r.index⟩ = none)
    (kind : r.kind ≠ .level) : applyRecord x r s = presentRecord x r s := by
  unfold applyRecord
  rw [absent]
  cases k : r.kind with
  | level => exact absurd k kind
  | point => rfl
  | marker => rfl

theorem presentRecord_free {s : State} {x : Nat} {r : Record} (live : r.state ≠ .cleared)
    (free : s.foreign.length < 560) : presentRecord x r s = placeEntry (entryOfRecord x r s.now) s := by
  have room : 0 < s.freeCount := Nat.sub_pos_of_lt free
  rw [presentRecord, if_neg live, if_pos room]

theorem presentRecord_full {s : State} {x : Nat} {r : Record} (live : r.state ≠ .cleared)
    (full : s.foreign.length = 560) {v : Entry} (victim : s.victim = some v) : presentRecord x r s =
      if r.state.rank > v.state.rank then placeEntry (entryOfRecord x r s.now) (evictEntry v s) else noteLoss x s := by
  have none : ¬0 < s.freeCount := by
    rw [State.freeCount, full]
    decide
  rw [presentRecord, if_neg live, if_neg none, victim]

/-- Settles O21: the three ways a record for a new address goes, each by the state of the pool. -/
theorem admissionTakesAPlaceEvictsOrDrops : Obligations.AdmissionTakesAPlaceEvictsOrDrops := by
  intro x r s t table foreign low high kind index absent done
  rw [applyRecord_absent absent kind] at done
  let e := entryOfRecord x r s.now
  refine ⟨fun cleared => ?_, fun live free => ?_, fun live full v victim => ⟨fun outranks => ?_, fun weak => ?_⟩⟩
  · rw [done, presentRecord, if_pos cleared]
  · rw [presentRecord_free live free] at done
    subst done
    refine ⟨placeEntry_entryAt_same e s, fun a apart => placeEntry_entryAt_ne (e := e) apart s, ?_, ?_, rfl, rfl, rfl⟩
    · rw [placeEntry_table]
      rfl
    · have count := foreign_length_put (e := e) absent foreign
      rw [State.freeCount, State.freeCount, placeEntry_foreign, count]
      change 560 - (s.foreign.length + 1) + 1 = 560 - s.foreign.length
      omega
  · rw [presentRecord_full live full victim, if_pos outranks] at done
    subst done
    have chosen := victim_mem_foreign victim
    have held : v ∈ s.entries := (mem_foreign.mp chosen).1
    have apart : (⟨x, r.index⟩ : Address) ≠ v.addr := fun k =>
      absent_of_entryAt absent v held k.symm
    have absentYet : (evictEntry v s).entryAt e.addr = none := by
      rw [evictEntry_entryAt]
      split
      · rfl
      · exact absent
    refine ⟨placeEntry_entryAt_same e _, ?_, fun a other notVictim => ?_, ?_, fun station => ?_, ?_⟩
    · refine (placeEntry_entryAt_ne (e := e) apart.symm _).trans ?_
      rw [evictEntry_entryAt, if_pos rfl]
    · refine (placeEntry_entryAt_ne (e := e) other _).trans ?_
      rw [evictEntry_entryAt, if_neg notVictim]
    · have out := foreign_length_evict table.1 chosen
      have back := foreign_length_put (e := e) absentYet (by rw [evictEntry_own]; exact foreign)
      have count : (placeEntry e (evictEntry v s)).foreign.length = 560 := by
        rw [placeEntry_foreign, back]
        omega
      exact (congrArg (560 - ·) count).trans (Nat.sub_self 560)
    · rw [origin_congr (s := evictEntry v s) (by rw [placeEntry_table]; rfl)]
      refine noteLoss_overflow station.1 ?_
      rw [emit_table]
      exact station.2
    · exact (Following.emit ((noteLoss_following v.addr.station
        (.refl (emit (plainChange .evict v) (s.dropEntry v.addr)))).putEntry e) (plainChange .admission e)).same
  · rw [presentRecord_full live full victim, if_neg (Nat.not_lt.mpr weak)] at done
    subst done
    exact ⟨noteLoss_entries x s, noteLoss_overflow low high, (noteLoss_following x (.refl s)).same⟩

/-! ## What the records of an origin leave -/

/-- What the records of origin `x` leave of the part: every block but the followers of the picture and the
Publisher, every origin record but its overflow flag, and the own entries. -/
structure RecordFrame (x : Nat) (s t : State) : Prop where
  control : t.control = s.control
  scanner : t.scanner = s.scanner
  merge : t.merge = s.merge
  riser : t.riser = s.riser
  store : t.store = s.store
  due : t.due = s.due
  length : t.table.origins.length = s.table.origins.length
  origin : ∀ y, ∃ b, t.origin y = { s.origin y with overflow := b }
  recovery : t.table.recovery.map Recovery.origin = s.table.recovery.map Recovery.origin
  rising : Rising s.entries → Rising t.entries
  own : x ≠ s.own → ∀ i, t.entryAt ⟨s.own, i⟩ = s.entryAt ⟨s.own, i⟩

theorem RecordFrame.refl (x : Nat) (s : State) : RecordFrame x s s :=
  ⟨rfl, rfl, rfl, rfl, rfl, rfl, rfl, fun y => ⟨(s.origin y).overflow, rfl⟩, rfl, id, fun _ _ => rfl⟩

theorem RecordFrame.sameOwn {x : Nat} {s t : State} (h : RecordFrame x s t) : t.own = s.own :=
  congrArg (fun c : StationControl => c.straps.station.toNat) h.control

theorem RecordFrame.trans {x : Nat} {s t u : State} (h : RecordFrame x s t) (k : RecordFrame x t u) :
    RecordFrame x s u := by
  have same := h.sameOwn
  refine ⟨k.control.trans h.control, k.scanner.trans h.scanner, k.merge.trans h.merge, k.riser.trans h.riser,
    k.store.trans h.store, k.due.trans h.due, k.length.trans h.length, fun y => ?_, k.recovery.trans h.recovery,
    fun r => k.rising (h.rising r), fun foreign i => ?_⟩
  · obtain ⟨_, before⟩ := h.origin y
    obtain ⟨b, after⟩ := k.origin y
    exact ⟨b, by rw [after, before]⟩
  · have late := k.own (same ▸ foreign) i
    rw [same] at late
    exact late.trans (h.own foreign i)

theorem RemovalFrame.recordFrame {x : Nat} {s t : State} (h : RemovalFrame s t)
    (rising : Rising s.entries → Rising t.entries)
    (own : x ≠ s.own → ∀ i, t.entryAt ⟨s.own, i⟩ = s.entryAt ⟨s.own, i⟩) : RecordFrame x s t :=
  ⟨h.control, h.scanner, h.merge, h.riser, h.store, h.due, congrArg List.length h.origins,
    fun y => ⟨(s.origin y).overflow, origin_congr h.origins y⟩, congrArg _ h.recovery, rising, own⟩

theorem Told.recordFrame {s t : State} (h : Told s t) (x : Nat) : RecordFrame x s t :=
  h.removalFrame.recordFrame (fun r => by rw [State.entries, h.table]; exact r) fun _ _ => entryAt_congr h.table _

theorem putEntry_recordFrame (s : State) (e : Entry) : RecordFrame e.addr.station s (s.putEntry e) :=
  (putEntry_frame e s).recordFrame (rising_putEntry e) fun foreign _ =>
    entryAt_putEntry_ne _ _ _ fun k => foreign (congrArg Address.station k).symm

theorem placeEntry_recordFrame (e : Entry) (s : State) : RecordFrame e.addr.station s (placeEntry e s) :=
  (putEntry_recordFrame s e).trans ((emit_told _ _).recordFrame _)

theorem toldWrite_entries (old new : Entry) (s : State) :
    (toldWrite old new s).entries = Machine.putEntry new s.entries :=
  congrArg PictureTable.entries (toldWrite_told old new s).table

theorem rewriteEntry_rising {s : State} (r : Rising s.entries) (old new : Entry) :
    Rising (rewriteEntry old new s).entries := by
  have written : Rising (toldWrite old new s).entries := by
    rw [toldWrite_entries]
    exact rising_putEntry new r
  rw [rewriteEntry_eq]
  split
  · rw [removeByHold_entries]
    exact rising_dropEntry _ written
  · exact written

theorem rewriteEntry_recordFrame (old new : Entry) (s : State) :
    RecordFrame new.addr.station s (rewriteEntry old new s) :=
  (rewriteEntry_frame old new s).recordFrame (fun r => rewriteEntry_rising r old new) fun foreign _ =>
    rewriteEntry_entryAt_ne (fun k => foreign (congrArg Address.station k).symm) old s

theorem noteLoss_recordFrame (x y : Nat) (s : State) : RecordFrame x s (noteLoss y s) := by
  have entries := noteLoss_entries y s
  obtain ⟨r, slot, eq⟩ := noteLoss_eq y s
  rw [eq] at entries ⊢
  refine ⟨modOrigin_control _ _ _, modOrigin_scanner _ _ _, modOrigin_merge _ _ _, modOrigin_riser _ _ _,
    modOrigin_store _ _ _, modOrigin_due _ _ _, modOrigin_origins_length _ _ _, fun z => ?_, slot,
    fun h => entries.symm ▸ h, fun _ i => congrArg (List.find? _) entries⟩
  change ∃ b, (s.modOrigin y fun o => { o with overflow := true }).origin z = _
  by_cases same : z = y
  · subst same
    by_cases inside : 1 ≤ z ∧ z ≤ s.table.origins.length
    · exact ⟨true, origin_modOrigin_same inside.1 inside.2 _⟩
    · refine ⟨(s.origin z).overflow, ?_⟩
      have still : (s.modOrigin z fun o => { o with overflow := true }).origin z = s.origin z := by
        by_cases zero : z = 0
        · rw [zero]
          rfl
        · rw [origin_outside (s := s) (by omega), origin_outside (by rw [modOrigin_origins_length]; omega)]
      rw [still]
  · exact ⟨(s.origin z).overflow, by rw [origin_modOrigin_ne same]⟩

theorem evictEntry_recordFrame (x : Nat) {s : State} {v : Entry} (foreign : v.addr.station ≠ s.own) :
    RecordFrame x s (evictEntry v s) := by
  have dropped : RecordFrame x s (s.dropEntry v.addr) :=
    RemovalFrame.recordFrame ⟨rfl, rfl, rfl, rfl, rfl, rfl, rfl, rfl, rfl, rfl, rfl⟩ (rising_dropEntry _)
      fun _ i => by
        rw [entryAt_dropEntry, if_neg fun k => foreign (congrArg Address.station k).symm]
  exact dropped.trans (((emit_told _ _).recordFrame x).trans (noteLoss_recordFrame x _ _))

theorem presentRecord_recordFrame (x : Nat) (r : Record) (s : State) : RecordFrame x s (presentRecord x r s) := by
  unfold presentRecord
  split
  · exact .refl x s
  · split
    · exact placeEntry_recordFrame (entryOfRecord x r s.now) s
    · split
      case _ v victim =>
        split
        · exact (evictEntry_recordFrame x (mem_foreign.mp (victim_mem_foreign victim)).2).trans
            (placeEntry_recordFrame (entryOfRecord x r s.now) _)
        · exact noteLoss_recordFrame x x s
      case _ => exact noteLoss_recordFrame x x s

theorem applyLevel_eq (e : Entry) (r : Record) (s : State) : applyLevel e r s =
    if e.datum = .level r.value then s.putEntry { e with datum := .level r.value, learned := s.now }
    else emit (plainChange .level { e with datum := .level r.value, learned := s.now })
      (s.putEntry { e with datum := .level r.value, learned := s.now }) := rfl

theorem applyLevel_told (e : Entry) (r : Record) (s : State) :
    Told (s.putEntry { e with datum := .level r.value, learned := s.now }) (applyLevel e r s) := by
  rw [applyLevel_eq]
  split
  · exact .refl _
  · exact emit_told _ _

theorem applyRecord_recordFrame (x : Nat) (r : Record) (s : State) : RecordFrame x s (applyRecord x r s) := by
  unfold applyRecord
  split
  case _ e held _ =>
    have station : e.addr.station = x := congrArg Address.station (addr_of_entryAt held)
    have put := putEntry_recordFrame s { e with datum := .level r.value, learned := s.now }
    rw [← station]
    exact put.trans ((applyLevel_told e r s).recordFrame _)
  case _ => exact .refl x s
  case _ _ e held _ =>
    have station : e.addr.station = x := congrArg Address.station (addr_of_entryAt held)
    rw [← station]
    exact rewriteEntry_recordFrame e (updateByRecord e r s.now) s
  case _ => exact presentRecord_recordFrame x r s

theorem applyRecordBytes_recordFrame (x : Nat) (b : List Byte) (s : State) :
    RecordFrame x s (applyRecordBytes x s b) := by
  unfold applyRecordBytes
  split
  · exact applyRecord_recordFrame x _ s
  · exact .refl x s

theorem applyRecords_recordFrame (x : Nat) (f : RxFrame) (s : State) : RecordFrame x s (applyRecords x f s) :=
  foldl_keeps (P := RecordFrame x s) (fun t b h => h.trans (applyRecordBytes_recordFrame x b t)) _ s (.refl x s)

/-! ## A record for a held entry (R27, R62, R64) -/

theorem applyRecord_level {s : State} {x : Nat} {r : Record} {e : Entry} (held : s.entryAt ⟨x, r.index⟩ = some e)
    (kind : r.kind = .level) : applyRecord x r s = applyLevel e r s := by
  unfold applyRecord
  rw [held, kind]

theorem applyRecord_rewrite {s : State} {x : Nat} {r : Record} {e : Entry} (held : s.entryAt ⟨x, r.index⟩ = some e)
    (kind : r.kind ≠ .level) : applyRecord x r s = rewriteEntry e (updateByRecord e r s.now) s := by
  unfold applyRecord
  rw [held]
  cases k : r.kind with
  | level => exact absurd k kind
  | point => rfl
  | marker => rfl

theorem applyLevel_frame (e : Entry) (r : Record) (s : State) : RemovalFrame s (applyLevel e r s) :=
  (putEntry_frame _ s).trans (applyLevel_told e r s).removalFrame

/-- The record of a held entry: the entry it leaves, and what the blocks that follow hear. -/
theorem applyRecord_held {x : Nat} {r : Record} {e new : Entry} {s : State}
    (held : s.entryAt ⟨x, r.index⟩ = some e) (update : new = updateByRecord e r s.now) :
    (∀ a, a ≠ ⟨x, r.index⟩ → (applyRecord x r s).entryAt a = s.entryAt a) ∧
    RemovalFrame s (applyRecord x r s) ∧
    (∀ level : Entry, r.kind = .level → level = { e with datum := .level r.value, learned := s.now } →
      (applyRecord x r s).entryAt ⟨x, r.index⟩ = some level ∧
      (e.datum = level.datum → FollowersSame s (applyRecord x r s)) ∧
      (e.datum ≠ level.datum →
        FollowersSame (emit ⟨.level, level, none, none⟩ (s.putEntry level)) (applyRecord x r s))) ∧
    (r.kind ≠ .level →
      (applyRecord x r s).entryAt ⟨x, r.index⟩ = (if s.rewriteGone e new = true then none else some new) ∧
      ToldOfWrite e new (s.rewriteGone e new) s (applyRecord x r s)) := by
  have addr := addr_of_entryAt held
  by_cases kind : r.kind = .level
  · rw [applyRecord_level held kind]
    let level : Entry := { e with datum := .level r.value, learned := s.now }
    have table := (applyLevel_told e r s).table
    refine ⟨fun a apart => ?_, applyLevel_frame e r s, fun l _ eq => ?_, fun k => absurd kind k⟩
    · rw [entryAt_congr table]
      exact entryAt_putEntry_ne s level a (addr ▸ apart)
    · subst eq
      refine ⟨?_, fun same => ?_, fun other => ?_⟩
      · rw [entryAt_congr table, ← addr]
        exact entryAt_putEntry_same s level
      · rw [applyLevel_eq, if_pos same]
        exact ⟨rfl, rfl, rfl⟩
      · rw [applyLevel_eq, if_neg other]
        exact ⟨rfl, rfl, rfl⟩
  · rw [applyRecord_rewrite held kind, ← update]
    have addr : new.addr = ⟨x, r.index⟩ := by rw [update]; exact addr
    refine ⟨fun a apart => rewriteEntry_entryAt_ne (addr ▸ apart) e s, rewriteEntry_frame e new s,
      fun _ k => absurd k kind, fun _ => ⟨?_, toldOfWrite_rewriteEntry e new s⟩⟩
    rw [← addr]
    exact rewriteEntry_entryAt_same e new s

/-! ## An accepted frame -/

/-- A change of a record into what it is already. -/
theorem modOrigin_self {s : State} {x : Nat} {f : OriginRecord → OriginRecord} (h : f (s.origin x) = s.origin x) :
    s.modOrigin x f = s := by
  have same (l : List OriginRecord) (n : Nat) (k : f (l.getD n .cold) = l.getD n .cold) : updAt l n f = l := by
    induction l generalizing n with
    | nil => rfl
    | cons o l ih =>
      cases n with
      | zero => exact congrArg (· :: l) k
      | succ n => exact congrArg (o :: ·) (ih n k)
  unfold State.modOrigin
  split
  · rfl
  case isFalse some =>
    rw [State.origin, if_neg some] at h
    rw [same _ _ h]
    rfl

theorem modOrigin_modOrigin (s : State) (x : Nat) (f g : OriginRecord → OriginRecord) :
    (s.modOrigin x f).modOrigin x g = s.modOrigin x (fun o => g (f o)) := by
  have twice (l : List OriginRecord) (n : Nat) : updAt (updAt l n f) n g = updAt l n (fun o => g (f o)) := by
    induction l generalizing n with
    | nil => rfl
    | cons o l ih =>
      cases n with
      | zero => rfl
      | succ n => exact congrArg (o :: ·) (ih n)
  unfold State.modOrigin
  split
  · rfl
  · simp only [withTable_table, twice]
    rfl

/-- The take of a frame of the kind at the head of the queue. -/
theorem takeHead_eq {s : State} {f : RxFrame} {rest : List RxFrame} (running : s.control.step ≠ .held)
    (queue : s.merge.queue = f :: rest) :
    takeHead f.kind s = takeFrame f (s.withMerge { s.merge with queue := rest }) := by
  rw [takeHead, queue]
  exact if_pos ⟨rfl, running⟩

theorem exec_takeOf {s : State} (free : s.control.resetHeld = false) (k : FrameKind) :
    exec (takeOf k) s = .next (takeHead k (atOnce s)) := by
  cases k <;>
  · change Host.Outcome.next (framed _ s) = _
    rw [framed_free free]

theorem takeFrame_passed {f : RxFrame} {s : State} (flags : flagsAgree f = true) (body : bodyAgrees f = true) :
    takeFrame f s =
      match classFrame (s.origin f.station).held f with
      | .duplicate => s.withMerge { s.merge with repeats := sat16 s.merge.repeats }
      | .old => s.withMerge { s.merge with old := sat16 s.merge.old }
      | .inOrder => applyFrame f .inOrder s
      | .ahead => applyFrame f .ahead s
      | .first => applyFrame f .first s
      | .absentHeld => applyFrame f .absentHeld s := by
  rw [takeFrame, flags, body]
  rfl

theorem flagsAgree_plain {f : RxFrame} (flags : flagsAgree f = true) (kind : f.kind ≠ .fullset) :
    f.first = false ∧ f.last = false ∧ f.start = false := by
  unfold flagsAgree at flags
  cases k : f.kind with
  | fullset => exact absurd k kind
  | _ => simpa [k, and_assoc] using flags

theorem classFrame_inOrder {f : RxFrame} {h : Nat} (first : f.first = false) (start : f.start = false)
    (next : seqDistance h f.seq = 1) : classFrame (some h) f = .inOrder := by
  simp [classFrame, first, start, next, classOfDistance]

/-- A frame in order from a LIVE origin leaves the status as it is. -/
theorem moveStatus_live {x : Nat} {s : State} (live : (s.origin x).status = .live) : moveStatus x .inOrder s = s := by
  have same : s.modOrigin x (fun o => { o with status := .live }) = s := modOrigin_self (by rw [← live])
  simp [moveStatus, live, statusMove, same]

/-- A frame without flags, accepted in order from a LIVE origin: its number, its body, and the count check of a
SUMMARY. -/
theorem applyFrame_live {f : RxFrame} {s : State} (first : f.first = false) (last : f.last = false)
    (live : (s.origin f.station).status = .live) : applyFrame f .inOrder s =
      let applied := applyBody f.station f (s.modOrigin f.station fun o => { o with held := some f.seq })
      if f.kind = .summary then checkCount f.station (byteAt f.body 0) applied else applied := by
  simp [applyFrame, moveStatus_live live, first, last, completesSeries]

theorem exec_live {f : RxFrame} {rest : List RxFrame} {h : Nat} {s u : State} (free : s.control.resetHeld = false)
    (settled : u = atOnce s) (running : u.control.step ≠ .held) (queue : u.merge.queue = f :: rest)
    (kind : f.kind ≠ .fullset) (flags : flagsAgree f = true) (body : bodyAgrees f = true)
    (held : (u.origin f.station).held = some h) (next : seqDistance h f.seq = 1)
    (live : (u.origin f.station).status = .live) : exec (takeOf f.kind) s = .next
      (let applied := applyBody f.station f ((u.withMerge { u.merge with queue := rest }).modOrigin f.station
        fun o => { o with held := some f.seq })
      if f.kind = .summary then checkCount f.station (byteAt f.body 0) applied else applied) := by
  obtain ⟨first, last, start⟩ := flagsAgree_plain flags kind
  have heldQueued : ((u.withMerge { u.merge with queue := rest }).origin f.station).held = some h := held
  have liveQueued : ((u.withMerge { u.merge with queue := rest }).origin f.station).status = .live := live
  rw [exec_takeOf free, ← settled, takeHead_eq running queue, takeFrame_passed flags body, heldQueued,
    classFrame_inOrder first start next]
  exact congrArg _ (applyFrame_live first last liveQueued)

/-- Settles O22: a record of a held entry by its kind, and a STATE frame in order from a LIVE origin record by
record. -/
theorem stateFrameAppliesItsRecords : Obligations.StateFrameAppliesItsRecords := by
  refine ⟨fun x r e new s t _ held done update => ?_, fun x r s absent kind => ?_,
    fun f rest h s u free settled running queue kind flags some few _ _ held next live => ?_⟩
  · subst done
    have update : new = updateByRecord e r s.now := by
      rw [update, updateByRecord, Record.datum, isLoopIndex, sinceOfAge]
      simp only [decide_eq_true_iff]
    obtain ⟨others, frame, level, rewrite⟩ := applyRecord_held held update
    refine ⟨others, frame.origins, frame.recovery, level, fun gone kind eq => ?_⟩
    have same : gone = s.rewriteGone e new := by rw [eq, State.rewriteGone, update]; rfl
    rw [same]
    exact rewrite kind
  · unfold applyRecord
    rw [absent, kind]
  · have body : bodyAgrees f = true := by
      rw [bodyAgrees, kind]
      exact decide_eq_true ⟨some, few⟩
    have taken := exec_live free settled running queue (by rw [kind]; decide) flags body held next live
    rw [kind] at taken
    refine taken.trans (congrArg _ ?_)
    rw [if_neg (by decide), applyBody, kind]
    rfl

end Sys2Proof.Machine
end

section
/-!
PROOFS. The take of a frame (chapter 3): O25 to O29.
-/
namespace Sys2Proof.Machine

/-! ## What the steps of an accepted frame leave (R57) -/

/-- The Merge Unit, the control and the number of origin records stand. -/
structure TakeFrame (s t : State) : Prop where
  merge : t.merge = s.merge
  control : t.control = s.control
  length : t.table.origins.length = s.table.origins.length

theorem TakeFrame.refl (s : State) : TakeFrame s s := ⟨rfl, rfl, rfl⟩

theorem TakeFrame.trans {s t u : State} (h : TakeFrame s t) (k : TakeFrame t u) : TakeFrame s u :=
  ⟨k.merge.trans h.merge, k.control.trans h.control, k.length.trans h.length⟩

theorem RecordFrame.takeFrame {x : Nat} {s t : State} (h : RecordFrame x s t) : TakeFrame s t :=
  ⟨h.merge, h.control, h.length⟩

theorem Told.takeFrame {s t : State} (h : Told s t) : TakeFrame s t :=
  ⟨h.merge, h.control, congrArg (fun t : PictureTable => t.origins.length) h.table⟩

theorem modOrigin_takeFrame (s : State) (x : Nat) (f : OriginRecord → OriginRecord) : TakeFrame s (s.modOrigin x f) :=
  ⟨modOrigin_merge _ _ _, modOrigin_control _ _ _, modOrigin_origins_length _ _ _⟩

theorem withTable_takeFrame (s : State) {v : PictureTable} (h : v.origins.length = s.table.origins.length) :
    TakeFrame s (s.withTable v) := ⟨rfl, rfl, h⟩

/-! ### The status (R56) -/

theorem setSweep_origins (x : Nat) (b : Bool) (s : State) : (setSweep x b s).table.origins = s.table.origins := rfl

theorem moveStatus_cases (x : Nat) (c : FrameClass) (s : State) :
    TakeFrame s (moveStatus x c s) ∧ (∀ y, y ≠ x → (moveStatus x c s).origin y = s.origin y) ∧
    (1 ≤ x → x ≤ s.table.origins.length → (moveStatus x c s).origin x = { s.origin x with
      status := (statusMove (s.origin x).status c).1
      resync := if (statusMove (s.origin x).status c).2 then (s.origin x).resync.want else (s.origin x).resync }) := by
  let moved := s.modOrigin x fun o => { o with status := (statusMove (s.origin x).status c).1 }
  let asked := if (statusMove (s.origin x).status c).2 = true then wantSeries x moved else moved
  have last : ∃ r l, moveStatus x c s = (asked.setEntries l).withTable
      { (asked.setEntries l).table with recovery := r } := by
    unfold moveStatus
    dsimp only
    split
    · obtain ⟨r, eq⟩ := failRecovery_eq x (setSweep x false asked)
      exact ⟨r, _, eq⟩
    · exact ⟨asked.table.recovery, asked.table.entries, rfl⟩
  obtain ⟨r, l, eq⟩ := last
  have origin (y : Nat) : (moveStatus x c s).origin y = asked.origin y := by rw [eq]; rfl
  have kept : TakeFrame asked (moveStatus x c s) := by rw [eq]; exact ⟨rfl, rfl, rfl⟩
  have first := modOrigin_takeFrame s x fun o => { o with status := (statusMove (s.origin x).status c).1 }
  by_cases want : (statusMove (s.origin x).status c).2 = true
  · have asked_eq : asked = wantSeries x moved := if_pos want
    rw [asked_eq] at origin kept
    refine ⟨first.trans ((modOrigin_takeFrame _ _ _).trans kept), fun y apart => ?_, fun low high => ?_⟩
    · rw [origin, wantSeries, origin_modOrigin_ne apart, origin_modOrigin_ne apart]
    · rw [origin, wantSeries, modOrigin_modOrigin, origin_modOrigin_same low high, if_pos want]
  · have asked_eq : asked = moved := if_neg want
    rw [asked_eq] at origin kept
    refine ⟨first.trans kept, fun y apart => ?_, fun low high => ?_⟩
    · rw [origin, origin_modOrigin_ne apart]
    · rw [origin, origin_modOrigin_same low high, if_neg want]

/-- A frame that puts its origin in RESYNCING, or leaves it there, only writes the status. -/
theorem moveStatus_resyncing {x : Nat} {c : FrameClass} {s : State}
    (moves : statusMove (s.origin x).status c = (.resyncing, false)) :
    moveStatus x c s = s.modOrigin x fun o => { o with status := .resyncing } := by
  simp [moveStatus, moves]

/-! ### The beginning of a series (R58, R59, R105) -/

theorem clearLoss_eq (x : Nat) (s : State) : ∃ r, clearLoss x s = s.withTable { s.table with recovery := r } := by
  unfold clearLoss
  split
  · split
    · exact ⟨_, rfl⟩
    · exact ⟨s.table.recovery, rfl⟩
  · exact ⟨s.table.recovery, rfl⟩

theorem beginSeries_eq (x : Nat) (s : State) : ∃ r, beginSeries x s =
    ((setSweep x true s).withTable { (setSweep x true s).table with recovery := r }).modOrigin x
      fun o => { o with resync := .none } := by
  obtain ⟨r, eq⟩ := clearLoss_eq x (setSweep x true s)
  exact ⟨r, by rw [beginSeries, hearFirst, eq]⟩

theorem beginSeries_takeFrame (x : Nat) (s : State) : TakeFrame s (beginSeries x s) := by
  obtain ⟨r, eq⟩ := beginSeries_eq x s
  rw [eq]
  exact (withTable_takeFrame s (v := { (setSweep x true s).table with recovery := r }) rfl).trans
    (modOrigin_takeFrame _ _ _)

theorem beginSeries_origin {s : State} {x : Nat} (low : 1 ≤ x) (high : x ≤ s.table.origins.length) :
    (beginSeries x s).origin x = { s.origin x with resync := .none } := by
  obtain ⟨r, eq⟩ := beginSeries_eq x s
  rw [eq]
  exact origin_modOrigin_same (s := s.withTable { (setSweep x true s).table with recovery := r }) low high _

/-! ### The names of a RESYNC (R101, R104) -/

theorem await_await (r : Resync) : r.await.await = r.await := by cases r <;> rfl

theorem await_eq (r : Resync) : r.await = if r = .none then .none else .awaiting 40 := by cases r <;> rfl

theorem hearName_takeFrame (s : State) (y : Nat) : TakeFrame s (hearName s y) := by
  unfold hearName
  split
  · exact ⟨rfl, rfl, rfl⟩
  · split
    · exact modOrigin_takeFrame _ _ _
    · exact .refl s

theorem hearName_entries (s : State) (y : Nat) : (hearName s y).table.entries = s.table.entries := by
  unfold hearName
  split
  · rfl
  · split
    · exact modOrigin_table_entries _ _ _
    · rfl

theorem hearName_fullsetDue (s : State) (y : Nat) :
    (hearName s y).pub.fullsetDue = (s.pub.fullsetDue || y == s.own) := by
  unfold hearName
  split
  case isTrue own => rw [beq_iff_eq.mpr own, Bool.or_true]; rfl
  case isFalse other =>
    rw [beq_eq_false_iff_ne.mpr other, Bool.or_false]
    split
    · exact congrArg Publisher.fullsetDue (modOrigin_pub _ _ _)
    · rfl

theorem hearName_origin_other {s : State} {x y : Nat} (other : ¬(x ≠ s.own ∧ y = x)) :
    (hearName s y).origin x = s.origin x := by
  unfold hearName
  split
  · rfl
  case isFalse notOwn =>
    split
    · refine origin_modOrigin_ne (fun same => other ⟨?_, same.symm⟩) _ _
      exact fun own => notOwn (same.symm.trans own)
    · rfl

theorem hearName_origin_named {s : State} {x : Nat} (low : 1 ≤ x) (valid : x ≤ 250)
    (high : x ≤ s.table.origins.length) (foreign : x ≠ s.own) :
    (hearName s x).origin x = { s.origin x with resync := (s.origin x).resync.await } := by
  have is : validStation x = true := (validStation_iff x).mpr ⟨low, valid⟩
  rw [hearName, if_neg foreign, if_pos is, awaitOrigin, origin_modOrigin_same low high]

theorem hearNames_keeps {P : State → Prop} {s : State} (h : P s) (names : List Nat)
    (keeps : ∀ t y, P t → P (hearName t y)) : P (hearNames names s) := foldl_keeps (P := P) keeps names s h

theorem hearNames_takeFrame (names : List Nat) (s : State) : TakeFrame s (hearNames names s) :=
  hearNames_keeps (P := TakeFrame s) (.refl s) names fun t y k => k.trans (hearName_takeFrame t y)

theorem hearName_own (s : State) (y : Nat) : (hearName s y).own = s.own :=
  congrArg (fun c : StationControl => c.straps.station.toNat) (hearName_takeFrame s y).control

theorem hearNames_fullsetDue (names : List Nat) (s : State) :
    (hearNames names s).pub.fullsetDue = (s.pub.fullsetDue || names.any (· == s.own)) := by
  induction names generalizing s with
  | nil => exact (Bool.or_false _).symm
  | cons y names ih =>
    refine (ih (hearName s y)).trans ?_
    rw [hearName_fullsetDue, hearName_own, List.any_cons, Bool.or_assoc]

theorem hearNames_origin_other {names : List Nat} {s : State} {x : Nat} (other : ¬(x ≠ s.own ∧ x ∈ names)) :
    (hearNames names s).origin x = s.origin x := by
  induction names generalizing s with
  | nil => rfl
  | cons y names ih =>
    have first : ¬(x ≠ s.own ∧ y = x) := fun k => other ⟨k.1, k.2 ▸ List.mem_cons_self⟩
    have rest : ¬(x ≠ (hearName s y).own ∧ x ∈ names) := fun k =>
      other ⟨hearName_own s y ▸ k.1, List.mem_cons_of_mem _ k.2⟩
    exact (ih rest).trans (hearName_origin_other first)

theorem hearNames_origin_named {names : List Nat} {s : State} {x : Nat} (low : 1 ≤ x) (valid : x ≤ 250)
    (high : x ≤ s.table.origins.length) (foreign : x ≠ s.own) (named : x ∈ names) :
    (hearNames names s).origin x = { s.origin x with resync := (s.origin x).resync.await } := by
  induction names generalizing s with
  | nil => cases named
  | cons y names ih =>
    have frame := hearName_takeFrame s y
    have own := hearName_own s y
    by_cases here : y = x
    · subst here
      have first := hearName_origin_named low valid high foreign
      by_cases again : y ∈ names
      · refine (ih (s := hearName s y) (frame.length ▸ high) (own ▸ foreign) again).trans ?_
        rw [first, await_await]
      · exact (hearNames_origin_other fun k => again k.2).trans first
    · have later : x ∈ names := (List.mem_cons.mp named).resolve_left fun k => here k.symm
      refine (ih (s := hearName s y) (frame.length ▸ high) (own ▸ foreign) later).trans ?_
      rw [hearName_origin_other fun k => here k.2]

/-! ### The body (R61, R65, R101, R104) -/

theorem hearRevision_told (rev : Nat) (s : State) : Told s (hearRevision rev s) := by
  unfold hearRevision
  split
  · exact .refl s
  · exact raiseAll_told _ _

/-- The record of an origin after a SUMMARY of it. -/
def OriginRecord.summed (body : List Byte) (o : OriginRecord) : OriginRecord :=
  { o with
    revision := if (body.getD 1 0).getLsbD 0 then some (fieldAt body 2) else none
    conditions := some ((body.getD 4 0) &&& 0x1F) }

theorem applySummary_told (x : Nat) (body : List Byte) (s : State) :
    Told (s.modOrigin x (.summed body)) (applySummary x body s) := by
  unfold applySummary
  dsimp only
  split
  · split
    · exact .refl _
    · exact hearRevision_told _ _
  · exact .refl _

/-- The resync state after a body is applied: a RESYNC that names its own sender (R104). -/
def State.namesSender (s : State) (f : RxFrame) : Prop :=
  f.kind = .resync ∧ f.station ≠ s.own ∧ f.body.any (fun b => b.toNat == f.station) = true

theorem mem_names {f : RxFrame} {x : Nat} : x ∈ f.body.map BitVec.toNat ↔ ∃ b ∈ f.body, b.toNat = x := List.mem_map

theorem applyBody_takeFrame (x : Nat) (f : RxFrame) (s : State) : TakeFrame s (applyBody x f s) := by
  unfold applyBody
  split
  · exact (applyRecords_recordFrame x f s).takeFrame
  · exact (applyRecords_recordFrame x f s).takeFrame
  · exact (modOrigin_takeFrame _ _ _).trans (applySummary_told x f.body s).takeFrame
  · exact hearNames_takeFrame _ _

/-- What a change of a record leaves of every record. -/
theorem modOrigin_leaves {β : Type} (g : OriginRecord → β) {f : OriginRecord → OriginRecord}
    (leaves : ∀ o, g (f o) = g o) (s : State) (x y : Nat) : g ((s.modOrigin x f).origin y) = g (s.origin y) := by
  by_cases same : y = x
  · subst same
    by_cases inside : 1 ≤ y ∧ y ≤ s.table.origins.length
    · rw [origin_modOrigin_same inside.1 inside.2, leaves]
    · by_cases zero : y = 0
      · rw [zero]
        rfl
      · rw [origin_outside (s := s) (by omega), origin_outside (by rw [modOrigin_origins_length]; omega)]
  · rw [origin_modOrigin_ne same]

theorem hearName_leaves (s : State) (y x : Nat) : ((hearName s y).origin x).status = (s.origin x).status ∧
    ((hearName s y).origin x).held = (s.origin x).held := by
  unfold hearName
  split
  · exact ⟨rfl, rfl⟩
  · split
    · exact ⟨modOrigin_leaves (f := fun o => { o with resync := o.resync.await }) OriginRecord.status (fun _ => rfl) s y x,
        modOrigin_leaves (f := fun o => { o with resync := o.resync.await }) OriginRecord.held (fun _ => rfl) s y x⟩
    · exact ⟨rfl, rfl⟩

theorem applyBody_leaves (x : Nat) (f : RxFrame) (s : State) :
    ((applyBody x f s).origin x).status = (s.origin x).status ∧
    ((applyBody x f s).origin x).held = (s.origin x).held := by
  have records : ((applyRecords x f s).origin x).status = (s.origin x).status ∧
      ((applyRecords x f s).origin x).held = (s.origin x).held := by
    obtain ⟨b, eq⟩ := (applyRecords_recordFrame x f s).origin x
    rw [eq]
    exact ⟨rfl, rfl⟩
  unfold applyBody
  split
  · exact records
  · exact records
  · rw [origin_congr (congrArg PictureTable.origins (applySummary_told x f.body s).table)]
    exact ⟨modOrigin_leaves (f := .summed f.body) OriginRecord.status (fun _ => rfl) s x x,
      modOrigin_leaves (f := .summed f.body) OriginRecord.held (fun _ => rfl) s x x⟩
  · exact hearNames_keeps (P := fun t : State => (t.origin x).status = (s.origin x).status ∧
      (t.origin x).held = (s.origin x).held) ⟨rfl, rfl⟩ _ fun t y k =>
        ⟨(hearName_leaves t y x).1.trans k.1, (hearName_leaves t y x).2.trans k.2⟩

theorem applyBody_resync {f : RxFrame} {s : State} (low : 1 ≤ f.station) (valid : f.station ≤ 250)
    (high : f.station ≤ s.table.origins.length) :
    (s.namesSender f → ((applyBody f.station f s).origin f.station).resync = (s.origin f.station).resync.await) ∧
    (¬s.namesSender f → ((applyBody f.station f s).origin f.station).resync = (s.origin f.station).resync) := by
  have records (kind : f.kind ≠ .resync) :
      (s.namesSender f → ((applyRecords f.station f s).origin f.station).resync = (s.origin f.station).resync.await) ∧
      (¬s.namesSender f → ((applyRecords f.station f s).origin f.station).resync = (s.origin f.station).resync) := by
    obtain ⟨b, eq⟩ := (applyRecords_recordFrame f.station f s).origin f.station
    rw [eq]
    exact ⟨fun k => absurd k.1 kind, fun _ => rfl⟩
  unfold applyBody
  split
  case _ kind => exact records (by rw [kind]; decide)
  case _ kind => exact records (by rw [kind]; decide)
  case _ kind =>
    rw [origin_congr (congrArg PictureTable.origins (applySummary_told f.station f.body s).table),
      origin_modOrigin_same low high]
    exact ⟨fun k => absurd (kind.symm.trans k.1) (by decide), fun _ => rfl⟩
  case _ kind =>
    have named : s.namesSender f ↔ f.station ≠ s.own ∧ f.station ∈ f.body.map BitVec.toNat := by
      rw [mem_names, State.namesSender, List.any_eq_true]
      simp only [kind, true_and, beq_iff_eq]
    by_cases is : f.station ≠ s.own ∧ f.station ∈ f.body.map BitVec.toNat
    · rw [hearNames_origin_named low valid high is.1 is.2]
      exact ⟨fun _ => rfl, fun k => absurd (named.mpr is) k⟩
    · rw [hearNames_origin_other is]
      exact ⟨fun k => absurd (named.mp k) is, fun _ => rfl⟩

/-! ### The end of a series (R31, R40, R60) and the count check (R66) -/

theorem removeBySweep_told (e : Entry) (s : State) : Told (s.dropEntry e.addr) (removeBySweep e s) := emit_told _ _

theorem dropEntry_takeFrame (s : State) (a : Address) : TakeFrame s (s.dropEntry a) := ⟨rfl, rfl, rfl⟩

theorem sweepOrigin_takeFrame (x : Nat) (s : State) : TakeFrame s (sweepOrigin x s) :=
  foldl_keeps (P := TakeFrame s)
    (fun t e k => k.trans ((dropEntry_takeFrame t e.addr).trans (removeBySweep_told e t).takeFrame)) _ s (.refl s)

theorem sweepOrigin_origins (x : Nat) (s : State) : (sweepOrigin x s).table.origins = s.table.origins :=
  foldl_keeps (P := fun t : State => t.table.origins = s.table.origins)
    (fun t e k => (congrArg PictureTable.origins (removeBySweep_told e t).table).trans k) _ s rfl

theorem endRecovery_cases (x : Nat) (s : State) : ∃ r, (∀ q, r = some q → q.origin ≠ x) ∧
    (endRecovery x s = s.withTable { s.table with recovery := r } ∨
      endRecovery x s = (s.withTable { s.table with recovery := r }).modOrigin x
        fun o => { o with overflow := false }) := by
  unfold endRecovery
  split
  case _ r held =>
    split
    case isTrue =>
      refine ⟨none, (fun q k => nomatch k), ?_⟩
      dsimp only
      split
      · exact .inl rfl
      · exact .inr rfl
    case isFalse other =>
      exact ⟨some r, fun q k => Option.some.inj k ▸ other, .inl (by rw [← held]; rfl)⟩
  case _ none =>
    exact ⟨Option.none, (fun q k => nomatch k), .inl (by rw [← none]; rfl)⟩

theorem endRecovery_takeFrame (x : Nat) (s : State) : TakeFrame s (endRecovery x s) := by
  obtain ⟨r, _, eq | eq⟩ := endRecovery_cases x s
  · rw [eq]; exact ⟨rfl, rfl, rfl⟩
  · rw [eq]
    exact (withTable_takeFrame s (v := { s.table with recovery := r }) rfl).trans (modOrigin_takeFrame _ _ _)

theorem endRecovery_origin {s : State} {x : Nat} (low : 1 ≤ x) (high : x ≤ s.table.origins.length) :
    ∃ b, (endRecovery x s).origin x = { s.origin x with overflow := b } := by
  obtain ⟨r, _, eq | eq⟩ := endRecovery_cases x s
  · exact ⟨(s.origin x).overflow, by rw [eq]; rfl⟩
  · refine ⟨false, ?_⟩
    rw [eq]
    exact origin_modOrigin_same (s := s.withTable { s.table with recovery := r }) low high _

theorem finishSeries_takeFrame (x : Nat) (s : State) : TakeFrame s (finishSeries x s) :=
  (sweepOrigin_takeFrame x s).trans ((modOrigin_takeFrame _ _ _).trans (endRecovery_takeFrame x _))

theorem finishSeries_origin {s : State} {x : Nat} (low : 1 ≤ x) (high : x ≤ s.table.origins.length) :
    ∃ b, (finishSeries x s).origin x = { s.origin x with status := .live, overflow := b } := by
  have swept := sweepOrigin_takeFrame x s
  obtain ⟨b, eq⟩ := endRecovery_origin (s := (sweepOrigin x s).modOrigin x fun o => { o with status := .live }) low
    (by rw [modOrigin_origins_length, swept.length]; exact high)
  refine ⟨b, eq.trans ?_⟩
  rw [origin_modOrigin_same low (swept.length ▸ high), origin_congr (sweepOrigin_origins x s)]

theorem checkCount_cases (x n : Nat) (s : State) : checkCount x n s = s ∨
    ((s.origin x).status = .live ∧ checkCount x n s = s.modOrigin x
      fun o => { o with status := .gapped, resync := o.resync.want }) := by
  unfold checkCount
  dsimp only
  split
  case isTrue met => exact .inr ⟨met.1, by rw [wantSeries, modOrigin_modOrigin]⟩
  case isFalse => exact .inl rfl

theorem checkCount_takeFrame (x n : Nat) (s : State) : TakeFrame s (checkCount x n s) := by
  rcases checkCount_cases x n s with eq | ⟨_, eq⟩
  · rw [eq]; exact .refl s
  · rw [eq]; exact modOrigin_takeFrame _ _ _

/-! ### The six steps (R57) -/

/-- The state at the body of an accepted frame: the status moved, the number held, a series begun. -/
def begunFrame (f : RxFrame) (c : FrameClass) (s : State) : State :=
  let numbered := (moveStatus f.station c s).modOrigin f.station fun o => { o with held := some f.seq }
  if f.first then beginSeries f.station numbered else numbered

/-- The state after the body and the end of a series. -/
def endedFrame (f : RxFrame) (c : FrameClass) (s : State) : State :=
  let applied := applyBody f.station f (begunFrame f c s)
  if completesSeries (s.origin f.station).held ((moveStatus f.station c s).origin f.station).status f then
    finishSeries f.station applied
  else applied

theorem applyFrame_eq (f : RxFrame) (c : FrameClass) (s : State) : applyFrame f c s =
    if f.kind = .summary then checkCount f.station (byteAt f.body 0) (endedFrame f c s) else endedFrame f c s := rfl

theorem begunFrame_takeFrame (f : RxFrame) (c : FrameClass) (s : State) : TakeFrame s (begunFrame f c s) := by
  have numbered := (moveStatus_cases f.station c s).1.trans
    (modOrigin_takeFrame (moveStatus f.station c s) f.station fun o => { o with held := some f.seq })
  unfold begunFrame
  dsimp only
  split
  · exact numbered.trans (beginSeries_takeFrame _ _)
  · exact numbered

theorem endedFrame_takeFrame (f : RxFrame) (c : FrameClass) (s : State) : TakeFrame s (endedFrame f c s) := by
  have applied := (begunFrame_takeFrame f c s).trans (applyBody_takeFrame f.station f _)
  unfold endedFrame
  dsimp only
  split
  · exact applied.trans (finishSeries_takeFrame _ _)
  · exact applied

theorem applyFrame_takeFrame (f : RxFrame) (c : FrameClass) (s : State) : TakeFrame s (applyFrame f c s) := by
  rw [applyFrame_eq]
  split
  · exact (endedFrame_takeFrame f c s).trans (checkCount_takeFrame _ _ _)
  · exact endedFrame_takeFrame f c s

section
variable {f : RxFrame} {c : FrameClass} {s : State} (low : 1 ≤ f.station) (high : f.station ≤ s.table.origins.length)
include low high

theorem begunFrame_origin : (begunFrame f c s).origin f.station = { s.origin f.station with
    status := (statusMove (s.origin f.station).status c).1
    held := some f.seq
    resync := if f.first then .none
      else if (statusMove (s.origin f.station).status c).2 then (s.origin f.station).resync.want
      else (s.origin f.station).resync } := by
  obtain ⟨frame, _, moved⟩ := moveStatus_cases f.station c s
  have inside := frame.length ▸ high
  unfold begunFrame
  dsimp only
  split
  case isTrue first =>
    rw [beginSeries_origin low (by rw [modOrigin_origins_length]; exact inside), origin_modOrigin_same low inside,
      moved low high]
  case isFalse first => rw [origin_modOrigin_same low inside, moved low high]

theorem endedFrame_origin :
    ((endedFrame f c s).origin f.station).held = some f.seq ∧
    ((endedFrame f c s).origin f.station).status =
      (if completesSeries (s.origin f.station).held (statusMove (s.origin f.station).status c).1 f then .live
        else (statusMove (s.origin f.station).status c).1) ∧
    ((endedFrame f c s).origin f.station).resync =
      ((applyBody f.station f (begunFrame f c s)).origin f.station).resync := by
  have begun := begunFrame_origin (c := c) low high
  have moved := (moveStatus_cases f.station c s).2.2 low high
  have begunHigh := (begunFrame_takeFrame f c s).length ▸ high
  obtain ⟨status, held⟩ := applyBody_leaves f.station f (begunFrame f c s)
  rw [begun] at status held
  have same : ((moveStatus f.station c s).origin f.station).status = (statusMove (s.origin f.station).status c).1 := by
    rw [moved]
  unfold endedFrame
  dsimp only
  rw [same]
  split
  · obtain ⟨b, eq⟩ := finishSeries_origin (s := applyBody f.station f (begunFrame f c s)) low
      (by rw [(applyBody_takeFrame f.station f _).length]; exact begunHigh)
    rw [eq]
    exact ⟨held, rfl, rfl⟩
  · exact ⟨held, status, rfl⟩

theorem applyFrame_held : ((applyFrame f c s).origin f.station).held = some f.seq := by
  obtain ⟨held, _⟩ := endedFrame_origin (c := c) low high
  rw [applyFrame_eq]
  split
  · rcases checkCount_cases f.station (byteAt f.body 0) (endedFrame f c s) with eq | ⟨_, eq⟩
    · rw [eq]; exact held
    · rw [eq, origin_modOrigin_same low ((endedFrame_takeFrame f c s).length ▸ high)]
      exact held
  · exact held

end

/-! ## The sequence window (R53, R55) -/

theorem classFrame_window {f : RxFrame} {h : Nat} (start : f.start = false) :
    classFrame (some h) f = classOfDistance (seqDistance h f.seq) f.first := by
  simp [classFrame, start]

/-- The frame as the Merge Unit takes it from the head of the queue. -/
theorem exec_taken {f : RxFrame} {rest : List RxFrame} {s u : State} (free : s.control.resetHeld = false)
    (settled : u = atOnce s) (running : u.control.step ≠ .held) (queue : u.merge.queue = f :: rest) :
    exec (takeOf f.kind) s = .next (takeFrame f (u.withMerge { u.merge with queue := rest })) := by
  rw [exec_takeOf free, ← settled, takeHead_eq running queue]

/-- The frame is accepted and applied with the class. -/
def Accepts (f : RxFrame) (c : FrameClass) (held : Option Nat) : Prop :=
  classFrame held f = c ∧ c ≠ .duplicate ∧ c ≠ .old

theorem takeFrame_accepted {f : RxFrame} {s : State} {c : FrameClass} (flags : flagsAgree f = true)
    (body : bodyAgrees f = true) (accepts : Accepts f c (s.origin f.station).held) :
    takeFrame f s = applyFrame f c s := by
  obtain ⟨cls, repeated, old⟩ := accepts
  rw [takeFrame_passed flags body, cls]
  cases c with
  | duplicate => exact absurd rfl repeated
  | old => exact absurd rfl old
  | _ => rfl

theorem classOfDistance_accepted {d : Nat} (low : 1 ≤ d) (high : d ≤ 2047) (first : Bool) :
    classOfDistance d first = if first then .first else if d = 1 then .inOrder else .ahead := by
  have some : ¬d = 0 := Nat.ne_of_gt low
  have young : ¬2048 ≤ d := by omega
  simp [classOfDistance, some, young]

theorem accepts_window {f : RxFrame} {h : Nat} (start : f.start = false) (low : 1 ≤ seqDistance h f.seq)
    (high : seqDistance h f.seq ≤ 2047) :
    Accepts f (if f.first then .first else if seqDistance h f.seq = 1 then .inOrder else .ahead) (some h) := by
  refine ⟨(classFrame_window start).trans (classOfDistance_accepted low high _), ?_, ?_⟩ <;>
  · split
    · decide
    · split <;> decide

/-- Settles O25: the class of the distance decides, and an accepted frame leaves the Merge Unit and writes its
number. -/
theorem sequenceWindowDiscardsOrAccepts : Obligations.SequenceWindowDiscardsOrAccepts := by
  intro f rest h d s u free settled running queue flags body start low high held _ _ distance
  have distance : d = seqDistance h f.seq := distance
  subst distance
  let queued := u.withMerge { u.merge with queue := rest }
  have heldQueued : (queued.origin f.station).held = some h := held
  have passed := takeFrame_passed (s := queued) flags body
  rw [heldQueued, classFrame_window start] at passed
  refine ⟨_, exec_taken free settled running queue, fun zero => ?_, fun far => ?_, fun some near => ?_⟩
  · rw [passed, classOfDistance, if_pos zero]
    simp only [sat16, satSucc_eq_min]
    rfl
  · rw [passed, classOfDistance, if_neg (by omega), if_pos far]
    simp only [sat16, satSucc_eq_min]
    rfl
  · have accepts := accepts_window start some near
    rw [takeFrame_accepted (s := queued) flags body (by rw [heldQueued]; exact accepts)]
    exact ⟨(applyFrame_takeFrame f _ queued).merge, applyFrame_held (s := queued) low high⟩

/-! ## The status of an origin (R56, R58) -/

theorem completesSeries_plain {held : Option Nat} {st : OriginStatus} {f : RxFrame} (first : f.first = false)
    (not : acceptedInOrder held f = false ∨ st ≠ .resyncing) : completesSeries held st f = false := by
  rcases not with no | no <;> simp [completesSeries, first, no]

theorem statusMove_gap {st : OriginStatus} {c : FrameClass} (h : c = .ahead ∨ c = .absentHeld ∨
    (c = .inOrder ∧ (st = .silent ∨ st = .unknown))) : statusMove st c = (.gapped, true) := by
  rcases h with rfl | rfl | ⟨rfl, rfl | rfl⟩
  · cases st <;> rfl
  · cases st <;> rfl
  · rfl
  · rfl

theorem applyFrame_of_not_live {f : RxFrame} {c : FrameClass} {s : State}
    (status : f.kind = .summary → ((endedFrame f c s).origin f.station).status ≠ .live) :
    applyFrame f c s = endedFrame f c s := by
  rw [applyFrame_eq]
  split
  case isTrue kind =>
    rcases checkCount_cases f.station (byteAt f.body 0) (endedFrame f c s) with eq | ⟨live, _⟩
    · exact eq
    · exact absurd live (status kind)
  case isFalse => rfl

theorem start_false_of_not_first {f : RxFrame} (flags : flagsAgree f = true) (first : f.first = false) :
    f.start = false := by
  by_cases kind : f.kind = .fullset
  · rw [flagsAgree, kind, first] at flags
    simpa using flags
  · exact (flagsAgree_plain flags kind).2.2

section
variable {f : RxFrame} {s : State} (low : 1 ≤ f.station) (valid : f.station ≤ 250)
  (high : f.station ≤ s.table.origins.length)
include low valid high

/-- A gap: the origin becomes GAPPED and WANTED, and AWAITING where the frame names its own sender. -/
theorem applyFrame_gap {c : FrameClass} (first : f.first = false)
    (moves : statusMove (s.origin f.station).status c = (.gapped, true)) :
    ((applyFrame f c s).origin f.station).held = some f.seq ∧
    ((applyFrame f c s).origin f.station).status = .gapped ∧
    (s.namesSender f → ((applyFrame f c s).origin f.station).resync = .awaiting 40) ∧
    (¬s.namesSender f → ((applyFrame f c s).origin f.station).resync =
      if (s.origin f.station).resync = .none then .wanted else (s.origin f.station).resync) := by
  obtain ⟨held, status, resync⟩ := endedFrame_origin (c := c) low high
  have begun := begunFrame_origin (c := c) low high
  have frame := begunFrame_takeFrame f c s
  have own : (begunFrame f c s).own = s.own :=
    congrArg (fun c : StationControl => c.straps.station.toNat) frame.control
  obtain ⟨named, unnamed⟩ := applyBody_resync (s := begunFrame f c s) low valid (frame.length ▸ high)
  rw [State.namesSender, own] at named unnamed
  rw [moves, completesSeries_plain first (.inr (by decide))] at status
  rw [moves, first] at begun
  rw [applyFrame_of_not_live fun _ => by rw [status]; decide]
  refine ⟨held, status, fun k => ?_, fun k => ?_⟩
  · rw [resync, named k, begun]
    cases (s.origin f.station).resync <;> rfl
  · rw [resync, unnamed k, begun]
    exact want_eq _

/-- A FIRST: the origin is RESYNCING, or LIVE where the frame is the LAST too, and no longer asked for. -/
theorem applyFrame_first (flags : flagsAgree f = true) (first : f.first = true) :
    ((applyFrame f .first s).origin f.station).held = some f.seq ∧
    ((applyFrame f .first s).origin f.station).resync = .none ∧
    ((applyFrame f .first s).origin f.station).status = if f.last then .live else .resyncing := by
  have kind : f.kind = .fullset := by
    by_contra k
    obtain ⟨no, _⟩ := flagsAgree_plain flags k
    exact Bool.noConfusion (no.symm.trans first)
  have apart : f.kind ≠ .summary ∧ f.kind ≠ .resync := by rw [kind]; exact ⟨by decide, by decide⟩
  obtain ⟨held, status, resync⟩ := endedFrame_origin (c := .first) low high
  have begun := begunFrame_origin (c := .first) low high
  obtain ⟨_, unnamed⟩ := applyBody_resync (s := begunFrame f .first s) low valid
    ((begunFrame_takeFrame f .first s).length ▸ high)
  rw [applyFrame_of_not_live fun k => absurd k apart.1]
  refine ⟨held, ?_, ?_⟩
  · rw [resync, unnamed fun k => apart.2 k.1, begun, first]
    rfl
  · rw [status, completesSeries, first]
    cases f.last <;> rfl

omit valid in
/-- A frame in order leaves the status, unless it completes a series. -/
theorem applyFrame_inOrder {h : Nat} (first : f.first = false) (held : (s.origin f.station).held = some h)
    (next : seqDistance h f.seq = 1) (plain : (s.origin f.station).status = .live → f.kind ≠ .summary)
    (flags : flagsAgree f = true)
    (heard : (s.origin f.station).status ≠ .silent ∧ (s.origin f.station).status ≠ .unknown) :
    ((applyFrame f .inOrder s).origin f.station).status =
      if f.last = true ∧ (s.origin f.station).status = .resyncing then .live else (s.origin f.station).status := by
  obtain ⟨_, status, _⟩ := endedFrame_origin (c := .inOrder) low high
  have moves : statusMove (s.origin f.station).status .inOrder = ((s.origin f.station).status, false) := by
    cases k : (s.origin f.station).status with
    | silent => exact absurd k heard.1
    | unknown => exact absurd k heard.2
    | _ => rfl
  have completes : completesSeries (some h) (s.origin f.station).status f =
      decide (f.last = true ∧ (s.origin f.station).status = .resyncing) := by
    simp [completesSeries, acceptedInOrder, first, next, Bool.decide_and, Bool.beq_eq_decide_eq]
  rw [moves, held, completes] at status
  simp only [decide_eq_true_iff] at status
  rw [applyFrame_of_not_live fun kind => ?_]
  · exact status
  · obtain ⟨_, last, _⟩ := flagsAgree_plain flags (by rw [kind]; decide)
    rw [status, if_neg fun k => Bool.noConfusion (last.symm.trans k.1)]
    exact fun live => plain live kind

end

/-- Settles O26: the class of the frame decides the row of R56, and each row is one lemma. -/
theorem acceptedFrameMovesTheStatus : Obligations.AcceptedFrameMovesTheStatus := by
  intro f rest s u before asked free settled running queue flags body low valid length at_ asks
  subst at_
  let queued := u.withMerge { u.merge with queue := rest }
  have high : f.station ≤ queued.table.origins.length := by rw [withMerge_table, length]; exact valid
  have taken {c : FrameClass} (accepts : Accepts f c (u.origin f.station).held) :
      takeFrame f queued = applyFrame f c queued := takeFrame_accepted flags body accepts
  have gap {c : FrameClass} (first : f.first = false) (accepts : Accepts f c (u.origin f.station).held)
      (moves : statusMove (u.origin f.station).status c = (.gapped, true)) :
      ((takeFrame f queued).origin f.station).held = some f.seq ∧
      ((takeFrame f queued).origin f.station).status = .gapped ∧
      ((takeFrame f queued).origin f.station).resync = asked := by
    obtain ⟨held, status, named, unnamed⟩ := applyFrame_gap (s := queued) low valid high first moves
    rw [taken accepts]
    refine ⟨held, status, ?_⟩
    rw [asks]
    split
    case isTrue k => exact named k
    case isFalse k => exact unnamed k
  refine ⟨_, exec_taken free settled running queue, fun ⟨first, window⟩ => ?_, fun first none status => ?_,
    fun h first held => ⟨fun far known => ?_, fun next => ?_⟩⟩
  · have accepts : Accepts f .first (u.origin f.station).held := by
      refine ⟨?_, by decide, by decide⟩
      unfold classFrame
      by_cases start : f.start = true
      · rw [if_pos start]
      · rw [if_neg start]
        cases held : (u.origin f.station).held with
        | none => simp [first]
        | some h =>
          have near := window.resolve_left start h held
          simp only [classOfDistance_accepted near.1 near.2, first, if_true]
    rw [taken accepts]
    exact applyFrame_first low valid high flags first
  · have start := start_false_of_not_first flags first
    refine gap first (c := .absentHeld) ⟨?_, by decide, by decide⟩ (statusMove_gap (.inr (.inl rfl)))
    simp [classFrame, none, start, first]
  · have accepts := accepts_window (h := h) (start_false_of_not_first flags first) (by omega) far.2
    rw [first, if_neg Bool.false_ne_true, if_neg (by omega), ← held] at accepts
    exact (gap first accepts (statusMove_gap (.inl rfl))).2
  · have accepts := accepts_window (h := h) (start_false_of_not_first flags first) (by omega) (by omega)
    rw [first, if_neg Bool.false_ne_true, if_pos next, ← held] at accepts
    have inOrder (heard : (u.origin f.station).status ≠ .silent ∧ (u.origin f.station).status ≠ .unknown)
        (plain : (u.origin f.station).status = .live → f.kind ≠ .summary) :=
      applyFrame_inOrder (s := queued) low high first held next plain flags heard
    refine ⟨fun silent => (gap first accepts (statusMove_gap (.inr (.inr ⟨rfl, .inl silent⟩)))).2, fun gapped => ?_,
      fun resyncing => ?_, fun live plain => ?_⟩
    · have status := inOrder (by rw [gapped]; exact ⟨by decide, by decide⟩) (by rw [gapped]; exact nofun)
      rw [taken accepts, status]
      exact (if_neg fun k => absurd (gapped.symm.trans k.2) (by decide)).trans gapped
    · have status := inOrder (by rw [resyncing]; exact ⟨by decide, by decide⟩) (by rw [resyncing]; exact nofun)
      rw [taken accepts, status]
      have before : (queued.origin f.station).status = .resyncing := resyncing
      simp only [before, and_true]
    · have status := inOrder (by rw [live]; exact ⟨by decide, by decide⟩) fun _ => plain
      rw [taken accepts, status]
      exact (if_neg fun k => absurd (live.symm.trans k.2) (by decide)).trans live

/-! ## SUMMARY (R65, R66, R169) -/

theorem getLsbD_zero_iff (b : Byte) : b.getLsbD 0 = true ↔ b.toNat % 2 = 1 := by
  rw [BitVec.getLsbD, Nat.testBit_zero, decide_eq_true_iff]

/-- The record of the sender and what the Crew Channel Unit hears, by the revision the SUMMARY carries. -/
theorem applySummary_cases (x : Nat) (body : List Byte) (s : State) :
    let rev := if (body.getD 1 0).getLsbD 0 then some (fieldAt body 2) else none
    (∀ r, rev = some r → (s.origin x).revision ≠ some r → s.ownRevision ≠ some r →
      applySummary x body s = (s.modOrigin x (.summed body)).raiseAll .revisionMismatch) ∧
    ((rev = none ∨ (s.origin x).revision = rev ∨ s.ownRevision = rev) →
      applySummary x body s = s.modOrigin x (.summed body)) := by
  intro rev
  have own : (s.modOrigin x (.summed body)).ownRevision = s.ownRevision := by
    rw [State.ownRevision, State.hasCondition, modOrigin_control]
    rfl
  have unfolded : applySummary x body s = match rev with
      | some r => if (s.origin x).revision = some r then s.modOrigin x (.summed body)
        else hearRevision r (s.modOrigin x (.summed body))
      | none => s.modOrigin x (.summed body) := rfl
  rw [unfolded]
  cases learned : rev with
  | none => exact ⟨(fun r k => nomatch k), fun _ => rfl⟩
  | some r =>
    refine ⟨fun q k new differs => ?_, fun old => ?_⟩
    · cases k
      exact (if_neg new).trans (if_neg (own ▸ differs))
    · dsimp only
      rcases old with k | k | k
      · cases k
      · exact if_pos k
      · split
        · rfl
        · exact if_pos (own.trans k)

theorem checkCount_leaves (x n : Nat) (s : State) :
    (checkCount x n s).table.entries = s.table.entries ∧ (checkCount x n s).crew = s.crew ∧
    ((checkCount x n s).origin x).revision = (s.origin x).revision ∧
    ((checkCount x n s).origin x).conditions = (s.origin x).conditions := by
  rcases checkCount_cases x n s with eq | ⟨_, eq⟩
  · rw [eq]
    exact ⟨rfl, rfl, rfl, rfl⟩
  · let moves (o : OriginRecord) : OriginRecord := { o with status := .gapped, resync := o.resync.want }
    rw [eq]
    exact ⟨modOrigin_table_entries _ _ _, modOrigin_crew _ _ _,
      modOrigin_leaves (f := moves) OriginRecord.revision (fun _ => rfl) s x x,
      modOrigin_leaves (f := moves) OriginRecord.conditions (fun _ => rfl) s x x⟩

/-- Settles O28: the body writes the record and may raise the notice, and the count check comes last. -/
theorem summaryUpdatesItsOrigin : Obligations.SummaryUpdatesItsOrigin := by
  intro f rest a fl r1 r0 c h s u free settled running queue kind flags count body low high held next live
  have agrees : bodyAgrees f = true := by
    rw [bodyAgrees, kind]
    exact beq_iff_eq.mpr count
  have taken := exec_live free settled running queue (by rw [kind]; decide) flags agrees held next live
  let x := f.station
  let numbered := (u.withMerge { u.merge with queue := rest }).modOrigin x fun o => { o with held := some f.seq }
  have applied_eq : applyBody x f numbered = applySummary x f.body numbered := by rw [applyBody, kind]
  rw [kind, if_pos rfl] at taken
  obtain ⟨mismatch, quiet⟩ := applySummary_cases x f.body numbered
  have told := applySummary_told x f.body numbered
  have numberedOrigin : numbered.origin x = { u.origin x with held := some f.seq } :=
    origin_modOrigin_same low (s := u.withMerge { u.merge with queue := rest }) high _
  have origin : (applySummary x f.body numbered).origin x =
      OriginRecord.summed f.body { u.origin x with held := some f.seq } := by
    rw [origin_congr (congrArg PictureTable.origins told.table),
      origin_modOrigin_same low (by rw [modOrigin_origins_length]; exact high), numberedOrigin]
  have entries : (applySummary x f.body numbered).table.entries = u.table.entries := by
    rw [told.table, modOrigin_table_entries, modOrigin_table_entries]
    rfl
  have heldCount : (applySummary x f.body numbered).heldCount x = u.heldCount x := by
    rw [State.heldCount, State.entriesOf, State.entries, entries]
    rfl
  have crew : numbered.crew = u.crew := modOrigin_crew _ _ _
  have control : numbered.control = u.control := modOrigin_control _ _ _
  have ownRevision : numbered.ownRevision = u.ownRevision := by
    rw [State.ownRevision, State.hasCondition, control]
    rfl
  have bit : (f.body.getD 1 0).getLsbD 0 = true ↔ fl.toNat % 2 = 1 := by rw [body]; exact getLsbD_zero_iff fl
  have field : fieldAt f.body 2 = ofBe16 r1 r0 := by rw [body]; rfl
  have revision : (if (f.body.getD 1 0).getLsbD 0 then some (fieldAt f.body 2) else none) =
      if fl.toNat % 2 = 1 then some (ofBe16 r1 r0) else none := by rw [if_congr bit rfl rfl, field]
  rw [revision, ownRevision, numberedOrigin] at mismatch quiet
  have first : byteAt f.body 0 = a.toNat := by rw [body]; rfl
  obtain ⟨sameEntries, checkedCrew, sameRevision, sameConditions⟩ :=
    checkCount_leaves x (byteAt f.body 0) (applySummary x f.body numbered)
  refine ⟨_, taken.trans (congrArg (fun t => Host.Outcome.next (checkCount x (byteAt f.body 0) t)) applied_eq), ?_, ?_, ?_,
    fun odd new differs ch attached => ?_, fun still => ?_, fun wrong => ?_, fun right => ?_⟩
  · exact sameEntries.trans entries
  · rw [sameRevision, origin]
    exact revision
  · rw [sameConditions, origin]
    change some ((f.body.getD 4 0) &&& 0x1F) = _
    rw [body]
    rfl
  · have raised := mismatch _ (if_pos odd) new fun k => by
      unfold State.ownRevision at k
      split at k
      case isTrue => cases k
      case isFalse clear => exact differs.elim (fun held => clear held) fun other => other k
    rw [State.channel, checkedCrew, raised]
    change NoticeSet.has (State.channel _ ch).notices _ = true
    rw [has_raiseAll]
    have still : ((numbered.modOrigin x (.summed f.body)).isAttached ch) = true := by
      rw [State.isAttached, State.channel, modOrigin_crew, crew]
      exact attached
    rw [still]
    simp
  · have same := quiet (by
      rcases still with even | known | ⟨clear, own⟩
      · exact .inl (if_neg (by omega))
      · by_cases odd : fl.toNat % 2 = 1
        · exact .inr (.inl (known.trans (if_pos odd).symm))
        · exact .inl (if_neg odd)
      · by_cases odd : fl.toNat % 2 = 1
        · refine .inr (.inr (Eq.trans ?_ (if_pos odd).symm))
          rw [State.ownRevision, if_neg (by rw [clear]; decide), own]
        · exact .inl (if_neg odd))
    rw [checkedCrew, same, modOrigin_crew, crew]
  · have gapped : checkCount x (byteAt f.body 0) (applySummary x f.body numbered) = wantSeries x
        ((applySummary x f.body numbered).modOrigin x fun o => { o with status := .gapped }) := by
      refine if_pos ⟨?_, ?_, ?_⟩
      · rw [origin]; exact live
      · rw [origin]; exact wrong.1
      · rw [heldCount, first]; exact wrong.2
    rw [gapped, wantSeries, modOrigin_modOrigin, origin_modOrigin_same low
      (by rw [told.table, modOrigin_origins_length, modOrigin_origins_length]; exact high), origin]
    refine ⟨rfl, fun none => ?_⟩
    change (u.origin x).resync.want = .wanted
    rw [none]
    rfl
  · have stands : checkCount x (byteAt f.body 0) (applySummary x f.body numbered) =
        applySummary x f.body numbered := by
      refine if_neg fun met => ?_
      rw [origin, heldCount, first] at met
      rcases right with flag | equal
      · exact Bool.noConfusion (met.2.1.symm.trans flag)
      · exact met.2.2 equal
    rw [stands, origin]
    exact ⟨live, rfl⟩

/-! ## RESYNC (R101, R104) -/

/-- Settles O29: the names are heard one by one, and each moves its own origin only. -/
theorem resyncFrameServesOrSuppresses : Obligations.ResyncFrameServesOrSuppresses := by
  intro f rest h s u free settled running queue kind flags some few length low valid held next live
  have agrees : bodyAgrees f = true := by
    rw [bodyAgrees, kind]
    exact decide_eq_true ⟨some, few⟩
  have taken := exec_live free settled running queue (by rw [kind]; decide) flags agrees held next live
  let numbered := (u.withMerge { u.merge with queue := rest }).modOrigin f.station
    fun o => { o with held := Option.some f.seq }
  have applied_eq : applyBody f.station f numbered = hearNames (f.body.map BitVec.toNat) numbered := by
    rw [applyBody, kind]
  rw [kind, if_neg (by decide)] at taken
  have own : numbered.own = u.own := congrArg (fun c : StationControl => c.straps.station.toNat)
    (modOrigin_control _ _ _)
  have resync (x : Nat) : (numbered.origin x).resync = (u.origin x).resync :=
    modOrigin_leaves (f := fun o => { o with held := Option.some f.seq }) OriginRecord.resync (fun _ => rfl)
      (u.withMerge { u.merge with queue := rest }) f.station x
  refine ⟨_, taken.trans (congrArg Host.Outcome.next applied_eq), ?_, ?_, fun x some inside foreign named => ?_,
    fun x other => ?_⟩
  · exact hearNames_keeps (P := fun t : State => t.table.entries = u.table.entries)
      (s := numbered) (modOrigin_table_entries _ _ _) _ fun t y k => (hearName_entries t y).trans k
  · rw [hearNames_fullsetDue, own, List.any_map]
    exact congrArg (fun p : Publisher => p.fullsetDue || _) (modOrigin_pub _ _ _)
  · rw [hearNames_origin_named some inside ?_ (own ▸ foreign) (mem_names.mpr named)]
    · exact (await_eq _).trans (by rw [resync])
    · rw [modOrigin_origins_length]
      exact length ▸ inside
  · rw [hearNames_origin_other]
    · exact resync x
    · rw [own, mem_names]
      exact other

end Sys2Proof.Machine
end

section
/-!
PROOFS. The LAST that completes its series (R31, R60): O27.
-/
namespace Sys2Proof.Machine

/-! ## The sweep (R31) -/

/-- The entries of a list swept out one after the other. -/
def sweepAll (l : List Entry) (s : State) : State := l.foldl (fun t e => removeBySweep e t) s

theorem sweepAll_mem (l : List Entry) (s : State) (e : Entry) :
    e ∈ (sweepAll l s).entries ↔ e ∈ s.entries ∧ e.addr ∉ l.map Entry.addr := by
  induction l generalizing s with
  | nil => simp [sweepAll]
  | cons y l ih =>
    refine (ih (removeBySweep y s)).trans ?_
    rw [removeBySweep_entries, List.map_cons, List.mem_cons, not_or, ← and_assoc]
    exact and_congr_left' mem_dropEntry

theorem sweepAll_entryAt (l : List Entry) (s : State) (a : Address) :
    (sweepAll l s).entryAt a = if a ∈ l.map Entry.addr then none else s.entryAt a := by
  induction l generalizing s with
  | nil => simp [sweepAll]
  | cons e l ih =>
    have first : (removeBySweep e s).entryAt a = if a = e.addr then none else s.entryAt a := by
      rw [← entryAt_dropEntry]
      exact congrArg (List.find? _) (removeBySweep_entries e s)
    refine (ih (removeBySweep e s)).trans ?_
    rw [first, List.map_cons]
    by_cases later : a ∈ l.map Entry.addr
    · rw [if_pos later, if_pos (List.mem_cons_of_mem _ later)]
    · by_cases same : a = e.addr
      · rw [if_neg later, if_pos same, if_pos (same ▸ List.mem_cons_self)]
      · rw [if_neg later, if_neg same, if_neg fun k => (List.mem_cons.mp k).elim same later]

/-- The entries of an origin that still carry their sweep mark. -/
def State.marked (s : State) (x : Nat) : List Entry := s.entries.filter fun e => e.addr.station == x && e.sweep

theorem sweepOrigin_eq (x : Nat) (s : State) : sweepOrigin x s = sweepAll (s.marked x) s := by
  have same : (s.entriesOf x).filter Entry.sweep = s.marked x := by
    rw [State.entriesOf, List.filter_filter]
    refine List.filter_congr fun e _ => Bool.and_comm ..
  rw [sweepOrigin, same]
  rfl

theorem mem_marked_addr {s : State} (r : Rising s.entries) {x : Nat} {a : Address} {e : Entry}
    (held : s.entryAt a = some e) : a ∈ (s.marked x).map Entry.addr ↔ (e.addr.station == x && e.sweep) = true := by
  have addr := addr_of_entryAt held
  constructor
  · intro k
    obtain ⟨y, hy, same⟩ := List.mem_map.mp k
    obtain ⟨mem, marked⟩ := List.mem_filter.mp hy
    rwa [rising_unique r (mem_of_entryAt held) mem (addr.trans same.symm)]
  · exact fun marked => List.mem_map.mpr ⟨e, List.mem_filter.mpr ⟨mem_of_entryAt held, marked⟩, addr⟩

theorem sweepOrigin_entryAt {s : State} (r : Rising s.entries) (x : Nat) (a : Address) :
    (sweepOrigin x s).entryAt a = (s.entryAt a).filter fun e => !(e.addr.station == x && e.sweep) := by
  rw [sweepOrigin_eq, sweepAll_entryAt]
  cases held : s.entryAt a with
  | none => rw [ite_self]; rfl
  | some e =>
    rw [if_congr (mem_marked_addr r held) rfl rfl]
    cases marked : (e.addr.station == x && e.sweep) <;> simp [Option.filter, marked]

theorem sweepOrigin_unmarked {s : State} {x : Nat} {e : Entry} (h : e ∈ (sweepOrigin x s).entries)
    (of : e.addr.station = x) : e.sweep = false := by
  rw [sweepOrigin_eq] at h
  obtain ⟨mem, out⟩ := (sweepAll_mem _ _ _).mp h
  by_contra k
  refine out (List.mem_map.mpr ⟨e, List.mem_filter.mpr ⟨mem, ?_⟩, rfl⟩)
  simp only [of, beq_self_eq_true, Bool.true_and]
  simpa using k

/-! ## The end of the series -/

theorem finishSeries_entries (x : Nat) (s : State) :
    (finishSeries x s).table.entries = (sweepOrigin x s).table.entries := by
  rw [finishSeries]
  obtain ⟨r, _, eq | eq⟩ := endRecovery_cases x ((sweepOrigin x s).modOrigin x fun o => { o with status := .live })
  · rw [eq]
    exact modOrigin_table_entries _ _ _
  · rw [eq, modOrigin_table_entries]
    exact modOrigin_table_entries _ _ _

theorem finishSeries_followers (x : Nat) (s : State) : FollowersSame (sweepOrigin x s) (finishSeries x s) := by
  have live := modOrigin_eq (sweepOrigin x s) x fun o => { o with status := .live }
  rw [finishSeries]
  obtain ⟨r, _, eq | eq⟩ := endRecovery_cases x ((sweepOrigin x s).modOrigin x fun o => { o with status := .live })
  · rw [eq, live]
    exact ⟨rfl, rfl, rfl⟩
  · rw [eq, modOrigin_eq, live]
    exact ⟨rfl, rfl, rfl⟩

theorem finishSeries_recovery (x : Nat) (s : State) :
    ∀ r, (finishSeries x s).table.recovery = some r → r.origin ≠ x := by
  intro q held
  rw [finishSeries] at held
  obtain ⟨r, frees, eq | eq⟩ := endRecovery_cases x ((sweepOrigin x s).modOrigin x fun o => { o with status := .live })
  · rw [eq] at held
    exact frees q held
  · rw [eq, modOrigin_table_recovery] at held
    exact frees q held

/-! ## The state at the first record -/

/-- A frame of a series leaves the followers, and sets the sweep marks where it is a FIRST. -/
theorem begunFrame_series {f : RxFrame} {c : FrameClass} {s : State}
    (moves : statusMove (s.origin f.station).status c = (.resyncing, false)) :
    FollowersSame s (begunFrame f c s) ∧ (begunFrame f c s).table.clearHold = s.table.clearHold ∧
    (begunFrame f c s).entries = if f.first then
      s.entries.map (fun e => if e.addr.station = f.station then { e with sweep := true } else e) else s.entries := by
  have numbered := modOrigin_eq s f.station fun o => { o with status := .resyncing, held := some f.seq }
  unfold begunFrame
  dsimp only
  rw [moveStatus_resyncing moves, modOrigin_modOrigin, numbered]
  split
  case isTrue first =>
    obtain ⟨r, eq⟩ := beginSeries_eq f.station
      (s.modOrigin f.station fun o => { o with status := .resyncing, held := some f.seq })
    rw [numbered] at eq
    rw [eq, modOrigin_eq]
    exact ⟨⟨rfl, rfl, rfl⟩, rfl, rfl⟩
  case isFalse => exact ⟨⟨rfl, rfl, rfl⟩, rfl, rfl⟩

/-- The frame is accepted as one of a series, and it completes the series. -/
theorem completes_of_last {f : RxFrame} {held : Option Nat} {status : OriginStatus} (last : f.last = true)
    (flags : flagsAgree f = true) (kind : f.kind = .fullset)
    (series : f.start = true ∨ (f.first = true ∧ held = none) ∨ ∃ h, held = some h ∧
      ((f.first = true ∧ 1 ≤ seqDistance h f.seq ∧ seqDistance h f.seq ≤ 2047) ∨
        (seqDistance h f.seq = 1 ∧ status = .resyncing))) :
    ∃ c, Accepts f c held ∧ statusMove status c = (.resyncing, false) ∧
      completesSeries held .resyncing f = true := by
  have first_of_start (start : f.start = true) : f.first = true := by
    rw [flagsAgree, kind, start] at flags
    simpa using flags
  have completes (first : f.first = true) : completesSeries held .resyncing f = true := by
    simp [completesSeries, last, first]
  have firstClass (first : f.first = true) (cls : classFrame held f = .first) :
      ∃ c, Accepts f c held ∧ statusMove status c = (.resyncing, false) ∧
        completesSeries held .resyncing f = true :=
    ⟨.first, ⟨cls, by decide, by decide⟩, rfl, completes first⟩
  by_cases start : f.start = true
  · exact firstClass (first_of_start start) (if_pos start)
  · rcases series.resolve_left start with ⟨first, none⟩ | ⟨h, is, near⟩
    · exact firstClass first (by simp [classFrame, start, none, first])
    · have plain : f.start = false := by simpa using start
      subst is
      by_cases first : f.first = true
      · have bounds : 1 ≤ seqDistance h f.seq ∧ seqDistance h f.seq ≤ 2047 := by
          rcases near with ⟨_, k⟩ | ⟨k, _⟩
          · exact k
          · omega
        exact firstClass first (by
          rw [classFrame_window plain, classOfDistance_accepted bounds.1 bounds.2, if_pos first])
      · obtain ⟨next, resyncing⟩ := near.resolve_left fun k => first k.1
        have notFirst : f.first = false := by simpa using first
        refine ⟨.inOrder, ⟨classFrame_inOrder notFirst plain next, by decide, by decide⟩, by rw [resyncing]; rfl, ?_⟩
        simp [completesSeries, acceptedInOrder, last, next]

/-- Settles O27: the sweep takes out what still carries its mark after the records, and the end of the series leaves
the entries and the followers. -/
theorem completedSeriesSweeps : Obligations.CompletedSeriesSweeps := by
  intro f rest s u free settled running queue kind flags body last table foreign low high series
  obtain ⟨rising, _, _⟩ := table
  let queued := u.withMerge { u.merge with queue := rest }
  obtain ⟨c, accepts, moves, completes⟩ := completes_of_last last flags kind series
  have taken := exec_taken free settled running queue
  rw [takeFrame_accepted (s := queued) flags body accepts, kind] at taken
  let w := begunFrame f c queued
  let v := applyRecords f.station f w
  have status : ((moveStatus f.station c queued).origin f.station).status = .resyncing := by
    rw [moveStatus_resyncing (s := queued) moves, origin_modOrigin_same (s := queued) low high]
  have applied : applyBody f.station f w = v := by rw [applyBody, kind]
  have ended : applyFrame f c queued = finishSeries f.station v := by
    rw [applyFrame_eq, kind, if_neg (by decide), ← applied]
    refine if_pos ?_
    rw [status]
    exact completes
  obtain ⟨followers, clearHold, entries⟩ := begunFrame_series (f := f) (c := c) (s := queued) moves
  have frame := begunFrame_takeFrame f c queued
  have records := applyRecords_recordFrame f.station f w
  have own : w.own = u.own := congrArg (fun c : StationControl => c.straps.station.toNat) frame.control
  have risingW : Rising w.entries := by
    rw [entries]
    split
    · exact rising_map _ (fun e => by split <;> rfl) rising
    · exact rising
  have risingV : Rising v.entries := records.rising risingW
  have finished (a : Address) : (finishSeries f.station v).entryAt a =
      (v.entryAt a).filter fun e => !(e.addr.station == f.station && e.sweep) := by
    rw [← sweepOrigin_entryAt risingV]
    exact congrArg (List.find? _) (finishSeries_entries f.station v)
  have liveV : ((finishSeries f.station v).origin f.station).status = .live := by
    obtain ⟨b, eq⟩ := finishSeries_origin (s := v) low (by
      rw [records.length, frame.length]
      exact high)
    rw [eq]
  refine ⟨finishSeries f.station v, w, v, taken.trans (congrArg _ ended), liveV, frame.control, clearHold, entries,
    followers, rfl, ?_, finished, fun e mem of => ?_, finishSeries_recovery _ _, fun a station => ?_⟩
  · have swept := finishSeries_followers f.station v
    rw [sweepOrigin_eq] at swept
    exact swept
  · refine sweepOrigin_unmarked (s := v) ?_ of
    rw [State.entries, ← finishSeries_entries]
    exact mem
  · have apart : ∀ e, u.entryAt a = some e → e.addr.station ≠ f.station := fun e held k => by
      rw [addr_of_entryAt held, station] at k
      exact foreign k.symm
    have begun : w.entryAt a = u.entryAt a := by
      have marks : w.entries = u.entries ∨ w.entries = (setSweep f.station true u).entries := by
        rw [entries]
        split
        · exact .inr rfl
        · exact .inl rfl
      rcases marks with same | swept
      · exact congrArg (List.find? _) same
      · refine (congrArg (List.find? _) swept).trans ((setSweep_entryAt f.station true a).trans ?_)
        cases held : u.entryAt a with
        | none => rfl
        | some e => exact congrArg some (if_neg (apart e held))
    have kept : v.entryAt a = u.entryAt a := by
      have same := records.own (own ▸ foreign) a.index
      rw [own, ← station] at same
      exact same.trans begun
    rw [finished, kept]
    cases held : u.entryAt a with
    | none => rfl
    | some e => simp [Option.filter, apart e held]

end Sys2Proof.Machine
end

section
/-!
PROOFS. The riser line (chapter 4): O30 to O33.
-/
namespace Sys2Proof.Machine

/-! ## Activity, quiet and the back-off (R70, R73, R75, R79) -/

theorem receiver_beq_idle (r : Receiver) : (r == .idle) = true ↔ r = .idle := beq_iff_eq

/-- A frame that goes out or waits: only the riser line moves. -/
theorem sendOrWait_eq (f : TxFrame) (c : Nat) (s : State) : sendOrWait f c s = s.withRiser
    (if s.riser.quiet then
      { s.riser with tx := .sending f c, quiet := false, rx := .receiving [] false false }
    else { s.riser with tx := .waiting f c }) := by
  unfold sendOrWait startSending
  split <;> rfl

theorem lineActive_eq (gap : Bool) (s : State) : lineActive gap s = s.withRiser
    { s.riser with
      quiet := false
      rx := if s.riser.rx = .idle ∧ (gap = true ∨ s.riser.quiet = true) then .receiving [] false false
        else s.riser.rx } := by
  unfold lineActive
  dsimp only
  congr 2
  refine if_congr ?_ rfl rfl
  rw [Bool.and_eq_true, Bool.or_eq_true, beq_iff_eq]

theorem lineQuiet_eq (s : State) : lineQuiet s = s.withRiser
    (match s.riser.tx with
    | .waiting f c => { s.riser with
        tx := .sending f c, quiet := false, quietSeen := true, rx := .receiving [] false false }
    | _ => { s.riser with quiet := true, quietSeen := true }) := by
  unfold lineQuiet startSending
  dsimp only
  split <;> rename_i same <;> simp only [same] <;> rfl

/-- Settles O31: each of the three events writes the riser line alone. -/
theorem lineEventsStartOrHoldTheFrame : Obligations.LineEventsStartOrHoldTheFrame := by
  refine ⟨fun gap s u free settled => ?_, fun s u free settled busy => ?_, fun f c n s u free settled backoff => ?_⟩
  · have told : exec (.lineBusy gap) s = .next (lineActive gap u) := by
      change Host.Outcome.next (external (lineActive gap) s) = _
      rw [external_free free, settled]
    refine ⟨_, told, ?_⟩
    rw [lineActive_eq]
    refine ⟨rfl, rfl, fun idle starts => if_pos ⟨idle, starts⟩, fun stays => if_neg ?_, rfl⟩
    rintro ⟨idle, starts⟩
    rcases stays with busy | ⟨noGap, busy⟩
    · exact busy idle
    · simp [noGap, busy] at starts
  · by_cases sending : u.riser.tx.isSending = true
    · have told : exec .lineQuietEvent s = .next u := by
        change Host.Outcome.next (external quietEvent s) = _
        rw [external_free free, ← settled, quietEvent, sending, Bool.or_true, if_pos rfl]
      refine ⟨u, told, rfl, fun f c waiting => ?_, fun other => ?_⟩
      · rw [waiting] at sending
        cases sending
      · rcases other with empty | ⟨f, c, n, backoff⟩
        · rw [empty] at sending
          cases sending
        · rw [backoff] at sending
          cases sending
    · have told : exec .lineQuietEvent s = .next (lineQuiet u) := by
        change Host.Outcome.next (external quietEvent s) = _
        rw [external_free free, ← settled, quietEvent, busy, Bool.false_or, if_neg sending]
      refine ⟨_, told, ?_⟩
      rw [lineQuiet_eq]
      refine ⟨rfl, fun f c waiting => ?_, fun other => ?_⟩
      · rw [waiting]
        exact ⟨rfl, rfl, rfl⟩
      · rcases other with empty | ⟨f, c, n, backoff⟩
        · rw [empty]
          exact ⟨empty.symm ▸ rfl, rfl, rfl⟩
        · rw [backoff]
          exact ⟨backoff.symm ▸ rfl, rfl, rfl⟩
  · have told : exec .backoffExpiry s = .next (sendOrWait f c u) := by
      change Host.Outcome.next (external backoffExpires s) = _
      rw [external_free free, ← settled, backoffExpires, backoff]
    refine ⟨_, told, ?_⟩
    rw [sendOrWait_eq]
    refine ⟨rfl, fun quiet => ?_, fun busy => ?_⟩
    · rw [quiet, if_pos rfl]
      rfl
    · rw [busy, if_neg Bool.false_ne_true]
      rfl

/-! ## The end of a received frame (R49 to R51, R80) -/

theorem checkHolds_iff (l : List Byte) : checkHolds l = true ↔
    (checkWord (l.take (l.length - 2))).toNat = fieldAt l (l.length - 2) := beq_iff_eq

theorem frameFate_length {bytes : List Byte} {tooLong broken : Bool} (h : tooLong = true ∨ bytes.length < 8) :
    frameFate bytes tooLong broken = .lengthError := by
  have met : (tooLong || decide (bytes.length < Config.shortestFrame)) = true :=
    Bool.or_eq_true_iff.mpr (h.imp_right decide_eq_true)
  rw [frameFate, if_pos met]

theorem frameFate_whole {bytes : List Byte} {broken : Bool} (long : 8 ≤ bytes.length) :
    frameFate bytes false broken = if broken = true ∨ ¬checkHolds bytes = true then .checkError
      else match parseFrame bytes with
        | some f => .good f
        | none => .lengthError := by
  have notShort : ¬(false || decide (bytes.length < Config.shortestFrame)) = true := by
    rw [Bool.false_or, decide_eq_true_iff]
    exact Nat.not_lt.mpr long
  rw [frameFate, if_neg notShort]
  refine if_congr ?_ rfl rfl
  simp

/-- The bytes kept, and whether they ran over, where the frame is within its longest. -/
theorem keepBytes_within {kept more : List Byte} (within : (kept ++ more).length ≤ 176) :
    keepBytes kept more = (kept ++ more, false) := by
  rw [keepBytes, List.take_of_length_le (i := Config.longestFrame) within]
  exact congrArg _ (decide_eq_false (Nat.not_lt.mpr within))

theorem keepBytes_over {kept more : List Byte} (longer : 176 < (kept ++ more).length) :
    (keepBytes kept more).2 = true := decide_eq_true longer

/-- The state in which the receiver has come to rest. -/
def State.rested (s : State) : State := s.withRiser { s.riser with rx := .idle }

/-- What a frame's fate does. -/
def meetFate (fate : FrameFate) (s : State) : State :=
  match fate with
  | .lengthError => s.rested.withRiser { s.rested.riser with lengthErrors := sat16 s.rested.riser.lengthErrors }
  | .checkError => s.rested.withRiser { s.rested.riser with checkErrors := sat16 s.rested.riser.checkErrors }
  | .good f => if s.control.step = .held then s.rested else frameArrives f s.rested

theorem frameEnds_eq {s : State} {kept more : List Byte} {tooLong broken now : Bool}
    (rx : s.riser.rx = .receiving kept tooLong broken) : frameEnds more now s =
      meetFate (frameFate (keepBytes kept more).1 (tooLong || (keepBytes kept more).2) (broken || now)) s := by
  unfold frameEnds meetFate
  rw [rx]
  rfl

theorem frameArrives_riser (f : RxFrame) (s : State) : (frameArrives f s).riser = s.riser := by
  unfold frameArrives
  split
  · exact (setCondition_told s .duplicate).riser
  · split
    · rfl
    · unfold offerFrame
      split <;> exact modOrigin_riser _ _ _

theorem meetFate_rx (fate : FrameFate) (s : State) : (meetFate fate s).riser.rx = .idle := by
  unfold meetFate
  split
  · rfl
  · rfl
  · split
    · rfl
    · rw [frameArrives_riser]
      rfl

theorem meetFate_lengthError (s : State) : meetFate .lengthError s = { s with riser := { s.riser with
    rx := .idle, lengthErrors := min (s.riser.lengthErrors + 1) 65535 } } := by
  rw [meetFate, sat16, satSucc_eq_min]
  rfl

theorem meetFate_checkError (s : State) : meetFate .checkError s = { s with riser := { s.riser with
    rx := .idle, checkErrors := min (s.riser.checkErrors + 1) 65535 } } := by
  rw [meetFate, sat16, satSucc_eq_min]
  rfl

theorem meetFate_good {s : State} (running : s.control.step ≠ .held) (f : RxFrame) :
    meetFate (.good f) s = frameArrives f s.rested := if_neg running

theorem frameArrives_own {f : RxFrame} {s : State} (own : f.station = s.own) :
    frameArrives f s = s.setCondition .duplicate := if_pos own

theorem frameArrives_invalid {f : RxFrame} {s : State} (foreign : f.station ≠ s.own)
    (invalid : f.station = 0 ∨ 251 ≤ f.station) :
    frameArrives f s = s.withMerge { s.merge with rejected := min (s.merge.rejected + 1) 65535 } := by
  have not : validStation f.station = false := decide_eq_false (by omega)
  rw [frameArrives, if_neg foreign, if_pos not, sat16, satSucc_eq_min]

theorem frameArrives_valid {f : RxFrame} {s : State} (foreign : f.station ≠ s.own) (low : 1 ≤ f.station)
    (high : f.station ≤ 250) : frameArrives f s = offerFrame f (s.modOrigin f.station
      fun o => { o with silence := 0, interval := Config.summaryInterval f.seed }) := by
  have is : ¬validStation f.station = false := by
    rw [(validStation_iff f.station).mpr ⟨low, high⟩]
    decide
  rw [frameArrives, if_neg foreign, if_neg is]

theorem offerFrame_cases (f : RxFrame) (s : State) : (offerFrame f s).table = s.table ∧
    (s.merge.queue.length < 4 → (offerFrame f s).merge = { s.merge with queue := s.merge.queue ++ [f] }) ∧
    (4 ≤ s.merge.queue.length →
      (offerFrame f s).merge = { s.merge with overrun := min (s.merge.overrun + 1) 65535 }) := by
  unfold offerFrame
  split
  case isTrue room => exact ⟨rfl, fun _ => rfl, fun full => absurd room (Nat.not_lt.mpr full)⟩
  case isFalse full =>
    refine ⟨rfl, fun room => absurd room full, fun _ => ?_⟩
    rw [sat16, satSucc_eq_min]
    rfl

/-- Settles O30: the fate is looked up case by case, and a good frame arrives by its station number. -/
theorem frameEndDecidesTheFate : Obligations.FrameEndDecidesTheFate := by
  intro kept more tooLong broken now bytes s u free settled quiet rx whole
  have told : exec (.riserFrameEnd more now) s = .next (frameEnds more now u) := by
    change Host.Outcome.next (external (frameEndEvent more now) s) = _
    rw [external_free free, ← settled, frameEndEvent, if_neg (by rw [quiet]; decide)]
  rw [frameEnds_eq rx] at told
  refine ⟨_, told, meetFate_rx _ _, fun wrong => ?_, fun short long within => ?_⟩
  · rw [frameFate_length, meetFate_lengthError]
    by_cases fits : bytes.length ≤ 176
    · rw [keepBytes_within (whole ▸ fits), ← whole]
      rcases wrong with tooLong | runsOver | tooShort
      · exact .inl (by rw [tooLong]; rfl)
      · exact absurd runsOver (Nat.not_lt.mpr fits)
      · exact .inr tooShort
    · exact .inl (by rw [keepBytes_over (whole ▸ Nat.not_le.mp fits), Bool.or_true])
  · have same : frameFate (keepBytes kept more).1 (tooLong || (keepBytes kept more).2) (broken || now) =
        frameFate bytes false (broken || now) := by
      rw [keepBytes_within (whole ▸ within), ← whole, short]
      rfl
    rw [same]
    refine ⟨fun wrong => ?_, fun intact intactNow check => ?_⟩
    · rw [frameFate_whole long, if_pos, meetFate_checkError]
      rcases wrong with k | k | k
      · exact .inl (by rw [k]; rfl)
      · exact .inl (by rw [k, Bool.or_true])
      · exact .inr fun holds => k ((checkHolds_iff bytes).mp holds)
    · have passes : ¬((broken || now) = true ∨ ¬checkHolds bytes = true) := by
        rw [intact, intactNow, (checkHolds_iff bytes).mpr check]
        decide
      rw [frameFate_whole long, if_neg passes]
      refine ⟨fun none => ?_, fun f parsed running => ?_⟩
      · rw [none]
        exact meetFate_lengthError u
      · rw [parsed]
        rw [meetFate_good running]
        refine ⟨fun own => ?_, fun foreign invalid => ?_, fun foreign low high length => ?_⟩
        · rw [frameArrives_own (s := u.rested) own]
          have told := setCondition_told u.rested .duplicate
          exact ⟨hasCondition_setCondition _ _, told.merge, told.table⟩
        · rw [frameArrives_invalid (s := u.rested) foreign invalid]
          exact ⟨rfl, rfl⟩
        · rw [frameArrives_valid (s := u.rested) foreign low high]
          have inside : f.station ≤ u.rested.table.origins.length := by
            change f.station ≤ u.table.origins.length
            rw [length]
            exact high
          obtain ⟨table, room, full⟩ := offerFrame_cases f (u.rested.modOrigin f.station
            fun o => { o with silence := 0, interval := Config.summaryInterval f.seed })
          rw [modOrigin_merge] at room full
          refine ⟨?_, fun x apart => ?_, ?_, room, full⟩
          · rw [origin_congr (congrArg _ table)]
            exact origin_modOrigin_same low inside _
          · rw [origin_congr (congrArg _ table)]
            exact origin_modOrigin_ne apart _ _
          · rw [table]
            exact modOrigin_table_entries _ _ _

/-! ## Marks set again and series rolled back (R76, R100) -/

/-- What the setting of marks leaves: every block but the Publisher's two sets of marks. -/
def MarksOnly (s t : State) : Prop := ∃ change level,
  t = s.withPub { s.pub with change := change, level := level } ∧
    (∀ i ∈ s.pub.change, i ∈ change) ∧ (∀ i ∈ s.pub.level, i ∈ level)

theorem MarksOnly.refl (s : State) : MarksOnly s s := ⟨_, _, rfl, fun _ h => h, fun _ h => h⟩

theorem MarksOnly.trans {s t u : State} (h : MarksOnly s t) (k : MarksOnly t u) : MarksOnly s u := by
  obtain ⟨_, _, rfl, changes, levels⟩ := h
  obtain ⟨change, level, rfl, more, moreLevels⟩ := k
  exact ⟨change, level, rfl, fun i m => more i (changes i m), fun i m => moreLevels i (levels i m)⟩

theorem MarksOnly.change {s t : State} (h : MarksOnly s t) {i : Nat} (m : i ∈ s.pub.change) : i ∈ t.pub.change := by
  obtain ⟨_, _, rfl, changes, _⟩ := h
  exact changes i m

theorem MarksOnly.level {s t : State} (h : MarksOnly s t) {i : Nat} (m : i ∈ s.pub.level) : i ∈ t.pub.level := by
  obtain ⟨_, _, rfl, _, levels⟩ := h
  exact levels i m

theorem remarkRecord_marks (s : State) (r : Record) : MarksOnly s (remarkRecord s r) ∧
    (r.kind ≠ .level → r.index ∈ (remarkRecord s r).pub.change) ∧
    (r.kind = .level → r.index ∈ (remarkRecord s r).pub.level) := by
  have change : MarksOnly s (s.setChange r.index) :=
    ⟨_, s.pub.level, rfl, fun _ m => mem_setMark.mpr (.inr m), fun _ m => m⟩
  have level : MarksOnly s (s.setLevelMark r.index) :=
    ⟨s.pub.change, _, rfl, fun _ m => m, fun _ m => mem_setMark.mpr (.inr m)⟩
  unfold remarkRecord
  cases kind : r.kind with
  | level => exact ⟨level, fun k => absurd rfl k, fun _ => mem_setMark.mpr (.inl rfl)⟩
  | point => exact ⟨change, fun _ => mem_setMark.mpr (.inl rfl), nofun⟩
  | marker => exact ⟨change, fun _ => mem_setMark.mpr (.inl rfl), nofun⟩

theorem remarkRecords_marks (l : List Record) (s : State) : MarksOnly s (l.foldl remarkRecord s) ∧
    ∀ r ∈ l, (r.kind ≠ .level → r.index ∈ (l.foldl remarkRecord s).pub.change) ∧
      (r.kind = .level → r.index ∈ (l.foldl remarkRecord s).pub.level) := by
  induction l generalizing s with
  | nil => exact ⟨.refl s, nofun⟩
  | cons y l ih =>
    obtain ⟨first, change, level⟩ := remarkRecord_marks s y
    obtain ⟨rest, marks⟩ := ih (remarkRecord s y)
    refine ⟨first.trans rest, fun r mem => ?_⟩
    rcases List.mem_cons.mp mem with rfl | later
    · exact ⟨fun k => rest.change (change k), fun k => rest.level (level k)⟩
    · exact marks r later

theorem remarkFrame_marks (f : TxFrame) (s : State) : MarksOnly s (remarkFrame f s) ∧
    ∀ l, f.body = .records l → ∀ r ∈ l, (r.kind ≠ .level → r.index ∈ (remarkFrame f s).pub.change) ∧
      (r.kind = .level → r.index ∈ (remarkFrame f s).pub.level) := by
  unfold remarkFrame
  split
  case _ l body =>
    obtain ⟨frame, marks⟩ := remarkRecords_marks l s
    exact ⟨frame, fun k same => by rw [body] at same; cases same; exact marks⟩
  case _ body => exact ⟨.refl s, fun k same => by rw [body] at same; cases same⟩
  case _ body => exact ⟨.refl s, fun k same => by rw [body] at same; cases same⟩

/-- The Publisher after a series is rolled back. -/
def Publisher.rolled (f : TxFrame) (p : Publisher) : Publisher :=
  if f.kind = .fullset then
    if f.first then { p with cursor := none, frameStart := none, fullsetDue := true }
    else { p with cursor := p.frameStart, frameStart := none }
  else p

theorem rollBack_eq (f : TxFrame) (s : State) : rollBack f s = s.withPub (s.pub.rolled f) := by
  unfold rollBack Publisher.rolled
  split
  · split <;> rfl
  · rfl

theorem rolled_frame (f : TxFrame) (p : Publisher) : (p.rolled f).seq = p.seq ∧ (p.rolled f).copies = p.copies ∧
    (p.rolled f).change = p.change ∧ (p.rolled f).level = p.level ∧
    (f.kind = .fullset → (p.rolled f).frameStart = none ∧ (p.rolled f).startPending = p.startPending ∧
      (f.first = true → (p.rolled f).cursor = none ∧ (p.rolled f).fullsetDue = true) ∧
      (f.first = false → (p.rolled f).cursor = p.frameStart)) := by
  unfold Publisher.rolled
  by_cases kind : f.kind = .fullset
  · rw [if_pos kind]
    cases first : f.first <;> simp
  · rw [if_neg kind]
    exact ⟨rfl, rfl, rfl, rfl, fun k => absurd k kind⟩

theorem remarkFrame_riser (f : TxFrame) (s : State) : (remarkFrame f s).riser = s.riser := by
  obtain ⟨⟨_, _, same, _⟩, _⟩ := remarkFrame_marks f s
  rw [same]
  rfl

/-- The state of a frame given up, before LINE is set. -/
def givenUp (f : TxFrame) (s : State) : State :=
  ((remarkFrame f s).withPub { (remarkFrame f s).pub.rolled f with copiesInFlight := [] }).withRiser
    { (remarkFrame f s).riser with tx := .empty, giveUps := sat16 (remarkFrame f s).riser.giveUps }

theorem giveUp_eq (f : TxFrame) (s : State) : giveUp f s = (givenUp f s).setCondition .line := by
  unfold giveUp givenUp
  rw [rollBack_eq]
  rfl

/-! ## Collisions (R74, R75) -/

theorem drawSlots_lt (r : RiserLine) (c : Nat) : drawSlots r c < 2 ^ min c 6 := Nat.mod_lt _ (Nat.two_pow_pos _)

/-- A frame in back-off, or past a draw of 0: only the riser line moves. -/
theorem enterBackoff_cases (f : TxFrame) (c : Nat) (s : State) : ∃ tx quiet rx,
    enterBackoff f c s = s.withRiser { s.riser with tx := tx, quiet := quiet, rx := rx, draws := s.riser.draws + 1 } ∧
    ((∃ k, 0 < k ∧ k < 2 ^ min c 6 ∧ tx = .backoff f c k) ∨
      (s.riser.quiet = false ∧ tx = .waiting f c) ∨ (s.riser.quiet = true ∧ tx = .sending f c)) := by
  unfold enterBackoff
  dsimp only
  split
  case isTrue zero =>
    rw [sendOrWait_eq]
    cases quiet : s.riser.quiet with
    | false =>
      refine ⟨_, s.riser.quiet, s.riser.rx, ?_, .inr (.inl ⟨rfl, rfl⟩)⟩
      simp only [withRiser_riser, quiet, Bool.false_eq_true, if_false]
      rfl
    | true =>
      refine ⟨_, false, .receiving [] false false, ?_, .inr (.inr ⟨rfl, rfl⟩)⟩
      simp only [withRiser_riser, if_true]
      rfl
  case isFalse some =>
    exact ⟨_, s.riser.quiet, s.riser.rx, rfl, .inl ⟨_, Nat.pos_of_ne_zero some, drawSlots_lt _ _, rfl⟩⟩

/-- The state in which the collision is counted. -/
def State.collided (s : State) : State := s.withRiser { s.riser with collisionTotal := sat16 s.riser.collisionTotal }

/-- The receiver keeps what was read back whole (R81). -/
def State.keepsReadBack (f : TxFrame) (n : Nat) (s : State) : State :=
  s.withRiser { s.riser with rx := .receiving ((encodeFrame f).take n) false false }

theorem mismatchAt_giveUp {f : TxFrame} {c n : Nat} {s : State} (tenth : 10 ≤ c + 1) :
    mismatchAt f c n s = (giveUp f s.collided).keepsReadBack f n :=
  congrArg (State.keepsReadBack f n) (if_pos tenth)

theorem mismatchAt_backoff {f : TxFrame} {c n : Nat} {s : State} (below : c + 1 < 10) :
    mismatchAt f c n s = (enterBackoff f (c + 1) s.collided).keepsReadBack f n :=
  congrArg (State.keepsReadBack f n) (if_neg (Nat.not_le.mpr below))

/-- Settles O32: a frame below its tenth collision waits, one at its tenth is given up. -/
theorem mismatchBacksOffOrGivesUp : Obligations.MismatchBacksOffOrGivesUp := by
  intro f c n s u free settled sending
  have told : exec (.mismatch n) s = .next (mismatchAt f c n u) := by
    change Host.Outcome.next (external (mismatchEvent n) s) = _
    rw [external_free free, ← settled, mismatchEvent, sending]
  have total : sat16 u.riser.collisionTotal = min (u.riser.collisionTotal + 1) 65535 := satSucc_eq_min _ _
  by_cases tenth : 10 ≤ c + 1
  · rw [mismatchAt_giveUp tenth, giveUp_eq] at told
    obtain ⟨marks, records⟩ := remarkFrame_marks f u.collided
    obtain ⟨change, level, same, _, _⟩ := marks
    have line := setCondition_told (givenUp f u.collided) .line
    have riser : (givenUp f u.collided).riser = { u.collided.riser with
        tx := .empty, giveUps := sat16 u.collided.riser.giveUps } := by
      rw [givenUp, withRiser_riser, remarkFrame_riser]
    have pub : ((givenUp f u.collided).setCondition .line).pub =
        { (remarkFrame f u.collided).pub.rolled f with copiesInFlight := [] } := line.pub
    obtain ⟨seq, copies, changes, levels, fullset⟩ := rolled_frame f (remarkFrame f u.collided).pub
    have blocks : (givenUp f u.collided).table = u.table ∧ (givenUp f u.collided).scanner = u.scanner ∧
        (givenUp f u.collided).merge = u.merge := by
      unfold givenUp
      rw [same]
      exact ⟨rfl, rfl, rfl⟩
    have before : (remarkFrame f u.collided).pub.seq = u.pub.seq ∧
        (remarkFrame f u.collided).pub.copies = u.pub.copies ∧
        (remarkFrame f u.collided).pub.startPending = u.pub.startPending ∧
        (remarkFrame f u.collided).pub.frameStart = u.pub.frameStart := by
      rw [same]
      exact ⟨rfl, rfl, rfl, rfl⟩
    have lineRiser := line.riser
    rw [withControl_riser, riser] at lineRiser
    refine ⟨_, told, ?_, ?_, rfl, line.table.trans blocks.1, line.scanner.trans blocks.2.1,
      line.merge.trans blocks.2.2, fun below => absurd below (Nat.not_lt.mpr tenth), fun _ => ⟨?_, ?_,
        hasCondition_setCondition _ _, ?_, ?_, fun l body => ⟨fun r mem kind => ?_, fun r mem kind => ?_⟩,
        fun i mem => ?_, fun i mem => ?_, fun kind => ?_⟩⟩
    · exact (congrArg RiserLine.collisionTotal lineRiser).trans total
    · exact (congrArg Publisher.seq pub).trans (seq.trans before.1)
    · exact congrArg RiserLine.tx lineRiser
    · exact (congrArg RiserLine.giveUps lineRiser).trans (satSucc_eq_min _ _)
    · exact (congrArg Publisher.copies pub).trans (copies.trans before.2.1)
    · exact congrArg Publisher.copiesInFlight pub
    · refine ((congrArg Publisher.change pub).trans changes) ▸ (records l body r mem).1 kind
    · refine ((congrArg Publisher.level pub).trans levels) ▸ (records l body r mem).2 kind
    · refine ((congrArg Publisher.change pub).trans changes) ▸ (remarkFrame_marks f u.collided).1.change mem
    · refine ((congrArg Publisher.level pub).trans levels) ▸ (remarkFrame_marks f u.collided).1.level mem
    · obtain ⟨start, pending, first, later⟩ := fullset kind
      refine ⟨(congrArg Publisher.frameStart pub).trans start,
        (congrArg Publisher.startPending pub).trans (pending.trans before.2.2.1), fun k => ?_, fun k => ?_⟩
      · exact ⟨(congrArg Publisher.cursor pub).trans (first k).1, (congrArg Publisher.fullsetDue pub).trans (first k).2⟩
      · exact (congrArg Publisher.cursor pub).trans ((later k).trans before.2.2.2)
  · rw [mismatchAt_backoff (Nat.not_le.mp tenth)] at told
    obtain ⟨tx, quiet, rx, eq, cases_⟩ := enterBackoff_cases f (c + 1) u.collided
    rw [eq] at told
    exact ⟨_, told, total, rfl, rfl, rfl, rfl, rfl, fun _ => ⟨rfl, rfl, rfl, cases_⟩, fun k => absurd k tenth⟩

/-! ## Completion (R77, R89, R100, R103) -/

theorem getD_updAt_none {α : Type} (l : List (Option α)) (n m : Nat) :
    (updAt l n fun _ => none).getD m none = if m = n then none else l.getD m none := by
  by_cases inside : n < l.length
  · exact getD_updAt l n m _ none inside
  · rw [updAt_outside l n _ (Nat.le_of_not_lt inside)]
    split
    case isTrue same => exact List.getD_eq_default _ _ (same ▸ Nat.le_of_not_lt inside)
    case isFalse => rfl

theorem getD_foldl_emptied (l : List Nat) (copies : List (Option ClearingCopy)) (m : Nat) :
    (l.foldl (fun c i => updAt c (i - 64) fun _ => none) copies).getD m none =
      if m ∈ l.map (· - 64) then none else copies.getD m none := by
  induction l generalizing copies with
  | nil => simp
  | cons i l ih =>
    rw [List.foldl_cons, ih, getD_updAt_none, List.map_cons]
    by_cases later : m ∈ l.map (· - 64)
    · rw [if_pos later, if_pos (List.mem_cons_of_mem _ later)]
    · by_cases here : m = i - 64
      · rw [if_neg later, if_pos here, if_pos (here ▸ List.mem_cons_self)]
      · rw [if_neg later, if_neg here, if_neg fun k => (List.mem_cons.mp k).elim here later]

theorem copyAt_emptied {p : Publisher} (slots : ∀ i ∈ p.copiesInFlight, 64 ≤ i) {i : Nat} (low : 64 ≤ i)
    {q : Publisher}
    (emptied : q.copies = p.copiesInFlight.foldl (fun c i => updAt c (i - 64) fun _ => none) p.copies) :
    q.copyAt i = if i ∈ p.copiesInFlight then none else p.copyAt i := by
  have mem : i - 64 ∈ p.copiesInFlight.map (· - 64) ↔ i ∈ p.copiesInFlight := by
    constructor
    · intro k
      obtain ⟨j, hj, same⟩ := List.mem_map.mp k
      have slot := slots j hj
      have same : j = i := by
        change j - 64 = i - 64 at same
        omega
      exact same ▸ hj
    · exact fun k => List.mem_map.mpr ⟨i, k, rfl⟩
  rw [Publisher.copyAt, if_neg (Nat.not_lt.mpr low), emptied, getD_foldl_emptied, if_congr mem rfl rfl,
    Publisher.copyAt, if_neg (Nat.not_lt.mpr low)]

theorem hasCondition_clearCondition (s : State) (c k : Condition) :
    (s.clearCondition c).hasCondition k = (s.hasCondition k && !decide (k = c)) := by
  change (clearBit s.control.conditions c.bit).getLsbD k.bit = _
  have inside := k.bit_lt
  have same : decide (c.bit = k.bit) = decide (k = c) := by
    rw [decide_eq_decide, eq_comm]
    exact Condition.bit_inj
  rw [clearBit, BitVec.getLsbD_and, BitVec.getLsbD_not, BitVec.getLsbD_twoPow, decide_eq_true inside,
    decide_eq_true c.bit_lt, same]
  rfl

/-- The origins of the names moved to AWAITING (R103). -/
theorem awaitOrigins_origin (l : List Nat) (s : State) (x : Nat) :
    (x ∉ l → (l.foldl awaitOrigin s).origin x = s.origin x) ∧
    (x ∈ l → 1 ≤ x → x ≤ s.table.origins.length →
      (l.foldl awaitOrigin s).origin x = { s.origin x with resync := (s.origin x).resync.await }) := by
  induction l generalizing s with
  | nil => exact ⟨fun _ => rfl, nofun⟩
  | cons y l ih =>
    obtain ⟨other, named⟩ := ih (awaitOrigin s y)
    rw [awaitOrigin, modOrigin_origins_length] at named
    refine ⟨fun out => ?_, fun mem low high => ?_⟩
    · have apart : x ≠ y := fun k => out (k ▸ List.mem_cons_self)
      exact (other fun k => out (List.mem_cons_of_mem _ k)).trans (origin_modOrigin_ne apart _ _)
    · by_cases here : x = y
      · subst here
        have first : (awaitOrigin s x).origin x = { s.origin x with resync := (s.origin x).resync.await } :=
          origin_modOrigin_same low high _
        by_cases again : x ∈ l
        · refine (named again low high).trans ?_
          rw [show (s.modOrigin x fun o => { o with resync := o.resync.await }) = awaitOrigin s x from rfl, first,
            await_await]
        · exact (other again).trans first
      · have later := (List.mem_cons.mp mem).resolve_left here
        refine (named later low high).trans ?_
        rw [origin_modOrigin_ne here]

theorem awaitOrigins_eq (l : List Nat) (s : State) :
    ∃ o, l.foldl awaitOrigin s = s.withTable { s.table with origins := o } := by
  induction l generalizing s with
  | nil => exact ⟨s.table.origins, rfl⟩
  | cons y l ih =>
    obtain ⟨o, eq⟩ := ih (awaitOrigin s y)
    refine ⟨o, eq.trans ?_⟩
    rw [awaitOrigin, modOrigin_eq]
    rfl

/-- The Publisher and the table after a completion, by the kind of the frame. -/
theorem publisherCompletes_cases (f : TxFrame) (s : State) : ∃ o p q c,
    publisherCompletes f s = (s.withPub { s.pub with frameStart := p, startPending := q, cursor := c }).withTable
      { s.table with origins := o } ∧
    (f.kind = .fullset → o = s.table.origins ∧ p = none ∧
      q = (if f.start then false else s.pub.startPending) ∧ c = if f.last then none else s.pub.cursor) ∧
    (f.kind ≠ .fullset → c = s.pub.cursor ∧ p = s.pub.frameStart ∧ q = s.pub.startPending) ∧
    (f.kind = .state ∨ f.kind = .summary → o = s.table.origins) ∧
    (∀ l, f.kind = .resync → f.body = .names l → o = (l.foldl awaitOrigin s).table.origins) := by
  unfold publisherCompletes
  split
  case _ kind =>
    refine ⟨s.table.origins, _, _, _, rfl, fun _ => ⟨rfl, rfl, rfl, rfl⟩, fun k => absurd kind k, fun _ => rfl,
      fun _ k => ?_⟩
    rw [kind] at k
    cases k
  case _ l kind body =>
    obtain ⟨o, eq⟩ := awaitOrigins_eq l s
    refine ⟨o, s.pub.frameStart, s.pub.startPending, s.pub.cursor, eq, fun k => ?_, fun _ => ⟨rfl, rfl, rfl⟩,
      fun k => ?_, fun k _ same => ?_⟩
    · rw [kind] at k
      cases k
    · rw [kind] at k
      rcases k with k | k <;> cases k
    · rw [body] at same
      cases same
      rw [eq]
      rfl
  case _ notFullset notResync =>
    exact ⟨s.table.origins, s.pub.frameStart, s.pub.startPending, s.pub.cursor, rfl,
      fun k => (notFullset k).elim, fun _ => ⟨rfl, rfl, rfl⟩, fun _ => rfl,
      fun l kind body => (notResync l kind body).elim⟩

/-- Settles O33: completion is one write of the control, the Publisher, the table and the riser line, and no other
command but a reset moves the number. -/
theorem completionAdvancesTheSequenceNumber : Obligations.CompletionAdvancesTheSequenceNumber := by
  refine ⟨fun f c s u free settled sending => ?_, fun c s t other cold warm done => ?_⟩
  · have told : exec .frameCompletion s = .next (completeFrame f u) := by
      change Host.Outcome.next (external completionEvent s) = _
      rw [external_free free, ← settled, completionEvent, sending]
    let numbered := (u.withPub { u.pub with
      seq := (u.pub.seq + 1) % 4096, summaryCounter := Config.summaryInterval u.pub.seed,
      summaryDue := false }).clearCondition .line
    obtain ⟨o, p, q, cur, eq, fullset, others, plain, names⟩ := publisherCompletes_cases f numbered
    have whole : completeFrame f u = (emptySentCopies
        ((numbered.withPub { numbered.pub with frameStart := p, startPending := q, cursor := cur }).withTable
          { numbered.table with origins := o })).withRiser { u.riser with tx := .empty, rx := .idle } := by
      change (emptySentCopies (publisherCompletes f numbered)).withRiser
        { (emptySentCopies (publisherCompletes f numbered)).riser with tx := .empty, rx := .idle } = _
      rw [eq]
      rfl
    rw [whole] at told
    have line (k : Condition) : numbered.hasCondition k = (u.hasCondition k && !decide (k = .line)) :=
      hasCondition_clearCondition _ _ _
    refine ⟨_, told, rfl, rfl, (line .line).trans ?_, fun k apart => (line k).trans ?_, rfl, rfl, rfl, rfl, rfl, rfl,
      fun slots i low => copyAt_emptied slots low rfl, fun kind => ?_, fun l kind body length => ?_, fun kind => ?_⟩
    · exact Bool.and_false _
    · rw [decide_eq_false apart]
      exact Bool.and_true _
    · obtain ⟨origins, start, pending, cursor⟩ := fullset kind
      refine ⟨start, ?_, pending, cursor⟩
      change { u.table with origins := o } = u.table
      rw [origins]
      rfl
    · have origin (x : Nat) : State.origin (State.withRiser (emptySentCopies ((numbered.withPub { numbered.pub with
          frameStart := p, startPending := q, cursor := cur }).withTable { numbered.table with origins := o }))
            { u.riser with tx := .empty, rx := .idle }) x = (l.foldl awaitOrigin numbered).origin x :=
        origin_congr (names l kind body) x
      refine ⟨fun x mem low high => ?_, fun x out => ?_⟩
      · rw [origin, (awaitOrigins_origin l numbered x).2 mem low (by
          change x ≤ u.table.origins.length
          rw [length]
          exact high)]
        exact await_eq _
      · rw [origin, (awaitOrigins_origin l numbered x).1 out]
        rfl
    · refine ⟨?_, (others (by rcases kind with k | k <;> rw [k] <;> decide)).1⟩
      change { u.table with origins := o } = u.table
      rw [plain kind]
      rfl
  · by_cases asserted : c = .resetAssert
    · subst asserted
      cases done
      rw [assertReset_eq]
    · by_cases tick : ∃ r o, c = .tick r o
      · obtain ⟨r, o, rfl⟩ := tick
        have done : Host.Outcome.next (if s.control.resetHeld then tickHeld s else tickWork r o (settle s)) =
            .next t := done
        cases done
        split
        · rfl
        · have settled : (settle s).pub.seq = s.pub.seq := (settle_kept (.refl s)).seq
          rw [(tickWork_kept r o (settle s)).seq, ← settled]
          change (tickPub _ _).seq = _
          unfold tickPub
          split <;> rfl
      · exact (exec_kept cold warm asserted (fun r o k => tick ⟨r, o, k⟩) other done).seq

end Sys2Proof.Machine
end

section
/-!
PROOFS. Publication (chapter 5): O34 to O37.
-/
namespace Sys2Proof.Machine

/-! ## The list of R90 -/

theorem mem_wanted {s : State} {x : Nat} : x ∈ s.wanted ↔ 1 ≤ x ∧ (s.origin x).resync = .wanted := by
  rw [State.wanted, mem_stationsWhere, beq_iff_eq]
  refine ⟨fun k => ⟨k.1, k.2.2⟩, fun k => ⟨k.1, ?_, k.2⟩⟩
  by_contra outside
  have none := k.2
  rw [origin_outside (Nat.not_le.mp outside)] at none
  cases none

theorem isUrgent_iff {s : State} {i : Nat} : s.isUrgent i = true ↔
    ∃ e, s.ownAt i = some e ∧ (e.state = .alarm ∨ e.state = .hazard) := by
  unfold State.isUrgent
  split
  case _ e held => simp [held]
  case _ none => simp [none]

theorem any_urgent_iff {s : State} : s.pub.change.any s.isUrgent = true ↔
    ∃ i ∈ s.pub.change, ∃ e, s.ownAt i = some e ∧ (e.state = .alarm ∨ e.state = .hazard) := by
  simp only [List.any_eq_true, isUrgent_iff]

theorem mayBuild_iff {s : State} : s.mayBuild = true ↔ s.control.running = true ∧ s.riser.tx = .empty := by
  rw [State.mayBuild, Bool.and_eq_true]
  refine and_congr_right' ?_
  cases s.riser.tx <;> simp [Transmitter.isEmpty]

theorem wanted_isEmpty {s : State} : s.wanted.isEmpty = true ↔ ∀ x, 1 ≤ x → (s.origin x).resync ≠ .wanted := by
  rw [List.isEmpty_iff, List.eq_nil_iff_forall_not_mem]
  refine forall_congr' fun x => ?_
  rw [mem_wanted, not_and]

/-- Settles O34: the items are looked at in the order of the list. -/
theorem nextFrameFollowsTheList : Obligations.NextFrameFollowsTheList := by
  intro s
  refine ⟨fun no => if_neg fun k => ?_, fun running empty => ?_⟩
  · obtain ⟨running, empty⟩ := mayBuild_iff.mp k
    rcases no with stopped | full
    · exact Bool.noConfusion (stopped.symm.trans running)
    · exact full empty
  · rw [nextItem, if_pos (mayBuild_iff.mpr ⟨running, empty⟩), firstItem]
    refine ⟨fun start => if_pos start, fun noStart => ?_⟩
    rw [if_neg (by simp [noStart])]
    refine ⟨fun ⟨x, low, wanted⟩ => if_pos ?_, fun none => ?_⟩
    · have not : s.wanted.isEmpty = false := by
        rw [Bool.eq_false_iff]
        exact fun k => wanted_isEmpty.mp k x low wanted
      rw [not]
      rfl
    · rw [wanted_isEmpty.mpr none, if_neg (by decide)]
      refine ⟨fun urgent => if_pos (any_urgent_iff.mpr urgent), fun calm => ?_⟩
      have noUrgent : ¬s.pub.change.any s.isUrgent = true := fun k => by
        obtain ⟨i, mem, e, held, alarm | hazard⟩ := any_urgent_iff.mp k
        · exact (calm i mem e held).1 alarm
        · exact (calm i mem e held).2 hazard
      rw [if_neg noUrgent]
      refine ⟨fun series => if_pos ?_, fun idle notDue => ?_⟩
      · rcases series with open_ | due
        · exact Bool.or_eq_true_iff.mpr (.inl (Option.isSome_iff_ne_none.mpr open_))
        · exact Bool.or_eq_true_iff.mpr (.inr due)
      · rw [idle, notDue, if_neg (by decide)]
        refine ⟨fun marks => if_pos ?_, fun change level => ?_⟩
        · rcases marks with change | level
          · simp [change]
          · simp [level]
        · rw [change, level, if_neg (by decide)]

/-! ## A frame placed (R72, R73) -/

theorem nextItem_empty {s : State} {i : FrameItem} (h : nextItem s = some i) : s.riser.tx = .empty := by
  unfold nextItem at h
  split at h
  case isTrue may => exact (mayBuild_iff.mp may).2
  case isFalse => cases h

theorem nextItem_first {s : State} {i : FrameItem} (h : nextItem s = some i) : firstItem s = some i := by
  unfold nextItem at h
  split at h
  · exact h
  · cases h

theorem placeFrame_placed (f : TxFrame) {s t : State} (riser : t.riser = s.riser) : Placed f s (placeFrame f t) := by
  rw [Placed, placeFrame, sendOrWait_eq, riser]
  split <;> rfl

/-- A frame placed writes the riser line alone. -/
theorem placeFrame_eq (f : TxFrame) (s : State) : ∃ r, placeFrame f s = s.withRiser r :=
  ⟨_, sendOrWait_eq f 0 s⟩

theorem placeFrame_table (f : TxFrame) (s : State) : (placeFrame f s).table = s.table := by
  rw [placeFrame, sendOrWait_eq]
  rfl

theorem placeFrame_pub (f : TxFrame) (s : State) : (placeFrame f s).pub = s.pub := by
  rw [placeFrame, sendOrWait_eq]
  rfl

theorem placeFrame_crew (f : TxFrame) (s : State) : (placeFrame f s).crew = s.crew := by
  rw [placeFrame, sendOrWait_eq]
  rfl

/-! ## SUMMARY and RESYNC (R95, R102) -/

theorem wanted_of_nextItem {s : State} (h : nextItem s = some .resync) : s.wanted ≠ [] := by
  intro none
  have first := nextItem_first h
  unfold firstItem at first
  rw [none] at first
  split at first
  · cases first
  · rw [if_neg (by decide)] at first
    split at first
    · cases first
    · split at first
      · cases first
      · split at first
        · cases first
        · split at first <;> cases first

theorem buildSummary_pub (s : State) : (buildSummary s).pub = { s.pub with copiesInFlight := [] } := placeFrame_pub _ _

theorem buildResync_pub (s : State) : (buildResync s).pub = { s.pub with copiesInFlight := [] } := placeFrame_pub _ _

/-- The first members of a rising list, up to a number of them. -/
theorem take_sorted {l : List Nat} (sorted : l.Pairwise (· < ·)) (n : Nat) :
    (l.take n).Pairwise (· < ·) ∧ ∀ x ∈ l, x ∉ l.take n → (l.take n).length = n ∧ ∀ y ∈ l.take n, y < x := by
  refine ⟨sorted.sublist (List.take_sublist n l), fun x mem out => ?_⟩
  have split : l.take n ++ l.drop n = l := List.take_append_drop n l
  have later : x ∈ l.drop n := by
    rw [← split] at mem
    exact (List.mem_append.mp mem).resolve_left out
  refine ⟨?_, fun y hy => ?_⟩
  · rw [List.length_take]
    have : 0 < (l.drop n).length := List.length_pos_of_mem later
    rw [List.length_drop] at this
    omega
  · rw [← split] at sorted
    exact (List.pairwise_append.mp sorted).2.2 y hy x later

/-- Settles O37: the SUMMARY is of the state as it stands, the RESYNC of the first WANTED origins. -/
theorem summaryAndResyncFramesBuilt : Obligations.SummaryAndResyncFramesBuilt := by
  refine ⟨fun s free next => ?_, fun s free next => ?_⟩
  · have told : exec .summaryFrameBuild s = .next (buildSummary s) := by
      change Host.Outcome.next (internal _ s) = _
      rw [internal_free free, if_pos next]
    refine ⟨_, told, placeFrame_table _ _, ?_, ?_, ?_, placeFrame_placed _ rfl⟩
    · rw [buildSummary_pub]
    · rw [buildSummary_pub]
    · rw [buildSummary_pub]
  · have told : exec .resyncFrameBuild s = .next (buildResync s) := by
      change Host.Outcome.next (internal _ s) = _
      rw [internal_free free, if_pos next]
    obtain ⟨sorted, left⟩ := take_sorted (stationsWhere_sorted s fun o => o.resync == .wanted) 8
    refine ⟨_, s.wanted.take 8, told, placeFrame_table _ _, ?_, ?_, placeFrame_placed _ rfl, ?_, List.length_take_le 8 _,
      sorted, fun x mem => (mem_wanted.mp (List.mem_of_mem_take mem)).2,
      fun x some wanted out => left x (mem_wanted.mpr ⟨some, wanted⟩) out⟩
    · rw [buildResync_pub]
    · rw [buildResync_pub]
    · rw [List.length_take]
      have some : 0 < s.wanted.length := List.length_pos_iff.mpr (wanted_of_nextItem next)
      omega

/-! ## FULLSET (R98) -/

theorem ownAt_index {s : State} {i : Nat} {e : Entry} (held : s.ownAt i = some e) : e.addr.index = i :=
  congrArg Address.index (addr_of_entryAt held)

theorem mem_seriesEntries {s : State} {n : Nat} {e : Entry} : e ∈ seriesEntries s n ↔
    s.ownAt e.addr.index = some e ∧ e.addr.index ≤ 79 ∧ n ≤ e.addr.index ∧ e.state ≠ .cleared := by
  simp only [seriesEntries, List.mem_filter, List.mem_filterMap, List.mem_range, Bool.and_eq_true,
    decide_eq_true_iff, Bool.not_eq_true', beq_eq_false_iff_ne]
  constructor
  · rintro ⟨⟨i, inside, held⟩, from_, live⟩
    have index := ownAt_index held
    subst index
    exact ⟨held, Nat.le_of_lt_succ inside, from_, live⟩
  · rintro ⟨held, inside, from_, live⟩
    exact ⟨⟨_, Nat.lt_succ_of_le inside, held⟩, from_, live⟩

theorem seriesEntries_sorted (s : State) (n : Nat) :
    (seriesEntries s n).Pairwise fun a b => a.addr.index < b.addr.index := by
  refine List.Pairwise.filter _ (List.pairwise_filterMap.mpr ?_)
  refine List.pairwise_lt_range.imp fun before e he d hd => ?_
  rw [ownAt_index he, ownAt_index hd]
  exact before

/-- The entries that the next FULLSET frame carries. -/
def State.seriesTaken (s : State) : List Entry := (seriesEntries s (s.pub.cursor.getD 0)).take frameRecords

/-- The index that the walk goes on from. -/
def nextCursor (taken : List Entry) : Nat :=
  match taken.getLast? with
  | some e => e.addr.index + 1
  | none => 80

/-- The frame that the next FULLSET is. -/
def State.fullsetFrame (s : State) : TxFrame :=
  frameOf s .fullset s.pub.cursor.isNone (seriesEntries s (nextCursor s.seriesTaken)).isEmpty
    (s.pub.cursor.isNone && s.pub.startPending) (.records (s.seriesTaken.map (recordOfEntry s)))

/-- The Publisher after a FULLSET frame is built. -/
def State.fullsetPub (s : State) : Publisher :=
  { s.pub with
    change := s.pub.change.filter (fun i => !(s.seriesTaken.map fun e => e.addr.index).contains i)
    level := s.pub.level.filter (fun i => !(s.seriesTaken.map fun e => e.addr.index).contains i)
    copiesInFlight := []
    fullsetDue := if s.pub.cursor.isNone then false else s.pub.fullsetDue
    frameStart := some (s.pub.cursor.getD 0)
    cursor := some (if (seriesEntries s (nextCursor s.seriesTaken)).isEmpty then 80 else nextCursor s.seriesTaken) }

theorem buildFullset_eq (s : State) : buildFullset s = placeFrame s.fullsetFrame (s.withPub s.fullsetPub) := rfl

theorem buildFullset_pub (s : State) : (buildFullset s).pub = s.fullsetPub := placeFrame_pub _ _

/-- The series reaches at least to where the walk goes on. -/
theorem mem_seriesTaken_of_lt {s : State} {e : Entry} (mem : e ∈ seriesEntries s (s.pub.cursor.getD 0))
    (before : e.addr.index < nextCursor s.seriesTaken) : e ∈ s.seriesTaken := by
  by_contra out
  have split : s.seriesTaken ++ (seriesEntries s (s.pub.cursor.getD 0)).drop frameRecords = _ :=
    List.take_append_drop frameRecords _
  have sorted := seriesEntries_sorted s (s.pub.cursor.getD 0)
  rw [← split] at mem sorted
  have later := (List.mem_append.mp mem).resolve_left out
  have apart := (List.pairwise_append.mp sorted).2.2
  unfold nextCursor at before
  cases last : s.seriesTaken.getLast? with
  | some y =>
    rw [last] at before
    have after := apart y (List.mem_of_getLast? last) e later
    have before : e.addr.index < y.addr.index + 1 := before
    omega
  | none =>
    have empty := List.getLast?_eq_none_iff.mp last
    have some := List.length_pos_of_mem later
    have zero : s.seriesTaken.length = 0 := by rw [empty]; rfl
    rw [State.seriesTaken, List.length_take] at zero
    rw [List.length_drop] at some
    have twelve : frameRecords = 12 := rfl
    omega

theorem mem_fullset_marks {s : State} {l : List Nat} {e : Entry} (mem : e ∈ s.seriesTaken) :
    e.addr.index ∉ l.filter fun i => !(s.seriesTaken.map fun e => e.addr.index).contains i := by
  intro k
  have inside : e.addr.index ∈ s.seriesTaken.map fun e => e.addr.index := List.mem_map.mpr ⟨e, mem, rfl⟩
  have not := (List.mem_filter.mp k).2
  rw [List.contains_iff_mem.mpr inside] at not
  cases not

theorem recordOfEntry_kind (s : State) (e : Entry) : (recordOfEntry s e).kind ≠ .level := by
  rw [recordOfEntry]
  dsimp only
  split <;> decide

/-- Settles O36: the frame takes the first entries of the series in their order, and goes on behind the last. -/
theorem fullsetFrameWalksTheCursor : Obligations.FullsetFrameWalksTheCursor := by
  intro s free next
  have told : exec .fullsetFrameBuild s = .next (buildFullset s) := by
    change Host.Outcome.next (internal _ s) = _
    rw [internal_free free, if_pos next]
  have series {e : Entry} (mem : e ∈ s.seriesTaken) := mem_seriesEntries.mp (List.mem_of_mem_take mem)
  have cursor : nextCursor s.seriesTaken =
      match (s.seriesTaken.map (recordOfEntry s)).getLast? with
      | some r => r.index + 1
      | none => 80 := by
    rw [List.getLast?_map, nextCursor]
    cases s.seriesTaken.getLast? <;> rfl
  refine ⟨_, s.fullsetFrame, s.seriesTaken.map (recordOfEntry s), nextCursor s.seriesTaken, told,
    placeFrame_placed s.fullsetFrame (t := s.withPub s.fullsetPub) rfl, placeFrame_table _ _, rfl, ⟨rfl, rfl, rfl⟩, rfl, ?_, ?_, ?_, rfl, rfl, fun r mem => ?_, ?_,
    cursor, fun i e from_ before inside held live => ?_, ?_, ?_, ?_, fun first => ?_, fun later => ?_⟩
  · rw [List.length_map]
    exact List.length_take_le _ _
  · rw [buildFullset_pub]
    rfl
  · rw [buildFullset_pub]
    rfl
  · obtain ⟨e, taken, rfl⟩ := List.mem_map.mp mem
    obtain ⟨held, _, from_, live⟩ := series taken
    rw [buildFullset_pub]
    exact ⟨from_, live, recordOfEntry_kind s e, ⟨e, held, rfl, rfl, rfl, rfl, rfl⟩, mem_fullset_marks taken,
      mem_fullset_marks taken⟩
  · rw [List.pairwise_map]
    exact (seriesEntries_sorted s _).sublist (List.take_sublist _ _)
  · have index := ownAt_index held
    subst index
    have mem := mem_seriesEntries.mpr ⟨held, inside, from_, live⟩
    exact ⟨_, List.mem_map.mpr ⟨e, mem_seriesTaken_of_lt mem before, rfl⟩, rfl⟩
  · change (seriesEntries s (nextCursor s.seriesTaken)).isEmpty = true ↔ _
    rw [List.isEmpty_iff, List.eq_nil_iff_forall_not_mem]
    constructor
    · intro none i e from_ inside held
      have index := ownAt_index held
      subst index
      by_contra live
      exact none e (mem_seriesEntries.mpr ⟨held, inside, from_, live⟩)
    · intro all e mem
      obtain ⟨held, inside, from_, live⟩ := mem_seriesEntries.mp mem
      exact live (all _ e from_ inside held)
  · rw [buildFullset_pub]
    rfl
  · rw [buildFullset_pub]
    rfl
  · rw [buildFullset_pub]
    exact if_pos first
  · rw [buildFullset_pub]
    refine if_neg fun k => Bool.noConfusion (later.symm.trans k)

/-! ## STATE (R91 to R93) -/

/-- The three ways a change mark gives a record, and the one way it gives none. -/
theorem recordForMark_cases (s : State) (i : Nat) :
    (∀ e, s.ownAt i = some e → recordForMark s i = some (recordOfEntry s e, false)) ∧
    (s.ownAt i = none → i < 64 → recordForMark s i = some (recordOfGonePoint s i, false)) ∧
    (∀ c, s.ownAt i = none → 64 ≤ i → s.pub.copyAt i = some c → recordForMark s i = some (recordOfCopy i c, true)) ∧
    (s.ownAt i = none → 64 ≤ i → s.pub.copyAt i = none → recordForMark s i = none) := by
  unfold recordForMark
  refine ⟨fun e held => by rw [held], fun none loop => ?_, fun c none slot copy => ?_, fun none slot empty => ?_⟩
  · rw [none]
    exact if_pos (decide_eq_true loop)
  · rw [none, copy]
    exact if_neg (by simpa [isLoopIndex] using slot)
  · rw [none, empty]
    exact if_neg (by simpa [isLoopIndex] using slot)

/-- A record that a change mark gives, with the copy it is built from. -/
inductive MarkRecord (s : State) (i : Nat) : Record → Bool → Prop where
  | held (e : Entry) (at_ : s.ownAt i = some e) : MarkRecord s i (recordOfEntry s e) false
  | gone (none : s.ownAt i = none) (loop : i < 64) : MarkRecord s i (recordOfGonePoint s i) false
  | copy (c : ClearingCopy) (none : s.ownAt i = none) (slot : 64 ≤ i) (at_ : s.pub.copyAt i = some c) :
      MarkRecord s i (recordOfCopy i c) true

theorem markRecord_of {s : State} {i : Nat} {r : Record} {b : Bool} (h : recordForMark s i = some (r, b)) :
    MarkRecord s i r b := by
  obtain ⟨held, gone, copied, empty⟩ := recordForMark_cases s i
  cases own : s.ownAt i with
  | some e =>
    obtain ⟨rfl, rfl⟩ := Prod.mk.inj (Option.some.inj (h.symm.trans (held e own)))
    exact .held e own
  | none =>
    by_cases loop : i < 64
    · obtain ⟨rfl, rfl⟩ := Prod.mk.inj (Option.some.inj (h.symm.trans (gone own loop)))
      exact .gone own loop
    · have slot := Nat.not_lt.mp loop
      cases copy : s.pub.copyAt i with
      | some c =>
        obtain ⟨rfl, rfl⟩ := Prod.mk.inj (Option.some.inj (h.symm.trans (copied c own slot copy)))
        exact .copy c own slot copy
      | none => exact absurd (h.symm.trans (empty own slot copy)) (Option.some_ne_none _)

theorem recordForMark_none {s : State} {i : Nat} (h : recordForMark s i = none) :
    64 ≤ i ∧ s.ownAt i = none ∧ s.pub.copyAt i = none := by
  obtain ⟨held, gone, copied, _⟩ := recordForMark_cases s i
  cases own : s.ownAt i with
  | some e => exact absurd ((held e own).symm.trans h) (Option.some_ne_none _)
  | none =>
    by_cases loop : i < 64
    · exact absurd ((gone own loop).symm.trans h) (Option.some_ne_none _)
    · have slot := Nat.not_lt.mp loop
      cases copy : s.pub.copyAt i with
      | some c => exact absurd ((copied c own slot copy).symm.trans h) (Option.some_ne_none _)
      | none => exact ⟨slot, rfl, rfl⟩

theorem MarkRecord.index {s : State} {i : Nat} {r : Record} {b : Bool} (h : MarkRecord s i r b) : r.index = i := by
  cases h with
  | held e own => exact ownAt_index own
  | gone => rfl
  | copy => rfl

theorem MarkRecord.kind {s : State} {i : Nat} {r : Record} {b : Bool} (h : MarkRecord s i r b) : r.kind ≠ .level := by
  cases h with
  | held e => exact recordOfEntry_kind s e
  | gone => exact nofun
  | copy => exact nofun

/-- A STATE frame in the building, as it stands between two marks. -/
structure Building.Sound (s : State) (b : Building) : Prop where
  few : b.records.length ≤ 12
  change : ∀ i ∈ b.change, i ∈ s.pub.change
  level : ∀ i ∈ b.level, i ∈ s.pub.level
  order : b.records.Pairwise fun x y => x.kind = .level → y.kind = .level
  changes : ∀ r ∈ b.records, r.kind ≠ .level → r.index ∈ s.pub.change ∧ r.index ∉ b.change ∧ r.index ∉ b.level ∧
    ∃ c, MarkRecord s r.index r c
  levels : ∀ r ∈ b.records, r.kind = .level → r.index ∈ s.pub.level ∧ r.index ∉ b.level ∧
    ∃ e, s.ownAt r.index = some e ∧ r = levelRecordOf e
  copied : ∀ i, i ∈ b.copied ↔ 64 ≤ i ∧ s.ownAt i = none ∧ ∃ r ∈ b.records, r.index = i
  allChange : ∀ i ∈ s.pub.change, i ∈ b.change ∨ (∃ r ∈ b.records, r.kind ≠ .level ∧ r.index = i) ∨
    recordForMark s i = none
  allLevel : ∀ i ∈ s.pub.level, i ∈ b.level ∨ (∃ r ∈ b.records, r.index = i) ∨ s.ownAt i = none

/-- No level record is copied yet. -/
def Building.Early (b : Building) : Prop := ∀ r ∈ b.records, r.kind ≠ .level

/-- What one mark taken does: the records grow at their end, the marks become fewer, and the mark itself goes unless
the frame is full. -/
structure Building.Grows (b c : Building) : Prop where
  records : b.records <+: c.records
  change : ∀ i ∈ c.change, i ∈ b.change
  level : ∀ i ∈ c.level, i ∈ b.level

theorem Building.Grows.refl (b : Building) : b.Grows b := ⟨List.prefix_refl _, fun _ h => h, fun _ h => h⟩

theorem Building.Grows.trans {b c d : Building} (h : b.Grows c) (k : c.Grows d) : b.Grows d :=
  ⟨h.records.trans k.records, fun i m => h.change i (k.change i m), fun i m => h.level i (k.level i m)⟩

theorem takeChange_full {s : State} {b : Building} (full : 12 ≤ b.records.length) (i : Nat) :
    takeChange s b i = b := if_pos full

theorem takeChange_some {s : State} {b : Building} {i : Nat} {r : Record} {c : Bool}
    (room : b.records.length < 12) (given : recordForMark s i = some (r, c)) : takeChange s b i =
      { records := b.records ++ [r], change := clearMark i b.change, level := clearMark i b.level,
        copied := if c then b.copied ++ [i] else b.copied } := by
  have not : ¬frameRecords ≤ b.records.length := Nat.not_le.mpr room
  rw [takeChange, if_neg not, given]

theorem takeChange_none {s : State} {b : Building} {i : Nat} (room : b.records.length < 12)
    (none : recordForMark s i = none) : takeChange s b i = { b with change := clearMark i b.change } := by
  have not : ¬frameRecords ≤ b.records.length := Nat.not_le.mpr room
  rw [takeChange, if_neg not, none]

theorem takeLevel_full {s : State} {b : Building} (full : 12 ≤ b.records.length) (i : Nat) :
    takeLevel s b i = b := if_pos full

theorem takeLevel_some {s : State} {b : Building} {i : Nat} {e : Entry} (room : b.records.length < 12)
    (held : s.ownAt i = some e) : takeLevel s b i =
      { b with records := b.records ++ [levelRecordOf e], level := clearMark i b.level } := by
  have not : ¬frameRecords ≤ b.records.length := Nat.not_le.mpr room
  rw [takeLevel, if_neg not, held]

theorem takeLevel_none {s : State} {b : Building} {i : Nat} (room : b.records.length < 12) (none : s.ownAt i = none) :
    takeLevel s b i = { b with level := clearMark i b.level } := by
  have not : ¬frameRecords ≤ b.records.length := Nat.not_le.mpr room
  rw [takeLevel, if_neg not, none]

theorem takeChange_grows (s : State) (b : Building) (i : Nat) : b.Grows (takeChange s b i) ∧
    ((takeChange s b i).records.length < 12 → i ∉ (takeChange s b i).change) := by
  by_cases room : b.records.length < 12
  · cases given : recordForMark s i with
    | some out =>
      rw [takeChange_some room (c := out.2) given]
      exact ⟨⟨List.prefix_append _ _, fun k m => (mem_clearMark.mp m).1, fun k m => (mem_clearMark.mp m).1⟩,
        fun _ m => (mem_clearMark.mp m).2 rfl⟩
    | none =>
      rw [takeChange_none room given]
      exact ⟨⟨List.prefix_refl _, fun k m => (mem_clearMark.mp m).1, fun _ m => m⟩,
        fun _ m => (mem_clearMark.mp m).2 rfl⟩
  · rw [takeChange_full (Nat.not_lt.mp room)]
    exact ⟨.refl b, fun k => absurd k room⟩

theorem takeLevel_grows (s : State) (b : Building) (i : Nat) : b.Grows (takeLevel s b i) ∧
    (takeLevel s b i).change = b.change ∧
    ((takeLevel s b i).records.length < 12 → i ∉ (takeLevel s b i).level) := by
  by_cases room : b.records.length < 12
  · cases held : s.ownAt i with
    | some e =>
      rw [takeLevel_some room held]
      exact ⟨⟨List.prefix_append _ _, fun _ m => m, fun k m => (mem_clearMark.mp m).1⟩, rfl,
        fun _ m => (mem_clearMark.mp m).2 rfl⟩
    | none =>
      rw [takeLevel_none room held]
      exact ⟨⟨List.prefix_refl _, fun _ m => m, fun k m => (mem_clearMark.mp m).1⟩, rfl,
        fun _ m => (mem_clearMark.mp m).2 rfl⟩
  · rw [takeLevel_full (Nat.not_lt.mp room)]
    exact ⟨.refl b, rfl, fun k => absurd k room⟩

theorem Building.Grows.room {b c : Building} (h : b.Grows c) (room : c.records.length < 12) :
    b.records.length < 12 := Nat.lt_of_le_of_lt h.records.length_le room

/-- A pass takes every mark of its list, unless it fills the frame. -/
theorem takeChanges_grows (s : State) (l : List Nat) (b : Building) : b.Grows (l.foldl (takeChange s) b) ∧
    ((l.foldl (takeChange s) b).records.length < 12 → ∀ i ∈ l, i ∉ (l.foldl (takeChange s) b).change) := by
  induction l generalizing b with
  | nil => exact ⟨.refl b, fun _ _ h => nomatch h⟩
  | cons y l ih =>
    obtain ⟨first, gone⟩ := takeChange_grows s b y
    obtain ⟨rest, allGone⟩ := ih (takeChange s b y)
    refine ⟨first.trans rest, fun room i mem => ?_⟩
    rcases List.mem_cons.mp mem with rfl | later
    · exact fun k => gone (rest.room room) (rest.change _ k)
    · exact allGone room i later

theorem takeLevels_grows (s : State) (l : List Nat) (b : Building) : b.Grows (l.foldl (takeLevel s) b) ∧
    (l.foldl (takeLevel s) b).change = b.change ∧
    ((l.foldl (takeLevel s) b).records.length < 12 → ∀ i ∈ l, i ∉ (l.foldl (takeLevel s) b).level) := by
  induction l generalizing b with
  | nil => exact ⟨.refl b, rfl, fun _ _ h => nomatch h⟩
  | cons y l ih =>
    obtain ⟨first, same, gone⟩ := takeLevel_grows s b y
    obtain ⟨rest, sameRest, allGone⟩ := ih (takeLevel s b y)
    refine ⟨first.trans rest, sameRest.trans same, fun room i mem => ?_⟩
    rcases List.mem_cons.mp mem with rfl | later
    · exact fun k => gone (rest.room room) (rest.level _ k)
    · exact allGone room i later

theorem takeChange_sound {s : State} {b : Building} (h : b.Sound s) (early : b.Early) {i : Nat}
    (marked : i ∈ s.pub.change) : (takeChange s b i).Sound s ∧ (takeChange s b i).Early := by
  by_cases room : b.records.length < 12
  · cases given : recordForMark s i with
    | some out =>
      obtain ⟨r, c⟩ := out
      have mark := markRecord_of given
      have index := mark.index
      rw [takeChange_some room given]
      have earlyNew (x : Record) (hx : x ∈ b.records ++ [r]) : x.kind ≠ .level := by
        rcases List.mem_append.mp hx with old | new
        · exact early x old
        · exact List.mem_singleton.mp new ▸ mark.kind
      refine ⟨⟨?_, fun k m => h.change k (mem_clearMark.mp m).1, fun k m => h.level k (mem_clearMark.mp m).1, ?_,
        fun x hx kind => ?_, fun x hx kind => absurd kind (earlyNew x hx), fun k => ?_, fun k m => ?_, fun k m => ?_⟩,
        earlyNew⟩
      · rw [List.length_append]
        exact room
      · refine List.pairwise_append.mpr ⟨h.order, List.pairwise_singleton _ _, fun x hx _ _ kind => ?_⟩
        exact absurd kind (early x hx)
      · rcases List.mem_append.mp hx with old | new
        · obtain ⟨inside, noChange, noLevel, built⟩ := h.changes x old kind
          exact ⟨inside, fun m => noChange (mem_clearMark.mp m).1, fun m => noLevel (mem_clearMark.mp m).1, built⟩
        · rw [List.mem_singleton.mp new, index]
          exact ⟨marked, fun m => (mem_clearMark.mp m).2 rfl, fun m => (mem_clearMark.mp m).2 rfl, c, mark⟩
      · have before := h.copied k
        have grown : (∃ x ∈ b.records ++ [r], x.index = k) ↔ (∃ x ∈ b.records, x.index = k) ∨ k = i := by
          simp only [List.mem_append, List.mem_singleton, or_and_right, exists_or, exists_eq_left, index]
          exact or_congr_right eq_comm
        dsimp only
        rw [grown]
        cases mark with
        | held e own =>
          refine before.trans (and_congr_right' (and_congr_right fun none => (or_iff_left ?_).symm))
          rintro rfl
          rw [own] at none
          cases none
        | gone none loop =>
          refine before.trans (and_congr_right fun slot => and_congr_right' (or_iff_left ?_).symm)
          rintro rfl
          omega
        | copy c none slot _ =>
          rw [if_pos rfl, List.mem_append, List.mem_singleton, before]
          constructor
          · rintro (⟨a, o, x⟩ | rfl)
            · exact ⟨a, o, .inl x⟩
            · exact ⟨slot, none, .inr rfl⟩
          · rintro ⟨a, o, x | rfl⟩
            · exact .inl ⟨a, o, x⟩
            · exact .inr rfl
      · by_cases same : k = i
        · exact .inr (.inl ⟨r, List.mem_append_right _ (List.mem_singleton_self r), mark.kind, index.trans same.symm⟩)
        · rcases h.allChange k m with stays | ⟨x, hx, kind, at_⟩ | none
          · exact .inl (mem_clearMark.mpr ⟨stays, same⟩)
          · exact .inr (.inl ⟨x, List.mem_append_left _ hx, kind, at_⟩)
          · exact .inr (.inr none)
      · by_cases same : k = i
        · exact .inr (.inl ⟨r, List.mem_append_right _ (List.mem_singleton_self r), index.trans same.symm⟩)
        · rcases h.allLevel k m with stays | ⟨x, hx, at_⟩ | none
          · exact .inl (mem_clearMark.mpr ⟨stays, same⟩)
          · exact .inr (.inl ⟨x, List.mem_append_left _ hx, at_⟩)
          · exact .inr (.inr none)
    | none =>
      rw [takeChange_none room given]
      refine ⟨⟨h.few, fun k m => h.change k (mem_clearMark.mp m).1, h.level, h.order, fun x hx kind => ?_, h.levels,
        h.copied, fun k m => ?_, h.allLevel⟩, early⟩
      · obtain ⟨inside, noChange, noLevel, built⟩ := h.changes x hx kind
        exact ⟨inside, fun m => noChange (mem_clearMark.mp m).1, noLevel, built⟩
      · by_cases same : k = i
        · exact .inr (.inr (same ▸ given))
        · rcases h.allChange k m with stays | other
          · exact .inl (mem_clearMark.mpr ⟨stays, same⟩)
          · exact .inr other
  · rw [takeChange_full (Nat.not_lt.mp room)]
    exact ⟨h, early⟩

theorem takeLevel_sound {s : State} {b : Building} (h : b.Sound s) {i : Nat} (marked : i ∈ s.pub.level) :
    (takeLevel s b i).Sound s := by
  by_cases room : b.records.length < 12
  · cases held : s.ownAt i with
    | some e =>
      have index : (levelRecordOf e).index = i := ownAt_index held
      rw [takeLevel_some room held]
      refine ⟨?_, h.change, fun k m => h.level k (mem_clearMark.mp m).1, ?_, fun x hx kind => ?_, fun x hx kind => ?_,
        fun k => ?_, fun k m => ?_, fun k m => ?_⟩
      · rw [List.length_append]
        exact room
      · refine List.pairwise_append.mpr ⟨h.order, List.pairwise_singleton _ _, fun x _ y hy _ => ?_⟩
        rw [List.mem_singleton.mp hy]
        rfl
      · rcases List.mem_append.mp hx with old | new
        · obtain ⟨inside, noChange, noLevel, built⟩ := h.changes x old kind
          exact ⟨inside, noChange, fun m => noLevel (mem_clearMark.mp m).1, built⟩
        · rw [List.mem_singleton.mp new] at kind
          exact absurd rfl kind
      · rcases List.mem_append.mp hx with old | new
        · obtain ⟨inside, noLevel, built⟩ := h.levels x old kind
          exact ⟨inside, fun m => noLevel (mem_clearMark.mp m).1, built⟩
        · rw [List.mem_singleton.mp new, index]
          exact ⟨marked, fun m => (mem_clearMark.mp m).2 rfl, e, held, rfl⟩
      · refine (h.copied k).trans (and_congr_right' (and_congr_right fun none => ?_))
        have apart : k ≠ i := fun same => by
          rw [same, held] at none
          cases none
        simp only [List.mem_append, List.mem_singleton, or_and_right, exists_or, exists_eq_left, index]
        exact (or_iff_left apart.symm).symm
      · rcases h.allChange k m with stays | ⟨x, hx, kind, at_⟩ | none
        · exact .inl stays
        · exact .inr (.inl ⟨x, List.mem_append_left _ hx, kind, at_⟩)
        · exact .inr (.inr none)
      · by_cases same : k = i
        · exact .inr (.inl ⟨_, List.mem_append_right _ (List.mem_singleton_self _), index.trans same.symm⟩)
        · rcases h.allLevel k m with stays | ⟨x, hx, at_⟩ | none
          · exact .inl (mem_clearMark.mpr ⟨stays, same⟩)
          · exact .inr (.inl ⟨x, List.mem_append_left _ hx, at_⟩)
          · exact .inr (.inr none)
    | none =>
      rw [takeLevel_none room held]
      refine ⟨h.few, h.change, fun k m => h.level k (mem_clearMark.mp m).1, h.order, fun x hx kind => ?_,
        fun x hx kind => ?_, h.copied, h.allChange, fun k m => ?_⟩
      · obtain ⟨inside, noChange, noLevel, built⟩ := h.changes x hx kind
        exact ⟨inside, noChange, fun m => noLevel (mem_clearMark.mp m).1, built⟩
      · obtain ⟨inside, noLevel, built⟩ := h.levels x hx kind
        exact ⟨inside, fun m => noLevel (mem_clearMark.mp m).1, built⟩
      · by_cases same : k = i
        · exact .inr (.inr (same ▸ held))
        · rcases h.allLevel k m with stays | other
          · exact .inl (mem_clearMark.mpr ⟨stays, same⟩)
          · exact .inr other
  · rw [takeLevel_full (Nat.not_lt.mp room)]
    exact h

/-- The building of a STATE frame begun: nothing copied, every mark standing. -/
def Building.start (s : State) : Building := ⟨[], s.pub.change, s.pub.level, []⟩

theorem start_sound (s : State) : (Building.start s).Sound s :=
  ⟨Nat.zero_le _, fun _ m => m, fun _ m => m, List.Pairwise.nil, nofun, nofun, fun _ => ⟨nofun, fun k => by
    obtain ⟨_, _, _, m, _⟩ := k
    cases m⟩, fun _ m => .inl m, fun _ m => .inl m⟩

/-- The building after the urgent marks, and after every change mark. -/
def urgentFilled (s : State) : Building := (s.pub.change.filter s.isUrgent).foldl (takeChange s) (.start s)

def changeFilled (s : State) : Building := (urgentFilled s).change.foldl (takeChange s) (urgentFilled s)

theorem fillState_eq (s : State) : fillState s = (changeFilled s).level.foldl (takeLevel s) (changeFilled s) := rfl

theorem takeChanges_sound {s : State} {l : List Nat} (marked : ∀ i ∈ l, i ∈ s.pub.change) {b : Building}
    (h : b.Sound s) (early : b.Early) : (l.foldl (takeChange s) b).Sound s ∧ (l.foldl (takeChange s) b).Early :=
  StepClosed.foldl_keeps_mem (Q := fun b : Building => b.Sound s ∧ b.Early) l
    (fun _ i mem k => takeChange_sound k.1 k.2 (marked i mem)) b ⟨h, early⟩

theorem urgentFilled_sound (s : State) : (urgentFilled s).Sound s ∧ (urgentFilled s).Early :=
  takeChanges_sound (fun _ m => (List.mem_filter.mp m).1) (start_sound s) nofun

theorem changeFilled_sound (s : State) : (changeFilled s).Sound s :=
  (takeChanges_sound (urgentFilled_sound s).1.change (urgentFilled_sound s).1 (urgentFilled_sound s).2).1

theorem fillState_sound (s : State) : (fillState s).Sound s :=
  StepClosed.foldl_keeps_mem (Q := fun b : Building => b.Sound s) _
    (fun _ i mem k => takeLevel_sound k ((changeFilled_sound s).level i mem)) _ (changeFilled_sound s)

/-- A frame that is not full has taken every mark. -/
theorem fillState_takes_all {s : State} (room : (fillState s).records.length < 12) :
    (fillState s).change = [] ∧ (fillState s).level = [] := by
  obtain ⟨grown, same, levels⟩ := takeLevels_grows s (changeFilled s).level (changeFilled s)
  obtain ⟨fewer, changes⟩ := takeChanges_grows s (urgentFilled s).change (urgentFilled s)
  rw [← fillState_eq] at grown same levels
  refine ⟨List.eq_nil_iff_forall_not_mem.mpr fun i m => ?_, List.eq_nil_iff_forall_not_mem.mpr fun i m => ?_⟩
  · rw [same] at m
    exact changes (grown.room room) i (fewer.change i m) m
  · exact levels room i (grown.level i m) m

/-- An urgent frame begins with the record of its first urgent mark. -/
theorem fillState_urgent {s : State} (urgent : s.pub.change.any s.isUrgent = true) :
    (fillState s).records.head?.map (fun r => decide (6 ≤ r.state.rank)) = some true := by
  cases list : s.pub.change.filter s.isUrgent with
  | nil =>
    obtain ⟨i, mem, is⟩ := List.any_eq_true.mp urgent
    have some : i ∈ s.pub.change.filter s.isUrgent := List.mem_filter.mpr ⟨mem, is⟩
    rw [list] at some
    cases some
  | cons i l =>
    have is : s.isUrgent i = true := (List.mem_filter.mp (list ▸ List.mem_cons_self : i ∈ s.pub.change.filter s.isUrgent)).2
    obtain ⟨e, held, state⟩ := isUrgent_iff.mp is
    have first : takeChange s (.start s) i = _ :=
      takeChange_some (b := .start s) (by decide : (0 : Nat) < 12) ((recordForMark_cases s i).1 e held)
    have urgentGrows : (takeChange s (.start s) i).Grows (urgentFilled s) := by
      rw [urgentFilled, list]
      exact (takeChanges_grows s l _).1
    have grows : (takeChange s (.start s) i).Grows (fillState s) :=
      (urgentGrows.trans (takeChanges_grows s (urgentFilled s).change (urgentFilled s)).1).trans
        (takeLevels_grows s (changeFilled s).level (changeFilled s)).1
    obtain ⟨rest, eq⟩ := grows.records
    rw [← eq, first]
    change some (decide (6 ≤ e.state.rank)) = some true
    rcases state with k | k <;> rw [k] <;> rfl

theorem any_urgent_of_nextItem {s : State} (h : nextItem s = some .urgent) :
    s.pub.change.any s.isUrgent = true := by
  by_contra calm
  have first := nextItem_first h
  unfold firstItem at first
  rw [if_neg calm] at first
  split at first
  · cases first
  · split at first
    · cases first
    · split at first
      · cases first
      · split at first
        · cases first
        · split at first <;> cases first

/-- The frame that the next STATE is. -/
def State.stateFrame (s : State) : TxFrame := frameOf s .state false false false (.records (fillState s).records)

/-- The Publisher after a STATE frame is built. -/
def State.statePub (s : State) : Publisher :=
  { s.pub with
    change := (fillState s).change, level := (fillState s).level, copiesInFlight := (fillState s).copied }

theorem buildState_eq (s : State) : buildState s = if (fillState s).records.isEmpty then s.withPub s.statePub
    else placeFrame s.stateFrame (s.withPub s.statePub) := rfl

theorem buildState_blocks (s : State) : (buildState s).table = s.table ∧ (buildState s).crew = s.crew ∧
    (buildState s).pub = s.statePub := by
  rw [buildState_eq]
  split
  · exact ⟨rfl, rfl, rfl⟩
  · exact ⟨placeFrame_table _ _, placeFrame_crew _ _, placeFrame_pub _ _⟩

/-- Settles O35: the passes keep the building sound, a frame not full has taken every mark, and an urgent one begins
with an urgent mark. -/
theorem stateFrameCarriesMarkedIndices : Obligations.StateFrameCarriesMarkedIndices := by
  intro s free next
  have told : exec .stateFrameBuild s = .next (buildState s) := by
    change Host.Outcome.next (internal _ s) = _
    rw [internal_free free, if_pos next]
  obtain ⟨table, crew, pub⟩ := buildState_blocks s
  have sound := fillState_sound s
  have urgent (is : nextItem s = some .urgent) := fillState_urgent (any_urgent_of_nextItem is)
  refine ⟨_, told, table, crew, ?_, ?_, ?_, ?_, ?_⟩
  · rw [pub]; rfl
  · rw [pub]; rfl
  · rw [pub]; exact sound.change
  · rw [pub]; exact sound.level
  by_cases none : (fillState s).records = []
  · obtain ⟨change, level⟩ := fillState_takes_all (s := s) (by rw [none]; decide)
    refine .inl ⟨?_, next.resolve_left fun is => ?_, ?_, ?_, ?_, fun i mem => ?_, fun i mem => ?_⟩
    · rw [buildState_eq, none]
      rfl
    · have head := urgent is
      rw [none] at head
      cases head
    · rw [pub]; exact change
    · rw [pub]; exact level
    · rw [pub]
      refine List.eq_nil_iff_forall_not_mem.mpr fun i m => ?_
      obtain ⟨_, _, r, mem, _⟩ := (sound.copied i).mp m
      rw [none] at mem
      cases mem
    · rcases sound.allChange i mem with stays | ⟨r, copied, _⟩ | unbuilt
      · rw [change] at stays; cases stays
      · rw [none] at copied; cases copied
      · exact recordForMark_none unbuilt
    · rcases sound.allLevel i mem with stays | ⟨r, copied, _⟩ | absent
      · rw [level] at stays; cases stays
      · rw [none] at copied; cases copied
      · exact absent
  · have some : ¬(fillState s).records.isEmpty = true := fun k => none (List.isEmpty_iff.mp k)
    refine .inr ⟨s.stateFrame, (fillState s).records, ?_, rfl, rfl, rfl, rfl, ⟨rfl, rfl, rfl⟩, rfl,
      List.length_pos_iff.mpr none, sound.few, ?_, sound.order, fun r mem kind => ?_, fun r mem kind => ?_,
      fun i mem => ?_, ?_, fun room => ?_, urgent⟩
    · rw [buildState_eq, if_neg some]
      exact placeFrame_placed _ rfl
    · rw [pub]; exact sound.copied
    · obtain ⟨inside, noChange, noLevel, c, mark⟩ := sound.changes r mem kind
      rw [pub]
      refine ⟨inside, noChange, noLevel, ?_⟩
      generalize r.index = i at mark ⊢
      refine ⟨fun e held => ?_, fun absent loop => ?_, fun absent slot => ?_⟩
      · cases mark with
        | held d own =>
          cases own.symm.trans held
          simp only [recordOfEntry, isLoopIndex, decide_eq_true_iff, ownAt_index own]
          rfl
        | gone absent => rw [absent] at held; cases held
        | copy _ absent => rw [absent] at held; cases held
      · cases mark with
        | held d own => rw [absent] at own; cases own
        | gone => rfl
        | copy _ _ slot => exact absurd loop (Nat.not_lt.mpr slot)
      · cases mark with
        | held d own => rw [absent] at own; cases own
        | gone _ loop => exact absurd slot (Nat.not_le.mpr loop)
        | copy c _ _ at_ => exact ⟨c, at_, rfl⟩
    · obtain ⟨inside, noLevel, e, held, eq⟩ := sound.levels r mem kind
      rw [pub]
      refine ⟨inside, noLevel, e, held, ?_⟩
      rw [eq]
      rfl
    · rw [pub]
      rcases sound.allChange i mem with stays | copied | unbuilt
      · exact .inl stays
      · exact .inr (.inl copied)
      · exact .inr (.inr (recordForMark_none unbuilt))
    · rw [pub]; exact sound.allLevel
    · rw [pub]; exact fillState_takes_all room

end Sys2Proof.Machine
end

section
/-!
PROOFS. The lateral spread (R118): what the Monitor's operations leave of it, and the check.
-/
namespace Sys2Proof.Machine

/-! ## What leaves the lateral spread alone -/

/-- Nothing of the lateral spread differs: the groups it compares, its flag, and its notice on each channel. -/
structure LateralSame (s t : State) : Prop where
  groups : t.incident.groups = s.incident.groups
  lateral : t.incident.lateral = s.incident.lateral
  notice : ∀ ch, NoticeSet.has (t.channel ch).notices .spreadLateral =
    NoticeSet.has (s.channel ch).notices .spreadLateral

theorem LateralSame.refl (s : State) : LateralSame s s := ⟨rfl, rfl, fun _ => rfl⟩

theorem LateralSame.trans {s t u : State} (h : LateralSame s t) (k : LateralSame t u) : LateralSame s u :=
  ⟨k.groups.trans h.groups, k.lateral.trans h.lateral, fun ch => (k.notice ch).trans (h.notice ch)⟩

theorem withIncident_lateralSame {s : State} {m : IncidentMonitor} (groups : m.groups = s.incident.groups)
    (lateral : m.lateral = s.incident.lateral) : LateralSame s (s.withIncident m) :=
  ⟨groups, lateral, fun _ => rfl⟩

theorem raiseAll_lateralSame (s : State) {n : Notice} (other : n ≠ .spreadLateral) :
    LateralSame s (s.raiseAll n) :=
  ⟨rfl, rfl, fun ch => by simp [has_raiseAll, other]⟩

theorem noteMove_lateralSame (before : Option IncidentOrigin) (s : State) :
    LateralSame s (noteMove before s) := by
  unfold noteMove
  split
  · split
    · exact .refl s
    · exact raiseAll_lateralSame s (by decide)
  · exact .refl s

theorem noteMove_withIncident_lateralSame (before : Option IncidentOrigin) {s : State} {m : IncidentMonitor}
    (groups : m.groups = s.incident.groups) (lateral : m.lateral = s.incident.lateral) :
    LateralSame s (noteMove before (s.withIncident m)) :=
  (withIncident_lateralSame groups lateral).trans (noteMove_lateralSame _ _)

theorem alarmRises_lateralSame (e : Entry) (s : State) : LateralSame s (alarmRises e s) := by
  unfold alarmRises
  dsimp only
  split
  · exact withIncident_lateralSame rfl rfl
  · split
    · split
      · exact noteMove_withIncident_lateralSame _ rfl rfl
      · exact withIncident_lateralSame rfl rfl
    · exact noteMove_withIncident_lateralSame _ rfl rfl

theorem followLocation_lateralSame (e : Entry) (s : State) : LateralSame s (followLocation e s) := by
  unfold followLocation
  split
  · split
    · exact withIncident_lateralSame rfl rfl
    · exact .refl s
  · exact .refl s

theorem checkVertical_lateralSame (e : Entry) (s : State) : LateralSame s (checkVertical e s) := by
  unfold checkVertical
  split
  · split
    · have flagged : LateralSame s (s.withIncident { s.incident with vertical := true }) :=
        withIncident_lateralSame rfl rfl
      exact flagged.trans (raiseAll_lateralSame _ (by decide))
    · exact .refl s
  · exact .refl s

/-- A falling alarm leaves the lateral spread, but that the incident it ends clears the flag. -/
theorem alarmFalls_lateral_cases (e : Entry) (s : State) :
    (LateralSame s (alarmFalls e s) ∧ (alarmFalls e s).incident.active = s.incident.active) ∨
    ((alarmFalls e s).crew = s.crew ∧ s.incident.active = true ∧
      (alarmFalls e s).incident.active = false ∧ (alarmFalls e s).incident.lateral = false) := by
  unfold alarmFalls
  dsimp only
  split
  · split
    case isTrue active =>
      split
      · exact .inr ⟨rfl, active, rfl, rfl⟩
      · exact .inl ⟨withIncident_lateralSame rfl rfl, rfl⟩
    case isFalse => exact .inl ⟨withIncident_lateralSame rfl rfl, rfl⟩
  · split
    · split
      · exact .inl ⟨noteMove_withIncident_lateralSame _ rfl rfl, by simp⟩
      · exact .inl ⟨withIncident_lateralSame rfl rfl, rfl⟩
    · exact .inl ⟨withIncident_lateralSame rfl rfl, rfl⟩

/-! ## The lateral check (R118) -/

theorem lateralMet_iff (m : IncidentMonitor) (e o : Location) : lateralMet m e o = true ↔
    e.floor ≠ 127 ∧ o.floor ≠ 127 ∧ e.floor = o.floor ∧
      m.groups.getD e.compartment 0 ≠ m.groups.getD o.compartment 0 := by
  simp [lateralMet, Location.known, and_assoc]

section
variable {e : Entry} {o : IncidentOrigin} {s : State}

theorem checkLateral_of_met (origin : s.incident.origin = some o)
    (met : lateralMet s.incident e.loc o.loc = true) (clear : s.incident.lateral = false) :
    checkLateral e s = (s.withIncident { s.incident with lateral := true }).raiseAll .spreadLateral := by
  simp [checkLateral, origin, met, clear]

theorem checkLateral_of_not (origin : s.incident.origin = some o)
    (idle : ¬lateralMet s.incident e.loc o.loc = true ∨ s.incident.lateral = true) :
    checkLateral e s = s := by
  rcases idle with unmet | raised
  · simp [checkLateral, origin, unmet]
  · simp [checkLateral, origin, raised]

/-- The flag of R118 is set afterwards where it was, or where the condition is met. -/
theorem checkLateral_lateral_iff (origin : s.incident.origin = some o) :
    (checkLateral e s).incident.lateral = true ↔
      s.incident.lateral = true ∨ lateralMet s.incident e.loc o.loc = true := by
  by_cases idle : ¬lateralMet s.incident e.loc o.loc = true ∨ s.incident.lateral = true
  · rw [checkLateral_of_not origin idle]
    tauto
  · obtain ⟨met, clear⟩ := not_or.mp idle
    have met := not_not.mp met
    rw [checkLateral_of_met origin met (Bool.eq_false_of_not_eq_true clear)]
    simp [met]

/-- The notice of R118 stands on each attached channel where the flag is newly set. -/
theorem checkLateral_has_of_met (origin : s.incident.origin = some o)
    (met : lateralMet s.incident e.loc o.loc = true) (clear : s.incident.lateral = false)
    {ch : Fin 4} (attached : s.isAttached ch = true) :
    NoticeSet.has ((checkLateral e s).channel ch).notices .spreadLateral = true := by
  have same : (s.withIncident { s.incident with lateral := true }).isAttached ch = true := attached
  simp [checkLateral_of_met origin met clear, has_raiseAll, same]

theorem checkLateral_channel_of_free (origin : s.incident.origin = some o)
    (met : lateralMet s.incident e.loc o.loc = true) (clear : s.incident.lateral = false)
    {ch : Fin 4} (free : s.isAttached ch = false) : (checkLateral e s).channel ch = s.channel ch := by
  have unattached : (s.channel ch).attached = none := by simpa [State.isAttached] using free
  rw [checkLateral_of_met origin met clear, channel_raiseAll]
  exact Channel.raise_of_free unattached _

end

/-! ## The Monitor takes a change (R116) -/

/-- A change that brings no entry into ALARM leaves the lateral spread, but that the incident it ends clears the
flag. -/
theorem monitorTakes_lateral_cases {pc : PictureChange} (other : ¬pc.entersAlarm = true) (s : State) :
    (LateralSame s (monitorTakes pc s) ∧ (monitorTakes pc s).incident.active = s.incident.active) ∨
    ((monitorTakes pc s).crew = s.crew ∧ s.incident.active = true ∧
      (monitorTakes pc s).incident.active = false ∧ (monitorTakes pc s).incident.lateral = false) := by
  rw [monitorTakes, if_neg other]
  split
  · exact alarmFalls_lateral_cases pc.entry s
  · split
    · exact .inl ⟨followLocation_lateralSame pc.entry s, followLocation_active pc.entry s⟩
    · exact .inl ⟨.refl s, rfl⟩

/-- Before its lateral check an entering leaves the lateral spread alone. -/
theorem entering_lateralSame (e : Entry) (s : State) :
    LateralSame s (checkVertical e (alarmRises e s)) :=
  (alarmRises_lateralSame e s).trans (checkVertical_lateralSame e _)

theorem entering_isAttached (e : Entry) (s : State) (ch : Fin 4) :
    (checkVertical e (alarmRises e s)).isAttached ch = s.isAttached ch :=
  ((checkVertical_told e _).isAttached ch).trans ((alarmRises_told e s).isAttached ch)

/-- At an entering, the lateral check is made against the origin that stands afterwards, and all else the Monitor
does leaves the lateral spread alone. -/
theorem monitorTakes_checks_lateral {pc : PictureChange} (enters : pc.entersAlarm = true) (s : State) :
    ∃ o, (monitorTakes pc s).incident.origin = some o ∧
      ((monitorTakes pc s).incident.lateral = true ↔
        s.incident.lateral = true ∨ lateralMet s.incident pc.entry.loc o.loc = true) ∧
      (lateralMet s.incident pc.entry.loc o.loc = true → s.incident.lateral = false →
        ∀ ch, s.isAttached ch = true →
          NoticeSet.has ((monitorTakes pc s).channel ch).notices .spreadLateral = true) ∧
      (¬lateralMet s.incident pc.entry.loc o.loc = true ∨ s.incident.lateral = true → ∀ ch,
        NoticeSet.has ((monitorTakes pc s).channel ch).notices .spreadLateral =
          NoticeSet.has (s.channel ch).notices .spreadLateral) := by
  obtain ⟨o, origin⟩ := alarmRises_origin pc.entry s
  have before := entering_lateralSame pc.entry s
  have named : (checkVertical pc.entry (alarmRises pc.entry s)).incident.origin = some o := by simp [origin]
  have met_eq : lateralMet (checkVertical pc.entry (alarmRises pc.entry s)).incident pc.entry.loc o.loc =
      lateralMet s.incident pc.entry.loc o.loc := by
    simp only [lateralMet, before.groups]
  rw [monitorTakes_of_entersAlarm enters]
  refine ⟨o, by simp [origin], ?_, fun met clear ch attached => ?_, fun idle ch => ?_⟩
  · rw [checkLateral_lateral_iff named, before.lateral, met_eq]
  · exact checkLateral_has_of_met named (met_eq.trans met) (before.lateral.trans clear)
      ((entering_isAttached pc.entry s ch).trans attached)
  · rw [← met_eq, ← before.lateral] at idle
    rw [checkLateral_of_not named idle, before.notice]

/-- Settles O40: the check raises its flag and notice where the condition is met and the flag clear; the Monitor
makes it at an entering alone, and everything else it does leaves the lateral spread or ends the incident. -/
theorem lateralSpreadRaisedOnce : Obligations.LateralSpreadRaisedOnce := by
  refine ⟨fun e o s origin => ?_, fun pc s t ht => ?_⟩
  · rw [← lateralMet_iff]
    refine ⟨fun ⟨met, clear⟩ => ⟨?_, fun ch => checkLateral_has_of_met origin met clear,
      fun ch => checkLateral_channel_of_free origin met clear⟩, checkLateral_of_not origin⟩
    rw [checkLateral_of_met origin met clear]
    rfl
  · subst ht
    rw [← entersAlarm_iff]
    refine ⟨fun enters => ?_, fun other => ?_⟩
    · obtain ⟨o, origin, checked⟩ := monitorTakes_checks_lateral enters s
      refine ⟨o, origin, fun met hmet => ?_⟩
      rwa [hmet, ← lateralMet_iff]
    · obtain ⟨same, active⟩ | ⟨crew, was, ended, clear⟩ := monitorTakes_lateral_cases other s
      · exact ⟨fun _ => same.lateral, fun moved => absurd active moved, same.notice⟩
      · exact ⟨fun kept => absurd (kept.symm.trans ended) (by simp [was]), fun _ => clear,
          fun ch => by simp only [State.channel, crew]⟩

end Sys2Proof.Machine
end

section
/-!
PROOFS. The incident origin (R109–R115): what a rising and a falling alarm make of the count, the record, the hold
and ORIGIN_MOVED.
-/
namespace Sys2Proof.Machine

/-! ## ORIGIN_MOVED (R113) -/

theorem noteMove_same {a b : IncidentOrigin} {s : State} (named : s.incident.origin = some b)
    (same : a.addr = b.addr) : noteMove (some a) s = s := by
  simp [noteMove, named, same]

theorem noteMove_moved {a b : IncidentOrigin} {s : State} (named : s.incident.origin = some b)
    (moved : a.addr ≠ b.addr) : noteMove (some a) s = s.raiseAll .originMoved := by
  simp [noteMove, named, moved]

theorem noteMove_has {a b : IncidentOrigin} {s : State} (named : s.incident.origin = some b)
    (moved : a.addr ≠ b.addr) {ch : Fin 4} (attached : s.isAttached ch = true) :
    NoticeSet.has ((noteMove (some a) s).channel ch).notices .originMoved = true := by
  simp [noteMove_moved named moved, has_raiseAll, attached]

/-! ## A rising alarm (R109–R111, R115) -/

/-- The Monitor after an ALARM that it names as the origin. -/
def IncidentMonitor.naming (m : IncidentMonitor) (e : Entry) : IncidentMonitor :=
  { m with alarmCount := m.alarmCount + 1, origin := some (.ofEntry e), hold := none }

/-- The entry comes before the origin named, by its local since, then by its address (R111). -/
def Entry.older (e : Entry) (o : IncidentOrigin) : Prop :=
  e.localSince < o.since ∨ (e.localSince = o.since ∧ e.addr.before o.addr = true)

section
variable {e : Entry} {o : IncidentOrigin} {s : State}

theorem alarmRises_quiet (quiet : s.incident.active = false) :
    alarmRises e s = s.withIncident { s.incident.naming e with active := true } := by
  simp [alarmRises, quiet, IncidentMonitor.naming]

theorem alarmRises_named (active : s.incident.active = true) (origin : s.incident.origin = some o)
    (first : s.incident.hold ≠ none ∨ e.older o) :
    alarmRises e s = noteMove (some o) (s.withIncident (s.incident.naming e)) := by
  cases hold : s.incident.hold with
  | some t => simp [alarmRises, active, origin, hold, IncidentMonitor.naming]
  | none =>
    have older := first.resolve_left (fun k => k hold)
    unfold Entry.older at older
    simp [alarmRises, active, origin, hold, older, IncidentMonitor.naming]

theorem alarmRises_counted (active : s.incident.active = true) (origin : s.incident.origin = some o)
    (hold : s.incident.hold = none) (later : ¬e.older o) :
    alarmRises e s = s.withIncident { s.incident with alarmCount := s.incident.alarmCount + 1 } := by
  unfold Entry.older at later
  simp [alarmRises, active, origin, hold, later]

/-- Every rising alarm is counted, and leaves the Monitor ACTIVE without a hold. -/
theorem alarmRises_incident (e : Entry) (s : State) :
    (alarmRises e s).incident.alarmCount = s.incident.alarmCount + 1 ∧
      (alarmRises e s).incident.active = true ∧ (alarmRises e s).incident.hold = none := by
  unfold alarmRises
  dsimp only
  split
  · exact ⟨rfl, rfl, rfl⟩
  case isFalse active =>
    have active := Bool.eq_true_of_not_eq_false active
    split
    case _ _ hold _ =>
      split
      · rw [noteMove_incident]; exact ⟨rfl, active, rfl⟩
      · exact ⟨rfl, active, hold⟩
    · rw [noteMove_incident]; exact ⟨rfl, active, rfl⟩

/-! ## The spread checks after it (R117, R118) -/

/-- The checks move the two flags at most. -/
theorem checkVertical_incident (e : Entry) (s : State) :
    ∃ v, (checkVertical e s).incident = { s.incident with vertical := v } := by
  unfold checkVertical
  split
  · split
    · exact ⟨_, rfl⟩
    · exact ⟨_, rfl⟩
  · exact ⟨_, rfl⟩

theorem checkLateral_incident (e : Entry) (s : State) :
    ∃ l, (checkLateral e s).incident = { s.incident with lateral := l } := by
  unfold checkLateral
  split
  · split
    · exact ⟨_, rfl⟩
    · exact ⟨_, rfl⟩
  · exact ⟨_, rfl⟩

theorem checkVertical_has (e : Entry) (s : State) {n : Notice} (other : n ≠ .spreadVertical) (ch : Fin 4) :
    NoticeSet.has ((checkVertical e s).channel ch).notices n = NoticeSet.has (s.channel ch).notices n := by
  unfold checkVertical
  split
  · split
    · simp [has_raiseAll, other.symm]
      rfl
    · rfl
  · rfl

theorem checkLateral_has (e : Entry) (s : State) {n : Notice} (other : n ≠ .spreadLateral) (ch : Fin 4) :
    NoticeSet.has ((checkLateral e s).channel ch).notices n = NoticeSet.has (s.channel ch).notices n := by
  unfold checkLateral
  split
  · split
    · simp [has_raiseAll, other.symm]
      rfl
    · rfl
  · rfl

/-- An entry is neither floors away from itself nor in another group. -/
theorem checks_of_ofEntry (named : s.incident.origin = some (.ofEntry e)) :
    checkLateral e (checkVertical e s) = s := by
  have near : ¬verticalMet s.incident e.loc (IncidentOrigin.ofEntry e).loc = true := by
    rw [verticalMet_iff]
    rintro ⟨some_, _, _, apart⟩
    have itself : (IncidentOrigin.ofEntry e).loc = e.loc := rfl
    rw [itself] at apart
    omega
  have together : ¬lateralMet s.incident e.loc (IncidentOrigin.ofEntry e).loc = true := by
    rw [lateralMet_iff]
    rintro ⟨_, _, _, apart⟩
    exact apart rfl
  rw [checkVertical_of_not named (.inl near), checkLateral_of_not named (.inl together)]

end

/-! ## A falling alarm (R112, R114) -/

/-- The Monitor with one alarm fewer. -/
def IncidentMonitor.fewer (m : IncidentMonitor) : IncidentMonitor := { m with alarmCount := m.alarmCount - 1 }

/-- Of two ALARM entries the Monitor names the older, then the one of the lower address (R112). -/
def namedBefore (a b : Entry) : Bool :=
  decide (a.localSince < b.localSince ∨ (a.localSince = b.localSince ∧ a.addr.before b.addr = true))

theorem namedBefore_iff (a b : Entry) : namedBefore a b = true ↔
    a.localSince < b.localSince ∨ (a.localSince = b.localSince ∧ a.addr.before b.addr = true) :=
  decide_eq_true_iff

theorem oldestAlarm_eq (l : List Entry) :
    oldestAlarm l = firstBy namedBefore (l.filter (fun e => e.state == .alarm)) := rfl

theorem namedBefore_asymm {a b : Entry} (h : namedBefore a b = true) : namedBefore b a = false := by
  rw [← Bool.not_eq_true]
  simp only [namedBefore_iff, before_iff] at h ⊢
  omega

theorem namedBefore_negTrans {a b c : Entry} (hab : namedBefore a b = false) (hbc : namedBefore b c = false) :
    namedBefore a c = false := by
  rw [← Bool.not_eq_true] at hab hbc ⊢
  simp only [namedBefore_iff, before_iff] at hab hbc ⊢
  omega

/-- The ALARM entry that comes before every other is the one chosen. -/
theorem oldestAlarm_of_first {s : State} (rising : Rising s.entries) {x : Entry} (held : x ∈ s.entries)
    (alarm : x.state = .alarm)
    (first : ∀ y ∈ s.entries, y.state = .alarm → y.addr ≠ x.addr → namedBefore x y = true) :
    oldestAlarm s.entries = some x := by
  have candidate : x ∈ s.entries.filter (fun e => e.state == .alarm) :=
    List.mem_filter.mpr ⟨held, beq_iff_eq.mpr alarm⟩
  cases chosen : oldestAlarm s.entries with
  | none =>
    rw [(firstBy_eq_none_iff _ _).mp chosen] at candidate
    cases candidate
  | some v =>
    obtain ⟨vHeld, vAlarm⟩ := List.mem_filter.mp (mem_of_firstBy chosen)
    by_cases same : v.addr = x.addr
    · have vAt := entryAt_of_mem rising vHeld
      rw [same, entryAt_of_mem rising held] at vAt
      exact vAt.symm
    · have notBefore : namedBefore x v = false :=
        not_before_firstBy (before := namedBefore) namedBefore_asymm namedBefore_negTrans chosen x candidate
      rw [first v vHeld (beq_iff_eq.mp vAlarm) same] at notBefore
      cases notBefore

section
variable {e : Entry} {s : State}

theorem alarmFalls_count (e : Entry) (s : State) :
    (alarmFalls e s).incident.alarmCount = s.incident.alarmCount - 1 := by
  unfold alarmFalls
  dsimp only
  split
  case isTrue last =>
    split
    · split
      · rfl
      · rfl
    · rfl
  · split
    · split
      · rw [noteMove_incident]; rfl
      · rfl
    · rfl

theorem alarmFalls_last (last : s.incident.alarmCount ≤ 1) (active : s.incident.active = true) :
    alarmFalls e s = s.withIncident (if s.incident.incidentHold = 0 then s.incident.fewer.ended
      else { s.incident.fewer with hold := some 0 }) := by
  have zero : s.incident.alarmCount - 1 = 0 := Nat.sub_eq_zero_of_le last
  by_cases short : s.incident.incidentHold = 0
  · simp [alarmFalls, zero, active, short, IncidentMonitor.fewer]
  · simp [alarmFalls, zero, active, short, IncidentMonitor.fewer]

theorem alarmFalls_of_other (several : 2 ≤ s.incident.alarmCount)
    (other : ∀ o, s.incident.origin = some o → o.addr ≠ e.addr) :
    alarmFalls e s = s.withIncident s.incident.fewer := by
  have more : ¬s.incident.alarmCount - 1 = 0 := by omega
  have apart : ¬s.incident.origin.map IncidentOrigin.addr = some e.addr := by
    rw [Option.map_eq_some_iff]
    rintro ⟨o, origin, same⟩
    exact other o origin same
  simp only [alarmFalls, if_neg more, if_neg apart]
  rfl

theorem alarmFalls_of_named (several : 2 ≤ s.incident.alarmCount) {o : IncidentOrigin}
    (origin : s.incident.origin = some o) (named : o.addr = e.addr) {x : Entry}
    (oldest : oldestAlarm s.entries = some x) : alarmFalls e s =
      noteMove (some o) (s.withIncident { s.incident.fewer with origin := some (.ofEntry x) }) := by
  have more : ¬s.incident.alarmCount - 1 = 0 := by omega
  simp only [alarmFalls, if_neg more, origin, Option.map_some, named, if_true, oldest]
  rfl

end

/-! ## The Monitor takes a change (R116) -/

theorem leavesAlarm_iff (pc : PictureChange) : pc.leavesAlarm = true ↔
    (pc.kind = .state ∧ pc.prevState = some .alarm) ∨
      ((pc.kind = .remove ∨ pc.kind = .evict) ∧ pc.entry.state = .alarm) := by
  simp [PictureChange.leavesAlarm]

theorem monitorTakes_of_leavesAlarm {pc : PictureChange} (other : ¬pc.entersAlarm = true)
    (leaves : pc.leavesAlarm = true) (s : State) : monitorTakes pc s = alarmFalls pc.entry s := by
  rw [monitorTakes, if_neg other, if_pos leaves]

theorem followLocation_of_named {e : Entry} {o : IncidentOrigin} {s : State} (origin : s.incident.origin = some o)
    (named : o.addr = e.addr) (alarm : e.state = .alarm) : followLocation e s =
      { s with incident := { s.incident with origin := some { o with loc := e.loc } } } := by
  simp only [followLocation, origin, if_pos (And.intro named alarm)]
  rfl

theorem followLocation_of_other {e : Entry} {s : State}
    (other : e.state ≠ .alarm ∨ ∀ o, s.incident.origin = some o → o.addr ≠ e.addr) : followLocation e s = s := by
  unfold followLocation
  split
  case _ o origin =>
    exact if_neg fun ⟨named, alarm⟩ => other.elim (fun k => k alarm) fun k => k o origin named
  · rfl

/-- What an entering makes of the count, the record and ORIGIN_MOVED. -/
theorem entering_named (e : Entry) (s : State) :
    let t := checkLateral e (checkVertical e (alarmRises e s))
    t.incident.alarmCount = s.incident.alarmCount + 1 ∧ t.incident.active = true ∧ t.incident.hold = none := by
  obtain ⟨l, lateral⟩ := checkLateral_incident e (checkVertical e (alarmRises e s))
  obtain ⟨v, vertical⟩ := checkVertical_incident e (alarmRises e s)
  intro t
  change (checkLateral e (checkVertical e (alarmRises e s))).incident.alarmCount = _ ∧
    (checkLateral e (checkVertical e (alarmRises e s))).incident.active = _ ∧
    (checkLateral e (checkVertical e (alarmRises e s))).incident.hold = _
  rw [lateral, vertical]
  exact alarmRises_incident e s

/-- Where the entering names its entry, the checks that follow find it beside itself. -/
theorem entering_of_named {e : Entry} {s : State} (named : (alarmRises e s).incident.origin = some (.ofEntry e)) :
    checkLateral e (checkVertical e (alarmRises e s)) = alarmRises e s := checks_of_ofEntry named

/-- Settles O38: each row of R109 is one operation of the Monitor, and its equations say what moves. -/
theorem alarmCountFollowsTheChanges : Obligations.AlarmCountFollowsTheChanges := by
  intro pc s t ht
  subst ht
  refine ⟨fun rises => ?_, fun falls => ?_, fun stands => ?_⟩
  · have enters : pc.entersAlarm = true := (entersAlarm_iff pc).mpr <| by
      rcases rises with ⟨kind, alarm⟩ | ⟨kind, alarm, _⟩
      · exact ⟨.inl kind, alarm⟩
      · exact ⟨.inr kind, alarm⟩
    rw [monitorTakes_of_entersAlarm enters]
    obtain ⟨count, active, hold⟩ := entering_named pc.entry s
    refine ⟨count, fun quiet => ?_, fun was => ⟨active, hold, fun o origin => ⟨fun first => ?_, fun noHold later => ?_⟩⟩⟩
    · have eq := alarmRises_quiet (e := pc.entry) quiet
      rw [entering_of_named (by rw [eq]; rfl), eq]
      exact ⟨rfl, rfl, rfl, rfl, rfl⟩
    · have eq := alarmRises_named was origin first
      rw [entering_of_named (by rw [eq, noteMove_incident]; rfl), eq, noteMove_incident]
      refine ⟨rfl, rfl, rfl, fun moved ch attached => noteMove_has rfl moved attached, fun same => ?_⟩
      rw [noteMove_same rfl same]
      rfl
    · have eq := alarmRises_counted was origin noHold later
      refine ⟨?_, fun ch => ?_⟩
      · rw [checkLateral_origin, checkVertical_origin, eq]
        exact origin
      · rw [checkLateral_has _ _ (by decide), checkVertical_has _ _ (by decide), eq]
        rfl
  · have other : ¬pc.entersAlarm = true := fun enters => by
      obtain ⟨entering, alarm⟩ := (entersAlarm_iff pc).mp enters
      rcases falls with ⟨_, _, calm⟩ | ⟨kind, _⟩
      · exact calm alarm
      · rcases entering with k | k <;> rw [k] at kind <;> rcases kind with k | k <;> cases k
    have leaves : pc.leavesAlarm = true := (leavesAlarm_iff pc).mpr <|
      falls.imp (fun ⟨kind, prev, _⟩ => ⟨kind, prev⟩) id
    rw [monitorTakes_of_leavesAlarm other leaves]
    refine ⟨alarmFalls_count _ _, fun last active => ?_, fun several apart => ?_,
      fun o x several table origin named held alarm first => ?_⟩
    · have zero : s.incident.alarmCount - 1 = 0 := Nat.sub_eq_zero_of_le last
      rw [alarmFalls_last last active]
      refine ⟨rfl, ?_⟩
      change (if s.incident.incidentHold = 0 then _ else _) = _
      unfold IncidentMonitor.ended IncidentMonitor.fewer
      rw [zero]
    · rw [alarmFalls_of_other several apart]
      exact ⟨rfl, rfl⟩
    · have oldest := oldestAlarm_of_first table.1 held alarm fun y mem isAlarm apart =>
        (namedBefore_iff x y).mpr (first y mem isAlarm apart)
      rw [alarmFalls_of_named several origin named oldest, noteMove_incident]
      refine ⟨rfl, fun moved ch attached => noteMove_has rfl (Ne.symm moved) attached, fun same => ?_⟩
      rw [noteMove_same rfl same.symm]
      rfl
  · have other : ¬pc.entersAlarm = true := fun enters => by
      obtain ⟨entering, alarm⟩ := (entersAlarm_iff pc).mp enters
      rcases stands with kind | ⟨_, _, calm⟩ | ⟨_, calm⟩
      · rcases entering with k | k <;> rw [k] at kind <;> rcases kind with k | k | k <;> cases k
      · exact calm alarm
      · exact calm alarm
    have keeps : ¬pc.leavesAlarm = true := fun leaves => by
      rcases (leavesAlarm_iff pc).mp leaves with ⟨kind, prev⟩ | ⟨kind, alarm⟩
      · rcases stands with k | ⟨_, calm, _⟩ | ⟨k, _⟩
        · rw [kind] at k; rcases k with k | k | k <;> cases k
        · exact calm prev
        · rw [kind] at k; rcases k with k | k | k <;> cases k
      · rcases stands with k | ⟨_, _, calm⟩ | ⟨_, calm⟩
        · rcases kind with kind | kind <;> rw [kind] at k <;> rcases k with k | k | k <;> cases k
        · exact calm alarm
        · exact calm alarm
    have eq : monitorTakes pc s = if pc.kind = .level then followLocation pc.entry s else s := by
      rw [monitorTakes, if_neg other, if_neg keeps]
    rw [eq]
    refine ⟨?_, fun o level alarm origin named => ?_, fun quiet => ?_⟩
    · split
      · unfold followLocation
        split
        · split <;> rfl
        · rfl
      · rfl
    · rw [if_pos level, followLocation_of_named origin named alarm]
    · split
      case isTrue level => exact followLocation_of_other (quiet.resolve_left fun k => k level)
      · rfl

end Sys2Proof.Machine
end

section
/-!
PROOFS. The hand-out of free places (R170): which waiter comes next, and what its placing leaves.
-/
namespace Sys2Proof.Machine

section
variable {ch : Fin 4} {s : State}

theorem exec_answerPlaced (free : s.control.resetHeld = false) :
    exec (.answerPlaced ch) s = .next (placeIfNext .answer ch s) := by
  change Host.Outcome.next (internal _ s) = _
  rw [internal_free free]

theorem exec_noticePendingPlaced (free : s.control.resetHeld = false) :
    exec (.noticePendingPlaced ch) s = .next (placeIfNext .notice ch s) := by
  change Host.Outcome.next (internal _ s) = _
  rw [internal_free free]

theorem exec_listMessagePlaced (free : s.control.resetHeld = false) :
    exec (.listMessagePlaced ch) s = .next (placeIfNext .list ch s) := by
  change Host.Outcome.next (internal _ s) = _
  rw [internal_free free]

theorem placeIfNext_of_next {w : Waiter} (next : nextWaiter s ch = some w) : placeIfNext w ch s = place w ch s :=
  if_pos next

theorem placeIfNext_of_other {w : Waiter} (other : nextWaiter s ch ≠ some w) : placeIfNext w ch s = s :=
  if_neg other

/-! ## The order of R170 -/

theorem nextWaiter_answer {m : Message} (pending : (s.channel ch).pendingAnswer = some m)
    (room : (s.channel ch).queue.length < 24) : nextWaiter s ch = some .answer := by
  simp [nextWaiter, pending, (room_pos_iff _).mpr room]

theorem nextWaiter_notice (quiet : (s.channel ch).pendingAnswer = none)
    (pending : (s.channel ch).noticePending = true) (room : (s.channel ch).queue.length < 24) :
    nextWaiter s ch = some .notice := by
  simp [nextWaiter, quiet, pending, (room_pos_iff _).mpr room]

theorem nextWaiter_list (quiet : (s.channel ch).pendingAnswer = none)
    (calm : (s.channel ch).noticePending = false) (room : (s.channel ch).queue.length < 24)
    (listed : (nextListMessage s (s.channel ch)).isSome = true) : nextWaiter s ch = some .list := by
  simp [nextWaiter, quiet, calm, (room_pos_iff _).mpr room, listed]

/-- Without a free place only the bundle could be next, and a free place it needs too. -/
theorem nextWaiter_full (full : 24 ≤ (s.channel ch).queue.length) :
    nextWaiter s ch = none ∨ nextWaiter s ch = some .bundle := by
  have none_ : ¬1 ≤ (s.channel ch).room := fun k => absurd ((room_pos_iff _).mp k) (by omega)
  simp only [nextWaiter, none_, decide_false, Bool.and_false, Bool.false_eq_true, if_false]
  split
  · exact .inr rfl
  · exact .inl rfl

/-! ## The next list message (R165, R166) -/

/-- A list message whose turn it is enters the queue, and the channel is as its taking leaves it. -/
theorem listMessage_placed (free : s.control.resetHeld = false) (quiet : (s.channel ch).pendingAnswer = none)
    (calm : (s.channel ch).noticePending = false) (room : (s.channel ch).queue.length < 24)
    {m : Message} {c : Channel} (listed : nextListMessage s (s.channel ch) = some (m, c)) :
    exec (.listMessagePlaced ch) s = .next (s.setChannel ch (c.push m)) := by
  have next := nextWaiter_list quiet calm room (by rw [listed]; rfl)
  rw [exec_listMessagePlaced free, placeIfNext_of_next next]
  simp only [place, placeListMessage, listed]

end

section
variable {s : State} {c : Channel}

theorem nextListMessage_ends {e : Message} {l : List Message} (ends : c.listEnds = e :: l) :
    nextListMessage s c = some (e, { c with listEnds := l }) := by
  simp [nextListMessage, ends]

theorem nextListMessage_item {m : Message} {l : List Message} {shown total : Nat} (ends : c.listEnds = [])
    (list : c.list = some ⟨.items (m :: l), shown, total⟩) :
    nextListMessage s c = some (m, { c with list := some ⟨.items l, shown + 1, total⟩ }) := by
  simp [nextListMessage, ends, list]

theorem nextListMessage_listEnd {shown total : Nat} (ends : c.listEnds = [])
    (list : c.list = some ⟨.items [], shown, total⟩) :
    nextListMessage s c = some (.listEnd false shown total false, { c with list := none }) := by
  simp [nextListMessage, ends, list, ListProgress.endMessage]

theorem nextListMessage_station {next high shown total : Nat} (ends : c.listEnds = [])
    (list : c.list = some ⟨.stations next high, shown, total⟩) (within : next ≤ high) :
    nextListMessage s c =
      some (stationItem next s, { c with list := some ⟨.stations (next + 1) high, shown + 1, total⟩ }) := by
  simp [nextListMessage, ends, list, within]

theorem nextListMessage_stationsEnd {next high shown total : Nat} (ends : c.listEnds = [])
    (list : c.list = some ⟨.stations next high, shown, total⟩) (past : high < next) :
    nextListMessage s c = some (.listEnd true shown total false, { c with list := none }) := by
  simp [nextListMessage, ends, list, ListProgress.endMessage, past]

end

theorem stationItem_other {s : State} {x : Nat} (other : x ≠ s.own) : stationItem x s =
    .stationItem x (.origin (s.origin x).status) (s.origin x).silence (s.origin x).overflow
      (s.origin x).conditions (s.origin x).revision (List.replicate 15 0) := if_neg other

theorem stationItem_own {s : State} {x : Nat} (own : x = s.own) : stationItem x s =
    .stationItem x (.origin .unknown) 0 false (some s.control.conditions) s.ownRevision (ownCounts s) :=
  if_pos own

/-- Settles O53: each waiter is next where those before it in R170 do not wait, and none is without a place. -/
theorem waitersArePlaced : Obligations.WaitersArePlaced := by
  intro ch s c free hc
  subst hc
  refine ⟨fun m pending room => ?_, fun quiet pending room => ?_, fun quiet calm room =>
    ⟨fun e l ends => ?_, fun m l shown total ends list => ?_, fun shown total ends list => ?_,
      fun next high shown total ends list => ⟨fun within => ?_, fun past => ?_⟩⟩, fun full => ?_⟩
  · rw [exec_answerPlaced free, placeIfNext_of_next (nextWaiter_answer pending room)]
    simp only [place, placeAnswer, pending]
    rfl
  · rw [exec_noticePendingPlaced free, placeIfNext_of_next (nextWaiter_notice quiet pending room)]
    rfl
  · exact listMessage_placed free quiet calm room (nextListMessage_ends ends)
  · exact listMessage_placed free quiet calm room (nextListMessage_item ends list)
  · exact listMessage_placed free quiet calm room (nextListMessage_listEnd ends list)
  · exact ⟨_, listMessage_placed free quiet calm room (nextListMessage_station ends list within),
      fun other => stationItem_other other, fun own => stationItem_own own⟩
  · exact listMessage_placed free quiet calm room (nextListMessage_stationsEnd ends list past)
  · have next := nextWaiter_full full
    rw [exec_answerPlaced free, exec_noticePendingPlaced free, exec_listMessagePlaced free,
      placeIfNext_of_other, placeIfNext_of_other, placeIfNext_of_other]
    · exact ⟨rfl, rfl, rfl⟩
    all_goals rcases next with k | k <;> rw [k] <;> decide

end Sys2Proof.Machine
end

section
/-!
PROOFS. The overlay order (R143, R165): its list holds the entries it was given, each before those that follow.
-/
namespace Sys2Proof.Machine

/-- The entries of a list stand in overlay order, its addresses' ties left open. -/
def InOverlayOrder (l : List Entry) : Prop := l.Pairwise fun a b => b.state.rank < a.state.rank ∨
  (a.state.rank = b.state.rank ∧ (a.localSince < b.localSince ∨
    (a.localSince = b.localSince ∧ ¬ b.addr.before a.addr = true)))

theorem overlayBefore_iff (a b : Entry) : overlayBefore a b = true ↔ b.state.rank < a.state.rank ∨
    (a.state.rank = b.state.rank ∧ (a.localSince < b.localSince ∨
      (a.localSince = b.localSince ∧ a.addr.before b.addr = true))) := decide_eq_true_iff

/-- One entry may stand before another where the other does not come before it. -/
theorem not_overlayBefore_iff (a b : Entry) : ¬overlayBefore b a = true ↔ b.state.rank < a.state.rank ∨
    (a.state.rank = b.state.rank ∧ (a.localSince < b.localSince ∨
      (a.localSince = b.localSince ∧ ¬ b.addr.before a.addr = true))) := by
  rw [overlayBefore_iff]
  by_cases before : b.addr.before a.addr = true
  · simp only [before, not_true_eq_false, and_true, and_false, or_false]
    omega
  · simp only [before, not_false_eq_true, and_true, Bool.false_eq_true, and_false, or_false]
    omega

theorem inOverlayOrder_iff (l : List Entry) :
    InOverlayOrder l ↔ l.Pairwise fun a b => ¬overlayBefore b a = true := by
  unfold InOverlayOrder
  simp only [not_overlayBefore_iff]

theorem overlayBefore_trans {a b c : Entry} (h : overlayBefore a b = true) (k : overlayBefore b c = true) :
    overlayBefore a c = true := by
  simp only [overlayBefore_iff, before_iff] at h k ⊢
  omega

theorem overlayBefore_asymm {a b : Entry} (h : overlayBefore a b = true) : ¬overlayBefore b a = true := by
  simp only [overlayBefore_iff, before_iff] at h ⊢
  omega

theorem insertBy_perm (before : Entry → Entry → Bool) (e : Entry) (l : List Entry) :
    (insertBy before e l).Perm (e :: l) := by
  induction l with
  | nil => exact .refl _
  | cons x l ih =>
    unfold insertBy
    split
    · exact .refl _
    · exact (ih.cons x).trans (.swap e x l)

theorem insertBy_ordered (e : Entry) {l : List Entry} (h : l.Pairwise fun a b => ¬overlayBefore b a = true) :
    (insertBy overlayBefore e l).Pairwise fun a b => ¬overlayBefore b a = true := by
  induction l with
  | nil => exact List.pairwise_singleton _ _
  | cons x l ih =>
    obtain ⟨first, rest⟩ := List.pairwise_cons.mp h
    unfold insertBy
    split
    case isTrue before =>
      refine List.pairwise_cons.mpr ⟨fun y mem => ?_, h⟩
      rcases List.mem_cons.mp mem with rfl | later
      · exact overlayBefore_asymm before
      · exact fun k => first y later (overlayBefore_trans k before)
    case isFalse notBefore =>
      refine List.pairwise_cons.mpr ⟨fun y mem => ?_, ih rest⟩
      rcases List.mem_cons.mp ((insertBy_perm overlayBefore e l).mem_iff.mp mem) with rfl | later
      · exact notBefore
      · exact first y later

theorem overlayOrder_perm (l : List Entry) : (overlayOrder l).Perm l := by
  induction l with
  | nil => exact .refl _
  | cons e l ih => exact (insertBy_perm overlayBefore e _).trans (ih.cons e)

theorem overlayOrder_inOverlayOrder (l : List Entry) : InOverlayOrder (overlayOrder l) := by
  rw [inOverlayOrder_iff]
  induction l with
  | nil => exact .nil
  | cons e l ih => exact insertBy_ordered e ih

/-- Settles O47: the snapshot is the overlay order of the sheet's entries, cut at 96. -/
theorem snapshotStandsInOverlayOrder : Obligations.SnapshotStandsInOverlayOrder := by
  refine ⟨fun sheet s => ⟨_, overlayOrder_perm _, overlayOrder_inOverlayOrder _, rfl⟩, fun n s b sheet => ?_⟩
  unfold enterOverlay
  rw [sheet]
  rfl

end Sys2Proof.Machine
end

section
/-!
PROOFS. The requests of the hub (chapter 9): how a request comes to the channel it names, how it is gated (R156), and
what the requests that bear on their channel alone make of it.
-/
namespace Sys2Proof.Machine

/-! ## The taking of a request (R152, R156) -/

section
variable {s u : State}

/-- The bytes of a request reach a receiver that holds nothing, and the request is taken by its type code. -/
theorem external_request (free : s.control.resetHeld = false) (settled : u = settle s)
    (hunting : u.crew.receiver = []) (ch : Fin 4) {n : Nat} (low : 1 ≤ n) (high : n ≤ 255) {f : List Byte}
    (fits : f.length ≤ 257) : external (hubMessage ch n f) s = takeByType ch n f (linkAlive u) := by
  rw [external_free free, ← settled, hubMessage_request ch n f u fits hunting low high]

end

section
variable {α : Type} {type : Nat} {parsed : Option α} {attaching : Bool} {ch : Fin 4} {carry : α → State → State}
  {u : State}

theorem takeRequest_busy (waits : (u.channel ch).pendingAnswer ≠ none) :
    takeRequest type parsed attaching ch carry u = u.withCrew { u.crew with busy := sat16 u.crew.busy } :=
  if_pos (Option.isSome_iff_ne_none.mpr waits)

theorem takeRequest_starting (quiet : (u.channel ch).pendingAnswer = none) (loading : u.control.running = false) :
    takeRequest type parsed attaching ch carry u = answer type .starting ch u := by
  simp [takeRequest, quiet, loading]

theorem takeRequest_malformed (quiet : (u.channel ch).pendingAnswer = none) (running : u.control.running = true)
    (bad : parsed.isSome = false) :
    takeRequest type parsed attaching ch carry u = answer type .badRequest ch u := by
  cases parsed with
  | none => simp [takeRequest, quiet, running]
  | some a => cases bad

theorem takeRequest_unattached (quiet : (u.channel ch).pendingAnswer = none) (running : u.control.running = true)
    (good : parsed.isSome = true) (free : u.isAttached ch = false) (other : attaching = false) :
    takeRequest type parsed attaching ch carry u = answer type .notAttached ch u := by
  cases parsed with
  | none => cases good
  | some a => simp [takeRequest, quiet, running, free, other]

theorem takeRequest_carried (quiet : (u.channel ch).pendingAnswer = none) (running : u.control.running = true)
    {a : α} (good : parsed = some a) (may : u.isAttached ch = true ∨ attaching = true) :
    takeRequest type parsed attaching ch carry u = carry a u := by
  have gate : ¬(u.isAttached ch = false ∧ attaching = false) := fun ⟨free, other⟩ =>
    may.elim (fun k => Bool.noConfusion (free.symm.trans k)) fun k => Bool.noConfusion (other.symm.trans k)
  simp only [takeRequest, quiet, Option.isSome_none, running, good, if_neg gate]
  rfl

end

/-! ## What a request on its channel alone leaves (R156) -/

/-- The channel replaced once the link is alive: the frame of every request that bears on its channel alone. -/
theorem linkAlive_setChannel_frame (ch : Fin 4) (c : Channel) (u : State) :
    RequestFrame ch u ((linkAlive u).setChannel ch c) :=
  ⟨⟨rfl, rfl, rfl, rfl, rfl, rfl, rfl, rfl, rfl, rfl, rfl⟩, fun _ apart => channel_setChannel_ne _ _ apart,
    ⟨rfl, rfl, rfl, rfl, rfl, rfl, rfl⟩, rfl⟩

theorem setChannel_setChannel (s : State) (ch : Fin 4) (c d : Channel) :
    (s.setChannel ch c).setChannel ch d = s.setChannel ch d := by
  fin_cases ch <;> rfl

/-- An answer on a channel just replaced. -/
theorem answerWith_setChannel (type : Nat) (status : Status) (extra : Nat) (ch : Fin 4) (c : Channel) (s : State) :
    answerWith type status extra ch (s.setChannel ch c) =
      s.setChannel ch (c.answer (.answer type status extra)) := by
  unfold answerWith
  rw [channel_setChannel_same, setChannel_setChannel]

/-- An answer and nothing else: what R156 requires of the requests it refuses. -/
theorem answer_linkAlive {ch : Fin 4} {u : State} (quiet : (u.channel ch).pendingAnswer = none) (type : Nat)
    (status : Status) : RequestFrame ch u (answer type status ch (linkAlive u)) ∧
      BesidesAnswerSame (u.channel ch) ((answer type status ch (linkAlive u)).channel ch) ∧
      Answered (u.channel ch) ((answer type status ch (linkAlive u)).channel ch) (.answer type status 0) := by
  have channel : (answer type status ch (linkAlive u)).channel ch =
      (u.channel ch).answer (.answer type status 0) := channel_answerWith _ _ _ _ _
  obtain ⟨answered, same⟩ := answered_answer quiet (.answer type status 0)
  rw [channel]
  exact ⟨linkAlive_setChannel_frame _ _ _, same, answered⟩

/-! ## The gate of R156 -/

/-- What R156 makes of a request before it is carried out. -/
def Gated (ch : Fin 4) (type : Nat) (attaching good : Bool) (u t : State) : Prop :=
  ((u.channel ch).pendingAnswer ≠ none →
    SameBesidesCrew u t ∧ (∀ d, t.channel d = u.channel d) ∧ t.crew.linkTimer = 0 ∧
    t.crew.busy = min (u.crew.busy + 1) 65535) ∧
  ((u.channel ch).pendingAnswer = none →
    (u.control.running = false →
      RequestFrame ch u t ∧ BesidesAnswerSame (u.channel ch) (t.channel ch) ∧
      Answered (u.channel ch) (t.channel ch) (.answer type .starting 0)) ∧
    (u.control.running = true → good = false →
      RequestFrame ch u t ∧ BesidesAnswerSame (u.channel ch) (t.channel ch) ∧
      Answered (u.channel ch) (t.channel ch) (.answer type .badRequest 0)) ∧
    (u.control.running = true → good = true → attaching = false → u.isAttached ch = false →
      RequestFrame ch u t ∧ BesidesAnswerSame (u.channel ch) (t.channel ch) ∧
      Answered (u.channel ch) (t.channel ch) (.answer type .notAttached 0)))

theorem takeRequest_gated {α : Type} (type : Nat) (parsed : Option α) (attaching : Bool) (ch : Fin 4)
    (carry : α → State → State) (u : State) :
    Gated ch type attaching parsed.isSome u (takeRequest type parsed attaching ch carry (linkAlive u)) := by
  refine ⟨fun waits => ?_, fun quiet => ⟨fun loading => ?_, fun running bad => ?_,
    fun running good other free => ?_⟩⟩
  · rw [takeRequest_busy (u := linkAlive u) waits]
    exact ⟨⟨rfl, rfl, rfl, rfl, rfl, rfl, rfl, rfl, rfl, rfl, rfl⟩, fun _ => rfl, rfl, satSucc_eq_min _ _⟩
  · rw [takeRequest_starting (u := linkAlive u) quiet loading]
    exact answer_linkAlive quiet type .starting
  · rw [takeRequest_malformed (u := linkAlive u) quiet running bad]
    exact answer_linkAlive quiet type .badRequest
  · rw [takeRequest_unattached (u := linkAlive u) quiet running good free other]
    exact answer_linkAlive quiet type .notAttached

/-- Each command of the hub takes its request: the channel, the type code and the fields are those named. -/
theorem request_gated {c : Instr} {ch : Fin 4} {type : Nat} {attaching good : Bool} {s u : State}
    (request : requestOf c = some (ch, type, attaching, good)) (formed : c.wellFormed = true)
    (free : s.control.resetHeld = false) (settled : u = settle s) (hunting : u.crew.receiver = []) :
    ∃ t, exec c s = .next t ∧ Gated ch type attaching good u t := by
  have taken {ch : Fin 4} {n : Nat} {f : List Byte} (fits : fieldsFit f = true) (low : 1 ≤ n) (high : n ≤ 255) :
      external (hubMessage ch n f) s = takeByType ch n f (linkAlive u) :=
    external_request free settled hunting ch low high (of_decide_eq_true fits)
  cases c
  case unknownTypeRequest d ty f =>
    simp only [requestOf] at request
    split at request
    · cases request
    case isFalse unknown =>
      cases request
      have above : ¬ty.toNat ≤ 13 := fun k => unknown (decide_eq_true k)
      have fits := (Bool.and_eq_true_iff.mp formed).2
      refine ⟨_, rfl, ?_⟩
      rw [external_free free, ← settled]
      simp only [if_neg unknown]
      rw [hubMessage_request ch ty.toNat f u (of_decide_eq_true fits) hunting (by omega) (by omega)]
      have unread : takeByType ch ty.toNat f (linkAlive u) =
          takeRequest ty.toNat (none : Option Unit) false ch (fun _ u => u) (linkAlive u) := by
        obtain ⟨k, code⟩ : ∃ k, ty.toNat = k + 14 := ⟨ty.toNat - 14, by omega⟩
        rw [code]
        rfl
      rw [unread]
      exact takeRequest_gated ty.toNat (none : Option Unit) false ch _ u
  case attach | detach | sheet | watch | unwatch | mark | unmark | isolate | deisolate | restore | list | stations |
      collect =>
    cases request
    exact ⟨_, congrArg Host.Outcome.next (taken formed (by decide) (by decide)), takeRequest_gated _ _ _ _ _ u⟩
  all_goals cases request

/-- Settles O48: every request of the hub passes the gate of R156 on its channel. -/
theorem requestsAreGated : Obligations.RequestsAreGated :=
  fun _ _ _ _ _ _ _ request formed free settled hunting => request_gated request formed free settled hunting

/-! ## Requests carried out -/

section
variable {s u : State} {ch : Fin 4}

/-- ATTACH carried out (R157). -/
theorem exec_attach (free : s.control.resetHeld = false) (settled : u = settle s) (hunting : u.crew.receiver = [])
    (running : u.control.running = true) (quiet : (u.channel ch).pendingAnswer = none) {r hi lo : Byte}
    (low : 1 ≤ ofBe16 hi lo) (high : ofBe16 hi lo ≤ 4095) :
    exec (.attach ch [r, hi, lo]) s = .next (attachRequest ch (r.toNat, ofBe16 hi lo) (linkAlive u)) := by
  have fields : attachFields [r, hi, lo] = some (r.toNat, ofBe16 hi lo) := by simp [attachFields, low, high]
  have taken := external_request free settled hunting ch (n := 1) (f := [r, hi, lo]) (by decide) (by decide) (by simp)
  have carried := takeRequest_carried (type := typeAttach) (attaching := true) (carry := attachRequest ch)
    (u := linkAlive u) quiet running fields (.inr rfl)
  exact congrArg Host.Outcome.next (taken.trans carried)

theorem role_of_code {n : Nat} (known : n ≤ 3) : ∃ role, Role.ofCode n = some role ∧ role.code = n := by
  interval_cases n
  · exact ⟨.command, rfl, rfl⟩
  · exact ⟨.search, rfl, rfl⟩
  · exact ⟨.supply, rfl, rfl⟩
  · exact ⟨.view, rfl, rfl⟩

theorem role_unknown {n : Nat} (past : 3 < n) : Role.ofCode n = none := by
  obtain ⟨k, rfl⟩ : ∃ k, n = k + 4 := ⟨n - 4, by omega⟩
  rfl

/-- The answered channel, whatever of it was replaced besides its queue and its answer. -/
theorem answered_replaced {c d : Channel} (quiet : c.pendingAnswer = none) (queue : d.queue = c.queue)
    (still : d.pendingAnswer = c.pendingAnswer) (m : Message) :
    Answered c (d.answer m) m ∧ BesidesAnswerSame d (d.answer m) := by
  obtain ⟨answered, same⟩ := answered_answer (still.trans quiet) m
  refine ⟨?_, same⟩
  unfold Answered at answered ⊢
  rwa [queue] at answered

theorem attachRequest_already (taken : u.isAttached ch = true) (r : Nat × Nat) :
    attachRequest ch r u = answer 1 .already ch u := if_pos taken

theorem attachRequest_badRole (open_ : u.isAttached ch = false) {r : Nat × Nat} (unknown : Role.ofCode r.1 = none) :
    attachRequest ch r u = answer 1 .badRole ch u := by
  simp [attachRequest, open_, unknown, typeAttach]

/-- The channel as an ATTACH makes it (R157). -/
def Channel.taken (c : Channel) (role : Role) (crew : Nat) : Channel :=
  { c with attached := some ⟨role, crew⟩, currentSheet := none, watch0 := none, watch1 := none, notices := 0,
           list := none }

theorem attachRequest_ok (open_ : u.isAttached ch = false) {r : Nat × Nat} {role : Role}
    (known : Role.ofCode r.1 = some role) : attachRequest ch r u =
      u.setChannel ch (((u.channel ch).taken role r.2).answer (.answer 1 .ok 0)) := by
  rw [attachRequest, open_, if_neg Bool.false_ne_true, known]
  exact answerWith_setChannel _ _ _ _ _ _

/-! ## Detach (R149, R158) -/

theorem exec_detach (free : s.control.resetHeld = false) (settled : u = settle s) (hunting : u.crew.receiver = [])
    (running : u.control.running = true) (quiet : (u.channel ch).pendingAnswer = none)
    (attached : u.isAttached ch = true) :
    exec (.detach ch []) s = .next (detachRequest ch () (linkAlive u)) := by
  have taken := external_request free settled hunting ch (n := 2) (f := []) (by decide) (by decide) (by simp)
  have carried := takeRequest_carried (type := typeDetach) (attaching := false) (carry := detachRequest ch)
    (u := linkAlive u) quiet running (parsed := noFields []) rfl (.inl attached)
  exact congrArg Host.Outcome.next (taken.trans carried)

/-- The read in flight of a channel that cancels becomes an orphan (R130). -/
theorem cancel_first {p : PlanStore} {r : ReadRequest} {o : Bool} (engine : p.engine = .first r o)
    (own : r.who = .channel ch) : (p.cancel ch).engine = .first r true := by
  simp [PlanStore.cancel, engine, own]

theorem cancel_second {p : PlanStore} {r : ReadRequest} {o : Bool} (engine : p.engine = .second r o)
    (own : r.who = .channel ch) : (p.cancel ch).engine = .second r true := by
  simp [PlanStore.cancel, engine, own]

/-- A bundle in progress is aborted at a detach: it keeps nothing, and its reads are cancelled (R149, R130). -/
theorem abortForDetach_aborted (busy : (u.bundle ch).state ≠ .idle) :
    (abortForDetach ch u).store = u.store.cancel ch ∧
      ((abortForDetach ch u).bundle ch).pendingMsg = none ∧ ((abortForDetach ch u).bundle ch).late = [] ∧
      ((abortForDetach ch u).bundle ch).pendingSheet = none := by
  unfold abortForDetach
  rw [if_neg busy]
  dsimp only
  rw [bundle_setBundle, if_pos rfl]
  exact ⟨rfl, rfl, rfl, rfl⟩

theorem detachRequest_channel (ch : Fin 4) (u : State) :
    (detachRequest ch () u).channel ch = { Channel.reset with queue := [.answer 2 .ok 0] } := by
  have channel := channel_answerWith typeDetach .ok 0 ch (detachChannel ch u)
  rw [(detachChannel_same ch u).1] at channel
  exact channel

end

/-- Settles O49: ATTACH is one replacement of its channel with the answer; DETACH is the abort of the bundle, the
channel as after a reset, and its answer. -/
theorem attachAndDetach : Obligations.AttachAndDetach := by
  intro ch s u free settled hunting running quiet
  refine ⟨fun r hi lo low high => ⟨_, exec_attach free settled hunting running quiet low high, ?_⟩,
    fun attached => ⟨_, exec_detach free settled hunting running quiet attached, ?_⟩⟩
  · by_cases taken : u.isAttached ch = true
    · rw [attachRequest_already (u := linkAlive u) taken]
      obtain ⟨frame, same, answered⟩ := answer_linkAlive quiet 1 .already
      exact ⟨frame, fun _ => ⟨same, answered⟩, fun k => absurd (taken.symm.trans k) (by decide),
        fun k => absurd (taken.symm.trans k) (by decide)⟩
    · have open_ := Bool.eq_false_of_not_eq_true taken
      by_cases known : r.toNat ≤ 3
      · obtain ⟨role, ofCode, code⟩ := role_of_code known
        rw [attachRequest_ok (u := linkAlive u) (r := (r.toNat, _)) open_ ofCode]
        obtain ⟨answered, attached, sheet, watch0, watch1, notices, _, list, _⟩ :=
          answered_replaced (d := (u.channel ch).taken role (ofBe16 hi lo)) quiet rfl rfl (.answer 1 .ok 0)
        refine ⟨linkAlive_setChannel_frame _ _ _, fun k => absurd k taken,
          fun _ k => absurd known (Nat.not_le.mpr k), fun _ _ => ?_⟩
        rw [channel_setChannel_same]
        exact ⟨answered, ⟨_, attached, code, rfl⟩, sheet, watch0, watch1, notices, list⟩
      · rw [attachRequest_badRole (u := linkAlive u) (r := (r.toNat, _)) open_ (role_unknown (Nat.not_le.mp known))]
        obtain ⟨frame, same, answered⟩ := answer_linkAlive quiet 1 .badRole
        exact ⟨frame, fun k => absurd k taken, fun _ _ => ⟨same, answered⟩, fun _ k => absurd k known⟩
  · have frame := detachChannel_frame ch (linkAlive u)
    refine ⟨fun d apart => ?_, detachRequest_channel ch _, ?_, fun d apart => ?_, frame.table, frame.scanner,
      frame.pub, frame.incident, frame.riser, frame.merge, frame.control, fun busy => ?_⟩
    · exact (channel_setChannel_ne _ _ apart).trans (detachChannel_ne apart (linkAlive u)).1
    · exact (detachChannel_same ch (linkAlive u)).2
    · exact (detachChannel_ne apart (linkAlive u)).2
    · obtain ⟨store, message, late, pending⟩ := abortForDetach_aborted (u := linkAlive u) busy
      have after : (detachRequest ch () (linkAlive u)).store = u.store.cancel ch := store
      obtain ⟨main, promote, _⟩ := cancel_spec u.store ch
      rw [after]
      exact ⟨message, late, pending, main, promote, fun r o engine own => cancel_first engine own,
        fun r o engine own => cancel_second engine own⟩

end Sys2Proof.Machine
end

section
/-!
PROOFS. Watches, COLLECT and the lists (R159, R165, R166, R168): requests that bear on their channel alone.
-/
namespace Sys2Proof.Machine

section
variable {s u : State} {ch : Fin 4}

/-! ## Fields (R159) -/

/-- The slot that a slot byte of 0 or 1 names. -/
theorem watchSlot_of_le {k : Byte} (known : k.toNat ≤ 1) : ∃ slot, watchSlot k = some slot ∧
    ((k.toNat = 0 ∧ slot = .slot0) ∨ (k.toNat = 1 ∧ slot = .slot1)) := by
  rcases Nat.le_one_iff_eq_zero_or_eq_one.mp known with zero | one
  · exact ⟨.slot0, by simp [watchSlot, zero], .inl ⟨zero, rfl⟩⟩
  · exact ⟨.slot1, by simp [watchSlot, one], .inr ⟨one, rfl⟩⟩

/-- The mode of a watch whose fields are in their ranges (R159). -/
theorem watchMode_of {m fl cp st ix : Nat} {mode : WatchMode}
    (fields : m = 0 ∧ 1 ≤ st ∧ st ≤ 250 ∧ ix ≤ 79 ∧ mode = .point ⟨st, ix⟩ ∨
      m = 1 ∧ fl ≤ 126 ∧ mode = .floor fl ∨ m = 2 ∧ fl ≤ 126 ∧ mode = .floorBand fl ∨
      m = 3 ∧ fl ≤ 126 ∧ cp ≤ 15 ∧ mode = .compartment fl cp) : watchMode m fl cp st ix = some mode := by
  rcases fields with ⟨rfl, low, high, index, rfl⟩ | ⟨rfl, floor, rfl⟩ | ⟨rfl, floor, rfl⟩ | ⟨rfl, floor, comp, rfl⟩
  · simp [watchMode, low, high, index]
  · simp [watchMode, floor]
  · simp [watchMode, floor]
  · simp [watchMode, floor, comp]

/-! ## The requests carried out -/

theorem exec_watch (free : s.control.resetHeld = false) (settled : u = settle s) (hunting : u.crew.receiver = [])
    (running : u.control.running = true) (quiet : (u.channel ch).pendingAnswer = none)
    (attached : u.isAttached ch = true) {k m fl cp st ix rk : Byte} {slot : WatchSlot} {mode : WatchMode}
    (named : watchSlot k = some slot)
    (modeIs : watchMode m.toNat fl.toNat cp.toNat st.toNat ix.toNat = some mode) (rank : rk.toNat ≤ 7) :
    exec (.watch ch [k, m, fl, cp, st, ix, rk]) s = .next
      ((linkAlive u).setChannel ch (((u.channel ch).setWatch slot (some ⟨mode, rk.toNat⟩)).answer
        (.answer 4 .ok 0))) := by
  have fields : watchFields [k, m, fl, cp, st, ix, rk] = some (slot, ⟨mode, rk.toNat⟩) := by
    simp [watchFields, named, modeIs, rank]
  have taken := external_request free settled hunting ch (n := 4) (f := [k, m, fl, cp, st, ix, rk]) (by decide)
    (by decide) (by simp)
  have carried := takeRequest_carried (type := typeWatch) (attaching := false) (carry := watchRequest ch)
    (u := linkAlive u) quiet running fields (.inl attached)
  have eq : watchRequest ch (slot, ⟨mode, rk.toNat⟩) (linkAlive u) = _ := answerWith_setChannel typeWatch .ok 0 ch _ _
  exact congrArg Host.Outcome.next ((taken.trans carried).trans eq)

theorem exec_unwatch (free : s.control.resetHeld = false) (settled : u = settle s)
    (hunting : u.crew.receiver = []) (running : u.control.running = true)
    (quiet : (u.channel ch).pendingAnswer = none) (attached : u.isAttached ch = true) {k : Byte} {slot : WatchSlot}
    (named : watchSlot k = some slot) : exec (.unwatch ch [k]) s = .next
      ((linkAlive u).setChannel ch (((u.channel ch).setWatch slot none).answer (.answer 5 .ok 0))) := by
  have taken := external_request free settled hunting ch (n := 5) (f := [k]) (by decide) (by decide) (by simp)
  have carried := takeRequest_carried (type := typeUnwatch) (attaching := false) (carry := unwatchRequest ch)
    (u := linkAlive u) quiet running (parsed := unwatchFields [k]) named (.inl attached)
  have eq : unwatchRequest ch slot (linkAlive u) = _ := answerWith_setChannel typeUnwatch .ok 0 ch _ _
  exact congrArg Host.Outcome.next ((taken.trans carried).trans eq)

/-- The channel as a COLLECT leaves it, but for its answer (R168). -/
def Channel.collected (c : Channel) : Channel := { c with notices := 0, noticePending := false }

theorem exec_collect (free : s.control.resetHeld = false) (settled : u = settle s)
    (hunting : u.crew.receiver = []) (running : u.control.running = true)
    (quiet : (u.channel ch).pendingAnswer = none) (attached : u.isAttached ch = true) :
    exec (.collect ch []) s = .next ((linkAlive u).setChannel ch
      ((u.channel ch).collected.answer (.answer 13 .ok (u.channel ch).notices.toNat))) := by
  have taken := external_request free settled hunting ch (n := 13) (f := []) (by decide) (by decide) (by simp)
  have carried := takeRequest_carried (type := typeCollect) (attaching := false) (carry := collectRequest ch)
    (u := linkAlive u) quiet running (parsed := noFields []) rfl (.inl attached)
  have eq : collectRequest ch () (linkAlive u) = _ :=
    answerWith_setChannel typeCollect .ok (u.channel ch).notices.toNat ch _ _
  exact congrArg Host.Outcome.next ((taken.trans carried).trans eq)

/-! ## Watch slots (R159) -/

theorem setWatch_queue (c : Channel) (slot : WatchSlot) (w : Option Watch) :
    (c.setWatch slot w).queue = c.queue ∧ (c.setWatch slot w).pendingAnswer = c.pendingAnswer := by
  cases slot
  · exact ⟨rfl, rfl⟩
  · exact ⟨rfl, rfl⟩

/-- A watch slot set and answered: the other slot and all else of the channel stand. -/
def WatchSet (k : Byte) (w : Option Watch) (type : Nat) (c d : Channel) : Prop :=
  Answered c d (.answer type .ok 0) ∧ d.watch0 = (if k.toNat = 0 then w else c.watch0) ∧
    d.watch1 = (if k.toNat = 1 then w else c.watch1) ∧ d.attached = c.attached ∧ d.currentSheet = c.currentSheet ∧
    d.notices = c.notices ∧ d.noticePending = c.noticePending ∧ d.list = c.list ∧ d.listEnds = c.listEnds

theorem watchSet_answer {c : Channel} (quiet : c.pendingAnswer = none) {k : Byte} {slot : WatchSlot}
    (named : (k.toNat = 0 ∧ slot = .slot0) ∨ (k.toNat = 1 ∧ slot = .slot1)) (w : Option Watch) (type : Nat) :
    WatchSet k w type c ((c.setWatch slot w).answer (.answer type .ok 0)) := by
  obtain ⟨queue, still⟩ := setWatch_queue c slot w
  obtain ⟨answered, attached, sheet, watch0, watch1, notices, pending, list, ends⟩ :=
    answered_replaced quiet queue still (.answer type .ok 0)
  unfold WatchSet
  rw [attached, sheet, watch0, watch1, notices, pending, list, ends]
  refine ⟨answered, ?_⟩
  rcases named with ⟨code, rfl⟩ | ⟨code, rfl⟩
  · rw [code]
    exact ⟨rfl, rfl, rfl, rfl, rfl, rfl, rfl, rfl⟩
  · rw [code]
    exact ⟨rfl, rfl, rfl, rfl, rfl, rfl, rfl, rfl⟩

end

/-- Settles O50: each of the three replaces a part of its channel and answers on it. -/
theorem watchUnwatchAndCollect : Obligations.WatchUnwatchAndCollect := by
  intro ch s u free settled hunting running quiet attached
  refine ⟨fun k m fl cp st ix rk mode slotKnown rank modeIs => ?_, fun k slotKnown => ?_, ?_⟩
  · obtain ⟨slot, named, is⟩ := watchSlot_of_le slotKnown
    refine ⟨_, exec_watch free settled hunting running quiet attached named (watchMode_of modeIs) rank,
      linkAlive_setChannel_frame _ _ _, ?_⟩
    rw [channel_setChannel_same]
    exact watchSet_answer quiet is _ 4
  · obtain ⟨slot, named, is⟩ := watchSlot_of_le slotKnown
    refine ⟨_, exec_unwatch free settled hunting running quiet attached named,
      linkAlive_setChannel_frame _ _ _, ?_⟩
    rw [channel_setChannel_same]
    exact watchSet_answer quiet is _ 5
  · refine ⟨_, exec_collect free settled hunting running quiet attached, linkAlive_setChannel_frame _ _ _, ?_⟩
    rw [channel_setChannel_same]
    obtain ⟨answered, isAttached, sheet, watch0, watch1, notices, pending, list, ends⟩ :=
      answered_replaced (d := (u.channel ch).collected) quiet rfl rfl
        (.answer 13 .ok (u.channel ch).notices.toNat)
    exact ⟨answered, notices, pending, isAttached, sheet, watch0, watch1, list, ends⟩

/-! ## Lists (R165, R166) -/

/-- A new list ends the one in progress with a LIST END that carries the replaced flag (R166). -/
theorem replaceList_eq (c : Channel) (new : ListProgress) : c.replaceList new = { c with
    list := some new
    listEnds := c.listEnds ++ (match c.list with
      | some l => [l.endMessage true]
      | none => []) } := by
  unfold Channel.replaceList
  cases list : c.list with
  | some l => rfl
  | none =>
    dsimp only
    rw [List.append_nil]

section
variable {s u : State} {ch : Fin 4}

theorem exec_list (free : s.control.resetHeld = false) (settled : u = settle s) (hunting : u.crew.receiver = [])
    (running : u.control.running = true) (quiet : (u.channel ch).pendingAnswer = none)
    (attached : u.isAttached ch = true) {low high rank : Byte} (lowIn : low.toNat ≤ 127) (highIn : high.toNat ≤ 127)
    (rankIn : rank.toNat ≤ 7) : exec (.list ch [low, high, rank]) s = .next ((linkAlive u).setChannel ch
      ((u.channel ch).replaceList
        (takeList ⟨min low.toNat high.toNat, max low.toNat high.toNat, rank.toNat⟩ (linkAlive u)))) := by
  have fields : listFields [low, high, rank] =
      some ⟨min low.toNat high.toNat, max low.toNat high.toNat, rank.toNat⟩ := by
    simp [listFields, lowIn, highIn, rankIn]
  have taken := external_request free settled hunting ch (n := 11) (f := [low, high, rank]) (by decide) (by decide)
    (by simp)
  have carried := takeRequest_carried (type := typeList) (attaching := false) (carry := listRequest ch)
    (u := linkAlive u) quiet running fields (.inl attached)
  exact congrArg Host.Outcome.next (taken.trans carried)

theorem exec_stations (free : s.control.resetHeld = false) (settled : u = settle s)
    (hunting : u.crew.receiver = []) (running : u.control.running = true)
    (quiet : (u.channel ch).pendingAnswer = none) (attached : u.isAttached ch = true) {low high : Byte}
    (lowIn : 1 ≤ low.toNat ∧ low.toNat ≤ 250) (highIn : 1 ≤ high.toNat ∧ high.toNat ≤ 250) :
    exec (.stations ch [low, high]) s = .next ((linkAlive u).setChannel ch ((u.channel ch).replaceList
      { body := .stations (min low.toNat high.toNat) (max low.toNat high.toNat), shown := 0
        total := max low.toNat high.toNat - min low.toNat high.toNat + 1 })) := by
  have fields : stationsFields [low, high] = some (min low.toNat high.toNat, max low.toNat high.toNat) := by
    simp [stationsFields, validStation, lowIn, highIn]
  have taken := external_request free settled hunting ch (n := 12) (f := [low, high]) (by decide) (by decide)
    (by simp)
  have carried := takeRequest_carried (type := typeStations) (attaching := false) (carry := stationsRequest ch)
    (u := linkAlive u) quiet running fields (.inl attached)
  exact congrArg Host.Outcome.next (taken.trans carried)

/-- The status of an entry's origin that a list item carries (R165). -/
theorem listStatus_eq (s : State) (e : Entry) : s.listStatus e =
    if e.addr.station = s.own then .own else .origin (s.origin e.addr.station).status := by
  simp [State.listStatus, State.ownEntry]

end

/-- Settles O51: LIST takes the overlay order of the entries that suit it, STATIONS its range, and either stands in
the place of the list in progress. -/
theorem listsAreTaken : Obligations.ListsAreTaken := by
  intro ch s u free settled hunting running quiet attached
  refine ⟨fun low high rank lowIn highIn rankIn => ?_, fun low high low1 low2 high1 high2 => ?_⟩
  · refine ⟨_, _, exec_list free settled hunting running quiet attached lowIn highIn rankIn,
      linkAlive_setChannel_frame _ _ _, overlayOrder_perm _, overlayOrder_inOverlayOrder _, ?_⟩
    rw [channel_setChannel_same, replaceList_eq]
    simp only [← listStatus_eq]
    rfl
  · refine ⟨_, exec_stations free settled hunting running quiet attached ⟨low1, low2⟩ ⟨high1, high2⟩,
      linkAlive_setChannel_frame _ _ _, ?_⟩
    exact (channel_setChannel_same _ _ _).trans (replaceList_eq _ _)

end Sys2Proof.Machine
end

section
/-!
PROOFS. A message of the hub sets the link silence timer, and the picture changes told behind it do not see that
timer (R152, R153, R21).
-/
namespace Sys2Proof.Machine

/-- The operation does the same whatever the link silence timer shows. -/
def TimerBlind (f : State → State) : Prop := ∀ s, f (linkAlive s) = linkAlive (f s)

theorem TimerBlind.comp {f g : State → State} (hf : TimerBlind f) (hg : TimerBlind g) : TimerBlind fun s => f (g s) :=
  fun s => (congrArg f (hg s)).trans (hf _)

theorem timerBlind_id : TimerBlind fun s => s := fun _ => rfl

theorem linkAlive_channel (s : State) (ch : Fin 4) : (linkAlive s).channel ch = s.channel ch := rfl

theorem linkAlive_bundle (s : State) (ch : Fin 4) : (linkAlive s).bundle ch = s.bundle ch := rfl

theorem linkAlive_incident (s : State) : (linkAlive s).incident = s.incident := rfl

theorem raiseAll_timerBlind (n : Notice) : TimerBlind fun s => s.raiseAll n := fun _ => rfl

theorem queueUpdate_timerBlind (pc : PictureChange) (f : Option Nat) (ch : Fin 4) :
    TimerBlind (queueUpdate pc f ch) := by
  intro s
  unfold queueUpdate
  rw [linkAlive_channel]
  split
  · rfl
  · rfl

theorem offerLate_timerBlind (a : Address) (ch : Fin 4) : TimerBlind (offerLate a ch) := by
  intro s
  unfold offerLate
  rw [linkAlive_bundle]
  dsimp only
  split
  · rfl
  · split
    · rfl
    · rfl

theorem routeOn_timerBlind (pc : PictureChange) (ch : Fin 4) : TimerBlind (routeOn pc ch) := by
  intro s
  unfold routeOn
  have vector : (linkAlive s).crew.notifyVector = s.crew.notifyVector := rfl
  rw [linkAlive_channel, linkAlive_bundle, vector, offerLate_timerBlind]
  dsimp only
  split
  · rfl
  · split
    · split
      · exact queueUpdate_timerBlind _ _ _ _
      · rfl
    · split
      · exact queueUpdate_timerBlind _ _ _ _
      · split
        · exact queueUpdate_timerBlind _ _ _ _
        · rfl

theorem noteMove_timerBlind (before : Option IncidentOrigin) : TimerBlind (noteMove before) := by
  intro s
  unfold noteMove
  rw [linkAlive_incident]
  split
  · split
    · rfl
    · rfl
  · rfl

theorem alarmRises_timerBlind (e : Entry) : TimerBlind (alarmRises e) := by
  intro s
  unfold alarmRises
  rw [linkAlive_incident]
  dsimp only
  split
  · rfl
  · split
    · split
      · exact noteMove_timerBlind _ (s.withIncident _)
      · rfl
    · exact noteMove_timerBlind _ (s.withIncident _)

theorem alarmFalls_timerBlind (e : Entry) : TimerBlind (alarmFalls e) := by
  intro s
  unfold alarmFalls
  have entries : (linkAlive s).entries = s.entries := rfl
  rw [linkAlive_incident, entries]
  dsimp only
  split
  · split
    · split
      · rfl
      · rfl
    · rfl
  · split
    · split
      · exact noteMove_timerBlind _ (s.withIncident _)
      · rfl
    · rfl

theorem followLocation_timerBlind (e : Entry) : TimerBlind (followLocation e) := by
  intro s
  unfold followLocation
  rw [linkAlive_incident]
  split
  · split
    · rfl
    · rfl
  · rfl

theorem checkVertical_timerBlind (e : Entry) : TimerBlind (checkVertical e) := by
  intro s
  unfold checkVertical
  rw [linkAlive_incident]
  split
  · split
    · rfl
    · rfl
  · rfl

theorem checkLateral_timerBlind (e : Entry) : TimerBlind (checkLateral e) := by
  intro s
  unfold checkLateral
  rw [linkAlive_incident]
  split
  · split
    · rfl
    · rfl
  · rfl

theorem monitorTakes_timerBlind (pc : PictureChange) : TimerBlind (monitorTakes pc) := by
  intro s
  unfold monitorTakes
  split
  · exact ((checkLateral_timerBlind _).comp ((checkVertical_timerBlind _).comp (alarmRises_timerBlind _))) s
  · split
    · exact alarmFalls_timerBlind _ s
    · split
      · exact followLocation_timerBlind _ s
      · rfl

theorem emit_timerBlind (pc : PictureChange) : TimerBlind (emit pc) :=
  (routeOn_timerBlind pc 3).comp ((routeOn_timerBlind pc 2).comp ((routeOn_timerBlind pc 1).comp
    ((routeOn_timerBlind pc 0).comp (monitorTakes_timerBlind pc))))

theorem toldWrite_timerBlind (old new : Entry) : TimerBlind (toldWrite old new) := by
  intro s
  unfold toldWrite
  split
  · exact emit_timerBlind _ (s.putEntry new)
  · rfl

theorem removeByHold_timerBlind (e : Entry) : TimerBlind (removeByHold e) := by
  intro s
  have copied : handCopy e ((linkAlive s).dropEntry e.addr) = linkAlive (handCopy e (s.dropEntry e.addr)) := by
    unfold handCopy
    rw [apply_ite linkAlive]
    rfl
  unfold removeByHold
  rw [copied]
  exact emit_timerBlind _ _

theorem rewriteEntry_timerBlind (old new : Entry) : TimerBlind (rewriteEntry old new) := by
  intro s
  have gone : (linkAlive s).rewriteGone old new = s.rewriteGone old new := rfl
  rw [rewriteEntry_eq, rewriteEntry_eq, gone, toldWrite_timerBlind]
  split
  · exact removeByHold_timerBlind _ _
  · rfl

/-! ## A rewrite seen by the followers (R21, R27) -/

theorem Following.toldWrite {s t : State} (h : Following s t) (old new : Entry) :
    Following (toldWrite old new s) (toldWrite old new t) := by
  unfold Machine.toldWrite
  split
  · exact (h.putEntry new).emit _
  · exact h.putEntry new

theorem Following.removeByHold {s t : State} (h : Following s t) (e : Entry) :
    Following (removeByHold e s) (removeByHold e t) := by
  obtain ⟨crew, bundles, incident, entries, tick⟩ := removeByHold_following (.refl s) e
  obtain ⟨crew', bundles', incident', entries', tick'⟩ := removeByHold_following h e
  exact ⟨crew'.trans crew.symm, bundles'.trans bundles.symm, incident'.trans incident.symm,
    entries'.trans entries.symm, tick'.trans tick.symm⟩

theorem Following.rewriteEntry {s t : State} (h : Following s t) (hold : t.table.clearHold = s.table.clearHold)
    (old new : Entry) : Following (rewriteEntry old new s) (rewriteEntry old new t) := by
  have gone : t.rewriteGone old new = s.rewriteGone old new := by
    unfold State.rewriteGone State.now
    rw [hold, h.tick]
  rw [rewriteEntry_eq, rewriteEntry_eq, gone]
  split
  · exact (h.toldWrite old new).removeByHold new
  · exact h.toldWrite old new

end Sys2Proof.Machine
end

section
/-!
PROOFS. Markers of the crew (R24, R25, R160, R161).
-/
namespace Sys2Proof.Machine

section
variable {s u : State} {ch : Fin 4}

/-! ## The lowest free slot (R24) -/

theorem freeSlot_none (full : ∀ i, 64 ≤ i → i ≤ 79 → s.ownAt i ≠ none) : s.freeSlot = none := by
  cases slot : s.freeSlot with
  | none => rfl
  | some i =>
    obtain ⟨low, high, free⟩ := freeSlot_some slot
    exact absurd free (full i low high)

theorem freeSlot_first {i : Nat} (low : 64 ≤ i) (high : i ≤ 79) (free : s.ownAt i = none)
    (first : ∀ j, 64 ≤ j → j < i → s.ownAt j ≠ none) : s.freeSlot = some i := by
  unfold State.freeSlot
  rw [List.find?_map, Option.map_eq_some_iff]
  refine ⟨i - 64, List.find?_range_eq_some.mpr ⟨?_, List.mem_range.mpr (by omega), fun j below => ?_⟩, by omega⟩
  · simp only [Function.comp_apply, Nat.sub_add_cancel low, free, Option.isNone_none]
  · have held := first (j + 64) (by omega) (by omega)
    simp only [Function.comp_apply, Bool.not_eq_true', Option.isNone_eq_false_iff, Option.isSome_iff_ne_none]
    exact held

/-! ## MARK (R24, R160) -/

theorem exec_mark (free : s.control.resetHeld = false) (settled : u = settle s) (hunting : u.crew.receiver = [])
    (running : u.control.running = true) (quiet : (u.channel ch).pendingAnswer = none)
    (attached : u.isAttached ch = true) {k s1 s0 x1 x0 y1 y0 fl cp : Byte} {kind : PointState}
    (kindIs : markKind k.toNat = some kind)
    (inRange : fieldsInRange (ofBe16 s1 s0) (ofBe16 x1 x0) (ofBe16 y1 y0) fl.toNat cp.toNat = true) :
    exec (.mark ch [k, s1, s0, x1, x0, y1, y0, fl, cp]) s = .next (markRequest ch
      ⟨kind, placeOfFields (ofBe16 s1 s0) (ofBe16 x1 x0) (ofBe16 y1 y0), ⟨fl.toNat, cp.toNat⟩⟩ (linkAlive u)) := by
  have fields : markFields [k, s1, s0, x1, x0, y1, y0, fl, cp] =
      some ⟨kind, placeOfFields (ofBe16 s1 s0) (ofBe16 x1 x0) (ofBe16 y1 y0), ⟨fl.toNat, cp.toNat⟩⟩ := by
    simp only [markFields, kindIs, inRange, if_true]
  have taken := external_request free settled hunting ch (n := 6) (f := [k, s1, s0, x1, x0, y1, y0, fl, cp])
    (by decide) (by decide) (by simp)
  have carried := takeRequest_carried (type := typeMark) (attaching := false) (carry := markRequest ch)
    (u := linkAlive u) quiet running fields (.inl attached)
  exact congrArg Host.Outcome.next (taken.trans carried)

section
variable {att : Attachment} (attached : (u.channel ch).attached = some att)
include attached

theorem markRequest_view (r : MarkRequest) (view : att.role = .view) :
    markRequest ch r u = answer 6 .notPermitted ch u := by
  simp only [markRequest, attached, view, if_true, typeMark]

theorem markRequest_full (r : MarkRequest) (may : att.role ≠ .view) (full : u.freeSlot = none) :
    markRequest ch r u = answer 6 .markersFull ch u := by
  simp only [markRequest, attached, if_neg may, full, typeMark]

theorem markRequest_ok (r : MarkRequest) (may : att.role ≠ .view) {i : Nat} (slot : u.freeSlot = some i) :
    markRequest ch r u = answerWith 6 .ok i ch (createMarker i r.kind att.crew r.place r.loc u) := by
  simp only [markRequest, attached, if_neg may, slot, typeMark]

end

/-- The entry of a marker created (R24). -/
def State.markerEntry (s : State) (i : Nat) (r : MarkRequest) (crew : Nat) : Entry :=
  { addr := ⟨s.own, i⟩, state := r.kind, datum := .crew crew, place := r.place, loc := r.loc, localSince := s.now,
    learned := s.now, confirmed := true, sweep := false }

/-- What a marker created makes of the blocks but those that follow the picture (R24, R87, R89). -/
structure MarkerCreated (i : Nat) (e : Entry) (s t : State) : Prop where
  control : t.control = s.control
  scanner : t.scanner = s.scanner
  riser : t.riser = s.riser
  table : t.table = (s.putEntry e).table
  pub : t.pub = { (s.setCopy i none).pub with change := setMark i s.pub.change }

theorem createMarker_created (i : Nat) (r : MarkRequest) (crew : Nat) (s : State) :
    MarkerCreated i (s.markerEntry i r crew) s (createMarker i r.kind crew r.place r.loc s) := by
  have told := emit_told (plainChange .admission (s.markerEntry i r crew))
    ((s.setCopy i none).putEntry (s.markerEntry i r crew))
  refine ⟨told.control, told.scanner, told.riser, told.table, ?_⟩
  exact congrArg (fun p : Publisher => { p with change := setMark i p.change }) told.pub

theorem copyAt_setCopy_none (s : State) (i : Nat) : (s.setCopy i none).pub.copyAt i = none := by
  unfold Publisher.copyAt
  split
  · rfl
  · exact (getD_updAt_none _ _ _).trans (if_pos rfl)

/-- The followers of the picture hear of a marker created as of an admission. -/
theorem createMarker_told (i : Nat) (r : MarkRequest) (crew : Nat) (u : State) :
    Following (linkAlive (emit (plainChange .admission (u.markerEntry i r crew)) (u.putEntry (u.markerEntry i r crew))))
      (createMarker i r.kind crew r.place r.loc (linkAlive u)) := by
  rw [← emit_timerBlind]
  have alike : Following (linkAlive u) ((linkAlive u).setCopy i none) := ⟨rfl, rfl, rfl, rfl, rfl⟩
  obtain ⟨crew', bundles, incident, entries, tick⟩ :=
    (alike.putEntry (u.markerEntry i r crew)).emit (plainChange .admission (u.markerEntry i r crew))
  exact ⟨crew', bundles, incident, entries, tick⟩

/-- An answer on a channel that has just heard of picture changes. -/
theorem answered_told {told t : State} (quiet : (told.channel ch).pendingAnswer = none)
    (same : Following (linkAlive told) t) (type : Nat) (status : Status) (extra : Nat) :
    OtherChannelsSame ch told (answerWith type status extra ch t) ∧
      Answered (told.channel ch) ((answerWith type status extra ch t).channel ch) (.answer type status extra) := by
  refine ⟨fun d apart => (channel_setChannel_ne _ _ apart).trans (same.channel d), ?_⟩
  rw [channel_answerWith, same.channel]
  exact (answered_answer quiet _).1

end

/-- Settles O23: MARK is refused by the role or the full slots, or places its entry in the lowest free one. -/
theorem markCreatesAMarker : Obligations.MarkCreatesAMarker := by
  intro ch k s1 s0 x1 x0 y1 y0 fl cp kind att s u free settled hunting running quiet attached kindIs sheet position
    floor comp
  have kindField : markKind k.toNat = some kind := by
    rcases kindIs with ⟨code, rfl⟩ | ⟨code, rfl⟩ | ⟨code, rfl⟩ <;> rw [code] <;> rfl
  have inRange : fieldsInRange (ofBe16 s1 s0) (ofBe16 x1 x0) (ofBe16 y1 y0) fl.toNat cp.toNat = true :=
    decide_eq_true ⟨sheet, floor, comp, position⟩
  refine ⟨_, exec_mark free settled hunting running quiet (by rw [State.isAttached, attached]; rfl) kindField inRange,
    fun view => ?_, fun may full => ?_, fun i may low high empty first => ?_⟩
  · rw [markRequest_view (u := linkAlive u) attached _ view]
    exact answer_linkAlive quiet 6 .notPermitted
  · rw [markRequest_full (u := linkAlive u) attached _ may (freeSlot_none full)]
    exact answer_linkAlive quiet 6 .markersFull
  · rw [markRequest_ok (u := linkAlive u) attached _ may (freeSlot_first low high empty first)]
    generalize hr : (⟨kind, placeOfFields (ofBe16 s1 s0) (ofBe16 x1 x0) (ofBe16 y1 y0), ⟨fl.toNat, cp.toNat⟩⟩ :
      MarkRequest) = r
    have hears := createMarker_told i r att.crew u
    obtain ⟨control, scanner, riser, table, pub⟩ := createMarker_created i r att.crew (linkAlive u)
    generalize createMarker i r.kind att.crew r.place r.loc (linkAlive u) = t at *
    have own : t.own = u.own := congrArg (fun c : StationControl => c.straps.station.toNat) control
    refine ⟨by rw [channel_answerWith]; exact hasAnswer_answer _ _, ?_, ?_, ?_, fun e told he htold => ?_,
      fun a apart => ?_, scanner, riser, (congrArg PictureTable.origins table :)⟩
    · change i ∈ t.pub.change
      rw [pub]
      exact mem_setMark.mpr (.inl rfl)
    · change t.pub.copyAt i = none
      rw [pub]
      exact copyAt_setCopy_none u i
    · change i ∉ t.pub.copiesInFlight
      rw [pub]
      exact fun inFlight => (mem_clearMark.mp inFlight).2 rfl
    · have isEntry : e = u.markerEntry i r att.crew := by rw [he, ← hr]; rfl
      have isTold : told = emit (plainChange .admission (u.markerEntry i r att.crew))
        (u.putEntry (u.markerEntry i r att.crew)) := by rw [htold, isEntry]; rfl
      have still := (emit_told (plainChange .admission (u.markerEntry i r att.crew))
        (u.putEntry (u.markerEntry i r att.crew))).channel ch
      rw [← isTold] at hears still
      obtain ⟨others, answered⟩ := answered_told (still.pendingAnswer.trans quiet) hears 6 .ok i
      refine ⟨?_, hears.bundles, hears.incident, others, answered⟩
      change t.entryAt ⟨t.own, i⟩ = some e
      rw [own, isEntry, entryAt_congr table]
      exact entryAt_putEntry_same _ _
    · change t.entryAt a = u.entryAt a
      rw [entryAt_congr table]
      exact entryAt_putEntry_ne (linkAlive u) _ a apart

/-! ## UNMARK (R25, R27, R161) -/

section
variable {s u : State} {ch : Fin 4}

theorem exec_unmark (free : s.control.resetHeld = false) (settled : u = settle s) (hunting : u.crew.receiver = [])
    (running : u.control.running = true) (quiet : (u.channel ch).pendingAnswer = none)
    (attached : u.isAttached ch = true) {b : Byte} (known : b.toNat ≤ 79) :
    exec (.unmark ch [b]) s = .next (unmarkRequest ch b.toNat (linkAlive u)) := by
  have fields : unmarkFields [b] = some b.toNat := if_pos known
  have taken := external_request free settled hunting ch (n := 7) (f := [b]) (by decide) (by decide) (by simp)
  have carried := takeRequest_carried (type := typeUnmark) (attaching := false) (carry := unmarkRequest ch)
    (u := linkAlive u) quiet running fields (.inl attached)
  exact congrArg Host.Outcome.next (taken.trans carried)

theorem mayClear_iff (att : Attachment) (e : Entry) : mayClear att e = true ↔
    att.role = .command ∨ (att.role ≠ .view ∧ e.datum = .crew att.crew) := by
  simp [mayClear]

section
variable {att : Attachment} (attached : (u.channel ch).attached = some att)
include attached

theorem unmarkRequest_badPoint {i : Nat} (bad : i < 64 ∨ u.ownAt i = none) :
    unmarkRequest ch i u = answer 7 .badPoint ch u := by
  by_cases loop : i < 64
  · simp only [unmarkRequest, attached, if_pos loop, typeUnmark]
  · simp only [unmarkRequest, attached, if_neg loop, bad.resolve_left loop, typeUnmark]

theorem unmarkRequest_notOwn {i : Nat} (low : 64 ≤ i) {e : Entry} (held : u.ownAt i = some e)
    (other : ¬mayClear att e = true) : unmarkRequest ch i u = answer 7 .notOwn ch u := by
  simp only [unmarkRequest, attached, if_neg (Nat.not_lt.mpr low), held, if_neg other, typeUnmark]

theorem unmarkRequest_ok {i : Nat} (low : 64 ≤ i) {e : Entry} (held : u.ownAt i = some e)
    (may : mayClear att e = true) : unmarkRequest ch i u = answer 7 .ok ch (clearMarker e u) := by
  simp only [unmarkRequest, attached, if_neg (Nat.not_lt.mpr low), held, if_pos may, typeUnmark]

end

/-- The entry of a marker cleared (R25). -/
def Entry.clearedAt (e : Entry) (now : Nat) : Entry :=
  { e with state := .cleared, localSince := now, learned := now, confirmed := true }

theorem clearMarker_of_cleared {e : Entry} (cleared : e.state = .cleared) : clearMarker e s = s := if_pos cleared

theorem clearMarker_of_live {e new : Entry} (live : e.state ≠ .cleared) (isNew : new = e.clearedAt s.now) :
    clearMarker e s = rewriteEntry e new (s.setChange e.addr.index) := by
  rw [isNew]
  exact if_neg live

/-- An entry cleared now is removed at once where ClearHold is 0, and only there (R27). -/
theorem rewriteGone_clearedAt {e : Entry} (live : e.state ≠ .cleared) (s : State) :
    s.rewriteGone e (e.clearedAt s.now) = decide (s.table.clearHold = 0) := by
  unfold State.rewriteGone
  have zero : s.now - (e.clearedAt s.now).localSince = 0 := Nat.sub_self _
  rw [zero]
  simp [live, Entry.clearedAt]

theorem handCopy_crew (e : Entry) (s : State) : (handCopy e s).crew = s.crew := by
  unfold handCopy
  split
  · rfl
  · rfl

/-- A rewrite and its REMOVE tell a channel of changes and nothing else. -/
theorem rewriteEntry_channel (old new : Entry) (s : State) (ch : Fin 4) :
    ChannelTold (s.channel ch) ((rewriteEntry old new s).channel ch) := by
  have written := (toldWrite_told old new s).channel ch
  rw [rewriteEntry_eq]
  split
  · have removed := (emit_told (plainChange .remove new)
      (handCopy new ((toldWrite old new s).dropEntry new.addr))).channel ch
    have copied : (handCopy new ((toldWrite old new s).dropEntry new.addr)).channel ch =
        (toldWrite old new s).channel ch := congrArg (fun c : CrewUnit => c.channels.get ch) (handCopy_crew _ _)
    rw [copied] at removed
    exact written.trans removed
  · exact written

/-- A rewrite that keeps its entry leaves the Publisher (R22). -/
theorem rewriteEntry_pub_kept {old new : Entry} (stays : s.rewriteGone old new = false) :
    (rewriteEntry old new s).pub = s.pub := by
  rw [rewriteEntry_eq, stays]
  exact (toldWrite_told old new s).pub

/-- A rewrite that takes a marker out at once hands its clearing copy over (R27, R89). -/
theorem rewriteEntry_pub_gone {old new : Entry} (gone : s.rewriteGone old new = true)
    (own : s.ownEntry new = true) (marker : 64 ≤ new.addr.index) : (rewriteEntry old new s).pub =
      (s.setCopy new.addr.index (some ⟨new.datum.value, new.place, new.loc⟩)).pub := by
  have told := toldWrite_told old new s
  have still : (toldWrite old new s).ownEntry new = true := by
    rw [State.ownEntry, State.own, told.control]
    exact own
  rw [rewriteEntry_eq, if_pos gone, removeByHold_pub, if_pos ⟨still, marker⟩]
  unfold State.setCopy
  rw [told.pub]
  rfl

end

/-- A marker CLEARED in `u` behind a message of the hub, with what follows it (R25, R27, R89). -/
structure MarkerCleared (i : Nat) (e new : Entry) (u t : State) : Prop where
  change : i ∈ t.pub.change
  others : ∀ a, a ≠ ⟨u.own, i⟩ → t.entryAt a = u.entryAt a
  held : 0 < u.table.clearHold → t.ownAt i = some new ∧ t.pub.copies = u.pub.copies
  gone : u.table.clearHold = 0 → t.ownAt i = none ∧ (u.pub.copies.length = 16 →
    t.pub.copyAt i = some { crew := e.datum.value, place := e.place, loc := e.loc } ∧ i ∉ t.pub.copiesInFlight)
  told : ToldOfWrite e new (decide (u.table.clearHold = 0)) u (rewriteEntry e new u)
  hears : Following (linkAlive (rewriteEntry e new u)) t

theorem clearMarker_cleared {u : State} {i : Nat} {e new : Entry} (low : 64 ≤ i) (high : i ≤ 79)
    (held : u.ownAt i = some e) (live : e.state ≠ .cleared) (isNew : new = e.clearedAt u.now) :
    MarkerCleared i e new u (clearMarker e (linkAlive u)) := by
  have newAt : new.addr = ⟨u.own, i⟩ := by
    rw [isNew]
    exact (addr_of_entryAt held : e.addr = _)
  rw [clearMarker_of_live (s := linkAlive u) live isNew, ownAt_index held]
  have goneHere : u.rewriteGone e new = decide (u.table.clearHold = 0) := by
    rw [isNew]; exact rewriteGone_clearedAt live u
  have gone : ((linkAlive u).setChange i).rewriteGone e new = decide (u.table.clearHold = 0) := goneHere
  have frame := rewriteEntry_frame e new ((linkAlive u).setChange i)
  have standing := rewriteEntry_entryAt_same e new ((linkAlive u).setChange i)
  have own : (rewriteEntry e new ((linkAlive u).setChange i)).own = u.own :=
    congrArg (fun c : StationControl => c.straps.station.toNat) frame.control
  rw [gone, newAt] at standing
  refine ⟨?_, fun a apart => ?_, fun hold => ?_, fun noHold => ?_, ?_, ?_⟩
  · rw [frame.change]
    exact mem_setMark.mpr (.inl rfl)
  · exact rewriteEntry_entryAt_ne (by rw [newAt]; exact apart) e ((linkAlive u).setChange i)
  · have stays : decide (u.table.clearHold = 0) = false := decide_eq_false (Nat.ne_of_gt hold)
    rw [stays] at standing
    rw [State.ownAt, own]
    exact ⟨standing, (congrArg Publisher.copies (rewriteEntry_pub_kept (gone.trans stays)) :)⟩
  · have goes : decide (u.table.clearHold = 0) = true := decide_eq_true noHold
    have pub := rewriteEntry_pub_gone (gone.trans goes) (beq_iff_eq.mpr (congrArg Address.station newAt))
      (by rw [newAt]; exact low)
    rw [newAt] at pub
    rw [goes] at standing
    rw [State.ownAt, own, pub]
    refine ⟨standing, fun size => ⟨?_, fun k => (mem_clearMark.mp k).2 rfl⟩⟩
    have room : i - 64 < ((linkAlive u).setChange i).pub.copies.length := by
      change i - 64 < u.pub.copies.length
      omega
    rw [copyAt_setCopy_same low room, isNew]
    rfl
  · rw [← goneHere]
    exact toldOfWrite_rewriteEntry e new u
  · rw [← rewriteEntry_timerBlind]
    have alike : Following (linkAlive u) ((linkAlive u).setChange i) := ⟨rfl, rfl, rfl, rfl, rfl⟩
    exact alike.rewriteEntry rfl e new

/-- Settles O24: the marker is refused, stands CLEARED already, or is rewritten CLEARED with what that brings. -/
theorem unmarkClearsAMarker : Obligations.UnmarkClearsAMarker := by
  intro ch b att s u free settled hunting running quiet attached known
  refine ⟨_, exec_unmark free settled hunting running quiet (by rw [State.isAttached, attached]; rfl) known,
    fun bad => ?_, fun e low held => ⟨fun other => ?_, fun may => ?_⟩⟩
  · rw [unmarkRequest_badPoint (u := linkAlive u) attached bad]
    obtain ⟨frame, same, answered⟩ := answer_linkAlive quiet 7 .badPoint
    exact ⟨frame, answered, same⟩
  · have barred : ¬mayClear att e = true := by
      rw [mayClear_iff]
      rintro (command | ⟨notView, own⟩)
      · rcases other with view | ⟨k, _⟩
        · rw [command] at view; cases view
        · exact k command
      · rcases other with view | ⟨_, k⟩
        · exact notView view
        · exact k own
    rw [unmarkRequest_notOwn (u := linkAlive u) attached low held barred]
    obtain ⟨frame, same, answered⟩ := answer_linkAlive quiet 7 .notOwn
    exact ⟨frame, answered, same⟩
  · rw [unmarkRequest_ok (u := linkAlive u) attached low held ((mayClear_iff att e).mpr may)]
    refine ⟨by rw [answer, channel_answerWith]; exact hasAnswer_answer _ _, fun cleared => ?_,
      fun new live isNew => ?_⟩
    · rw [clearMarker_of_cleared cleared]
      exact ⟨rfl, rfl⟩
    · obtain ⟨change, elsewhere, stays, goes, told, hears⟩ := clearMarker_cleared low known held live isNew
      obtain ⟨others, answered⟩ := answered_told
        ((rewriteEntry_channel e new u ch).pendingAnswer.trans quiet) hears 7 .ok 0
      exact ⟨change, elsewhere, stays, goes, _, told, hears.bundles, hears.incident, others, answered⟩

end Sys2Proof.Machine
end

section
/-!
PROOFS. The own entries the scanner writes (R13, R14), and the requests it decides (R9 to R12, R162).
-/
namespace Sys2Proof.Machine

/-! ## The channels of the scanner -/

theorem chan_modChan_same {s : State} {i : Nat} (inside : i < s.scanner.channels.length)
    (f : ScanChannel → ScanChannel) : (s.modChan i f).scanner.chan i = f (s.scanner.chan i) :=
  (getD_updAt s.scanner.channels i i f _ inside).trans (if_pos rfl)

theorem chan_modChan_ne {i k : Nat} (apart : k ≠ i) (s : State) (f : ScanChannel → ScanChannel) :
    (s.modChan i f).scanner.chan k = s.scanner.chan k := getD_updAt_ne s.scanner.channels f _ apart

/-- The scanner but for what one channel holds. -/
structure ScanSame (i : Nat) (s t : State) : Prop where
  cfg : t.scanner.cfg = s.scanner.cfg
  divider : t.scanner.divider = s.scanner.divider
  length : t.scanner.channels.length = s.scanner.channels.length
  chan : ∀ k, k ≠ i → t.scanner.chan k = s.scanner.chan k

theorem ScanSame.refl (i : Nat) (s : State) : ScanSame i s s := ⟨rfl, rfl, rfl, fun _ _ => rfl⟩

theorem ScanSame.trans {i : Nat} {s t u : State} (h : ScanSame i s t) (k : ScanSame i t u) : ScanSame i s u :=
  ⟨k.cfg.trans h.cfg, k.divider.trans h.divider, k.length.trans h.length,
    fun n apart => (k.chan n apart).trans (h.chan n apart)⟩

theorem ScanSame.of_eq {s t : State} (same : t.scanner = s.scanner) (i : Nat) : ScanSame i s t := by
  refine ⟨?_, ?_, ?_, fun _ _ => ?_⟩ <;> rw [same]

theorem setChange_scanSame (i k : Nat) (s : State) : ScanSame i s (s.setChange k) := ⟨rfl, rfl, rfl, fun _ _ => rfl⟩

theorem modChan_scanSame (i : Nat) (s : State) (f : ScanChannel → ScanChannel) : ScanSame i s (s.modChan i f) :=
  ⟨rfl, rfl, length_updAt _ _ _, fun _ apart => chan_modChan_ne apart s f⟩

theorem publishLevel_scanSame (i : Nat) (r : Option Nat) (s : State) : ScanSame i s (publishLevel i r s) := by
  cases r
  · exact .refl i s
  · exact modChan_scanSame i s _

/-- The publication of a level moves the scanner alone. -/
theorem publishLevel_frame (i : Nat) (r : Option Nat) (s : State) :
    ∃ n, publishLevel i r s = s.withScanner n := by
  cases r
  · exact ⟨s.scanner, rfl⟩
  · exact ⟨_, rfl⟩

theorem publishLevel_following (i : Nat) (r : Option Nat) (s : State) : Following s (publishLevel i r s) := by
  obtain ⟨n, eq⟩ := publishLevel_frame i r s
  rw [eq]
  exact ⟨rfl, rfl, rfl, rfl, rfl⟩

/-! ## The writing of an own entry (R13) -/

/-- The state with the change mark set and the level published, as an own entry is written in it. -/
def State.ownMarked (s : State) (i : Nat) (r : Option Nat) : State := publishLevel i r (s.setChange i)

section
variable {i : Nat} {st : PointState} {r : Option Nat} {s : State}

theorem ownMarked_following (i : Nat) (r : Option Nat) (s : State) : Following s (s.ownMarked i r) := by
  obtain ⟨crew, bundles, incident, entries, tick⟩ := publishLevel_following i r (s.setChange i)
  exact ⟨crew, bundles, incident, entries, tick⟩

theorem ownMarked_blocks (i : Nat) (r : Option Nat) (s : State) : (s.ownMarked i r).table = s.table ∧
    (s.ownMarked i r).control = s.control ∧ (s.ownMarked i r).pub = (s.setChange i).pub := by
  obtain ⟨n, eq⟩ := publishLevel_frame i r (s.setChange i)
  rw [State.ownMarked, eq]
  exact ⟨rfl, rfl, rfl⟩

theorem writeOwn_held {old : Entry} (held : s.ownAt i = some old) :
    writeOwn i st r s = rewriteEntry old (ownEntryFor s i st r) (s.ownMarked i r) := by
  simp only [writeOwn, held]
  rfl

theorem writeOwn_absent_cleared (absent : s.ownAt i = none) : writeOwn i .cleared r s = s.setChange i := by
  simp [writeOwn, absent]

theorem writeOwn_absent_live (absent : s.ownAt i = none) (live : st ≠ .cleared) :
    writeOwn i st r s = placeEntry (ownEntryFor s i st r) (s.ownMarked i r) := by
  simp only [writeOwn, absent, if_neg live]
  rfl

theorem placeEntry_frame (e : Entry) (s : State) : RemovalFrame s (placeEntry e s) :=
  (putEntry_frame e s).trans (emit_told _ _).removalFrame

/-- What the writing of an own entry leaves, whatever it makes of the entry. -/
structure OwnWritten (i : Nat) (s t : State) : Prop where
  control : t.control = s.control
  change : t.pub.change = setMark i s.pub.change
  level : t.pub.level = s.pub.level
  elsewhere : ∀ a, a ≠ ⟨s.own, i⟩ → t.entryAt a = s.entryAt a
  channel : ∀ ch, ChannelTold (s.channel ch) (t.channel ch)
  scan : ScanSame i s t

theorem RemovalFrame.ownWritten {t : State} (frame : RemovalFrame (s.ownMarked i r) t)
    (elsewhere : ∀ a, a ≠ ⟨s.own, i⟩ → t.entryAt a = (s.ownMarked i r).entryAt a)
    (channel : ∀ ch, ChannelTold ((s.ownMarked i r).channel ch) (t.channel ch)) : OwnWritten i s t := by
  obtain ⟨table, control, pub⟩ := ownMarked_blocks i r s
  refine ⟨frame.control.trans control, ?_, ?_, fun a apart => ?_, fun ch => ?_, ?_⟩
  · rw [frame.change, pub]; rfl
  · rw [frame.level, pub]; rfl
  · rw [elsewhere a apart, entryAt_congr table]
  · rw [← (ownMarked_following i r s).channel ch]
    exact channel ch
  · exact (setChange_scanSame i i s).trans
      ((publishLevel_scanSame i r (s.setChange i)).trans (.of_eq frame.scanner i))

theorem writeOwn_written (i : Nat) (st : PointState) (r : Option Nat) (s : State) :
    OwnWritten i s (writeOwn i st r s) := by
  cases held : s.ownAt i with
  | some old =>
    rw [writeOwn_held held]
    exact (rewriteEntry_frame old _ _).ownWritten (fun a apart => rewriteEntry_entryAt_ne apart _ _)
      fun ch => rewriteEntry_channel _ _ _ ch
  | none =>
    by_cases cleared : st = .cleared
    · rw [cleared, writeOwn_absent_cleared held]
      exact ⟨rfl, rfl, rfl, fun _ _ => rfl, fun ch => .refl _, setChange_scanSame i i s⟩
    · rw [writeOwn_absent_live held cleared]
      have told := emit_told (plainChange .admission (ownEntryFor s i st r))
        ((s.ownMarked i r).putEntry (ownEntryFor s i st r))
      exact (placeEntry_frame _ _).ownWritten
        (fun a apart => placeEntry_entryAt_ne (e := ownEntryFor s i st r) apart (s.ownMarked i r)) told.channel

/-- A live own entry stands as it was written (R13). -/
theorem writeOwn_entryAt_live (live : st ≠ .cleared) :
    (writeOwn i st r s).entryAt ⟨s.own, i⟩ = some (ownEntryFor s i st r) := by
  cases held : s.ownAt i with
  | some old =>
    rw [writeOwn_held held]
    have stays : (s.ownMarked i r).rewriteGone old (ownEntryFor s i st r) = false :=
      decide_eq_false fun ⟨_, cleared, _⟩ => live cleared
    have standing := rewriteEntry_entryAt_same old (ownEntryFor s i st r) (s.ownMarked i r)
    rwa [stays] at standing
  | none =>
    rw [writeOwn_absent_live held live]
    exact placeEntry_entryAt_same (ownEntryFor s i st r) (s.ownMarked i r)

/-- An own entry is CLEARED now, and goes at once where ClearHold is 0 (R13, R27). -/
theorem writeOwn_entryAt_cleared {old : Entry} (held : s.ownAt i = some old) :
    (writeOwn i .cleared r s).entryAt ⟨s.own, i⟩ =
      if old.state ≠ .cleared ∧ s.table.clearHold = 0 then none else some (ownEntryFor s i .cleared r) := by
  rw [writeOwn_held held]
  have standing := rewriteEntry_entryAt_same old (ownEntryFor s i .cleared r) (s.ownMarked i r)
  have gone : (s.ownMarked i r).rewriteGone old (ownEntryFor s i .cleared r) = true ↔
      old.state ≠ .cleared ∧ s.table.clearHold = 0 := by
    obtain ⟨table, control, _⟩ := ownMarked_blocks i r s
    have zero : s.now - (ownEntryFor s i .cleared r).localSince = 0 := Nat.sub_self _
    have cleared : (ownEntryFor s i .cleared r).state = .cleared := rfl
    rw [State.rewriteGone, decide_eq_true_iff, State.now, table, control]
    change _ ∧ _ ∧ _ ≤ s.now - _ ↔ _
    rw [zero, cleared]
    simp
  rw [if_congr gone rfl rfl] at standing
  exact standing

/-- The level is published wherever the entry is written (R13). -/
theorem writeOwn_scanner (written : s.ownAt i ≠ none ∨ st ≠ .cleared) :
    (writeOwn i st r s).scanner = (s.ownMarked i r).scanner := by
  cases held : s.ownAt i with
  | some old =>
    rw [writeOwn_held held]
    exact (rewriteEntry_frame _ _ _).scanner
  | none =>
    rw [writeOwn_absent_live held (written.resolve_left fun k => k held)]
    exact (placeEntry_frame _ _).scanner

/-- Without a level to publish the scanner stands. -/
theorem writeOwn_scanner_none : (writeOwn i st none s).scanner = s.scanner := by
  by_cases written : s.ownAt i ≠ none ∨ st ≠ .cleared
  · rw [writeOwn_scanner written]
    rfl
  · obtain ⟨absent, cleared⟩ := not_or.mp written
    rw [not_not.mp cleared, writeOwn_absent_cleared (not_not.mp absent)]
    rfl

end

/-! ## The supply condition (R14, R178) -/

theorem hasCondition_setCondition_other {c k : Condition} (other : k ≠ c) (s : State) :
    (s.setCondition c).hasCondition k = s.hasCondition k := by
  have conditions := congrArg StationControl.conditions (setCondition_told s c).control
  unfold State.hasCondition at *
  rw [conditions]
  change (if s.hasCondition c then s.control.conditions else setBit s.control.conditions c.bit).getLsbD _ = _
  split
  · rfl
  · have apart : ¬c.bit = k.bit := fun same => other (Condition.bit_inj.mp same).symm
    simp [setBit, BitVec.getLsbD_twoPow, apart]

/-- A condition newly set is told on every attached channel (R178). -/
theorem setCondition_raises {c : Condition} {s : State} (clear : s.hasCondition c = false) {ch : Fin 4}
    (attached : s.isAttached ch = true) :
    NoticeSet.has ((s.setCondition c).channel ch).notices .stationFault = true := by
  rw [State.setCondition, clear, if_neg Bool.false_ne_true, has_raiseAll]
  exact Bool.or_eq_true_iff.mpr (.inr (Bool.and_eq_true_iff.mpr ⟨attached, decide_eq_true rfl⟩))

/-- What the note of the supply leaves. -/
structure SupplyNoted (s t : State) : Prop where
  scanner : t.scanner = s.scanner
  table : t.table = s.table
  pub : t.pub = s.pub
  control : t.control = { s.control with conditions := t.control.conditions }
  channel : ∀ ch, ChannelTold (s.channel ch) (t.channel ch)

theorem setCondition_noted (c : Condition) (s : State) : SupplyNoted s (s.setCondition c) := by
  have told := setCondition_told s c
  refine ⟨told.scanner, told.table, told.pub, ?_, told.channel⟩
  rw [told.control]
  rfl

theorem noteSupply_noted (i : Nat) (old new : ScanState) (s : State) : SupplyNoted s (noteSupply i old new s) := by
  unfold noteSupply
  split
  · split
    · exact setCondition_noted _ _
    · split
      · exact ⟨rfl, rfl, rfl, rfl, fun ch => .refl _⟩
      · exact ⟨rfl, rfl, rfl, rfl, fun ch => .refl _⟩
  · exact ⟨rfl, rfl, rfl, rfl, fun ch => .refl _⟩

/-- STATION_FAULT is raised where SUPPLY is newly set, and the picture's followers hear nothing else (R178). -/
theorem noteSupply_followers (i : Nat) (old new : ScanState) (s : State) :
    FollowersSame (if i = 0 ∧ new = .fault ∧ s.hasCondition .supply = false then s.raiseAll .stationFault else s)
      (noteSupply i old new s) := by
  by_cases supply : i = 0
  · by_cases fault : new = .fault
    · rw [noteSupply, if_pos supply, if_pos fault, State.setCondition]
      by_cases held : s.hasCondition .supply = true
      · rw [if_pos held, if_neg fun k => Bool.noConfusion (held.symm.trans k.2.2)]
        exact ⟨rfl, rfl, rfl⟩
      · rw [if_neg held, if_pos ⟨supply, fault, Bool.eq_false_of_not_eq_true held⟩]
        exact ⟨rfl, rfl, rfl⟩
    · rw [noteSupply, if_pos supply, if_neg fault, if_neg fun k => fault k.2.1]
      split
      · exact ⟨rfl, rfl, rfl⟩
      · exact ⟨rfl, rfl, rfl⟩
  · rw [noteSupply, if_neg supply, if_neg fun k => supply k.1]
    exact ⟨rfl, rfl, rfl⟩

theorem noteSupply_hasCondition_other {i : Nat} {c : Condition} (other : c ≠ .supply ∨ i ≠ 0) (old new : ScanState)
    (s : State) : (noteSupply i old new s).hasCondition c = s.hasCondition c := by
  unfold noteSupply
  split
  case isTrue supply =>
    have apart := other.resolve_right fun k => k supply
    split
    · exact hasCondition_setCondition_other apart s
    · split
      · rw [hasCondition_clearCondition, decide_eq_false apart, Bool.not_false, Bool.and_true]
      · rfl
  · rfl

theorem noteSupply_fault (old : ScanState) (s : State) : noteSupply 0 old .fault s = s.setCondition .supply := rfl

theorem noteSupply_other {new : ScanState} (other : new ≠ .fault) (old : ScanState) (s : State) :
    (noteSupply 0 old new s).hasCondition .supply = (s.hasCondition .supply && decide (old ≠ .fault)) := by
  rw [noteSupply, if_pos rfl, if_neg other]
  split
  case isTrue was => simp [hasCondition_clearCondition, was]
  case isFalse was => simp [was]

/-! ## A change of a channel's scanner state (R7, R13, R14) -/

/-- The state whose own entry a change writes: the channel's scanner state is the new one. -/
def State.changing (s : State) (i : Nat) (new : ScanState) : State := s.modChan i (fun c => { c with state := new })

theorem changeScanState_eq (i : Nat) (new : ScanState) (r : Option Nat) (s : State) : changeScanState i new r s =
    noteSupply i (s.scanner.chan i).state new (writeOwn i new.entryState r (s.changing i new)) := rfl

theorem entryState_eq_cleared (new : ScanState) : new.entryState = .cleared ↔ new = .normal := by
  cases new <;> simp [ScanState.entryState]

section
variable {i : Nat} {new : ScanState} {r : Option Nat} {s : State}

theorem changeScanState_scanner (i : Nat) (new : ScanState) (r : Option Nat) (s : State) :
    (changeScanState i new r s).scanner = (writeOwn i new.entryState r (s.changing i new)).scanner :=
  (noteSupply_noted _ _ _ _).scanner

theorem changeScanState_entryAt (a : Address) : (changeScanState i new r s).entryAt a =
    (writeOwn i new.entryState r (s.changing i new)).entryAt a :=
  entryAt_congr (noteSupply_noted _ _ _ _).table a

theorem changeScanState_control (i : Nat) (new : ScanState) (r : Option Nat) (s : State) :
    (changeScanState i new r s).control =
      { s.control with conditions := (changeScanState i new r s).control.conditions } := by
  have noted := (noteSupply_noted i (s.scanner.chan i).state new (writeOwn i new.entryState r (s.changing i new))).control
  rw [(writeOwn_written i new.entryState r (s.changing i new)).control] at noted
  exact noted

theorem changeScanState_own (i : Nat) (new : ScanState) (r : Option Nat) (s : State) :
    (changeScanState i new r s).own = s.own := by
  rw [State.own, changeScanState_control]
  rfl

/-- The channel of a change made by a request: its state, and nothing else of it (R11, R12). -/
theorem changeScanState_chan_none (inside : i < s.scanner.channels.length) :
    (changeScanState i new none s).scanner.chan i = { s.scanner.chan i with state := new } := by
  rw [changeScanState_scanner, writeOwn_scanner_none]
  exact chan_modChan_same inside _

/-- The channel of a change made by a scan, where it writes the own entry: the level is the last published one. -/
theorem changeScanState_chan_some (inside : i < s.scanner.channels.length) {v : Nat}
    (written : s.ownAt i ≠ none ∨ new ≠ .normal) : (changeScanState i new (some v) s).scanner.chan i =
      { s.scanner.chan i with state := new, lastLevel := v } := by
  have inside' : i < ((s.changing i new).setChange i).scanner.channels.length := by
    change i < (updAt _ _ _).length
    rwa [length_updAt]
  rw [changeScanState_scanner, writeOwn_scanner (s := s.changing i new) (written.imp_right (mt (entryState_eq_cleared new).mp))]
  change (((s.changing i new).setChange i).modChan i (fun c => { c with lastLevel := v })).scanner.chan i = _
  rw [chan_modChan_same inside']
  change { (s.changing i new).scanner.chan i with lastLevel := v } = _
  rw [State.changing, chan_modChan_same inside]

/-- A point without an entry that becomes NORMAL gets none, and publishes nothing (R13). -/
theorem changeScanState_absent (inside : i < s.scanner.channels.length) (absent : s.ownAt i = none) :
    (changeScanState i .normal r s).scanner.chan i = { s.scanner.chan i with state := .normal } := by
  rw [changeScanState_scanner]
  have eq : writeOwn i .cleared r (s.changing i .normal) = (s.changing i .normal).setChange i :=
    writeOwn_absent_cleared absent
  change (writeOwn i .cleared r (s.changing i .normal)).scanner.chan i = _
  rw [eq]
  exact chan_modChan_same inside _

end

/-- The followers told as a write of `new` over `old` in `s` tells them, when they stand so in another state too. -/
theorem ToldOfWrite.followers {old new : Entry} {gone : Bool} {s t u : State} (h : ToldOfWrite old new gone s t)
    (same : FollowersSame t u) : ToldOfWrite old new gone s u := by
  obtain ⟨pc, produces, told⟩ := h
  refine ⟨pc, produces, fun v hv => ?_⟩
  obtain ⟨crew, bundles, incident⟩ := told v hv
  obtain ⟨crew', bundles', incident'⟩ := same
  exact ⟨crew'.trans crew, bundles'.trans bundles, incident'.trans incident⟩

theorem changing_following (i : Nat) (new : ScanState) (r : Option Nat) (s : State) :
    Following s ((s.changing i new).ownMarked i r) := by
  obtain ⟨crew, bundles, incident, entries, tick⟩ := ownMarked_following i r (s.changing i new)
  exact ⟨crew, bundles, incident, entries, tick⟩

/-- What the followers hear of a change of a loop point (R13, R22, R27). -/
theorem writeOwn_told {i : Nat} {new : ScanState} {r : Option Nat} {s : State} {e : Entry}
    (entry : e = ownEntryFor (s.changing i new) i new.entryState r) :
    (s.ownAt i = none → new = .normal → FollowersSame s (writeOwn i new.entryState r (s.changing i new))) ∧
    (s.ownAt i = none → new ≠ .normal → FollowersSame (emit ⟨.admission, e, none, none⟩ (s.putEntry e))
      (writeOwn i new.entryState r (s.changing i new))) ∧
    (∀ old, s.ownAt i = some old → ToldOfWrite old e
      (decide (old.state ≠ .cleared ∧ new = .normal ∧ s.table.clearHold = 0)) s
      (writeOwn i new.entryState r (s.changing i new))) := by
  refine ⟨fun absent normal => ?_, fun absent live => ?_, fun old held => ?_⟩
  · subst normal
    have eq : writeOwn i ScanState.normal.entryState r (s.changing i .normal) = (s.changing i .normal).setChange i :=
      writeOwn_absent_cleared absent
    rw [eq]
    exact ⟨rfl, rfl, rfl⟩
  · rw [writeOwn_absent_live (s := s.changing i new) absent (mt (entryState_eq_cleared new).mp live), entry]
    exact (((changing_following i new r s).putEntry _).emit _).same
  · have gone : s.rewriteGone old e = decide (old.state ≠ .cleared ∧ new = .normal ∧ s.table.clearHold = 0) := by
      have zero : s.now - e.localSince = 0 := by rw [entry]; exact Nat.sub_self _
      have state : e.state = new.entryState := by rw [entry]; rfl
      unfold State.rewriteGone
      rw [zero, state]
      simp only [entryState_eq_cleared, Nat.le_zero]
    have told := toldOfWrite_rewriteEntry old e s
    rw [gone] at told
    rw [writeOwn_held (s := s.changing i new) held, ← entry]
    refine told.followers ((changing_following i new r s).rewriteEntry ?_ _ _).same
    exact (congrArg PictureTable.clearHold (ownMarked_blocks i r (s.changing i new)).1 :)

/-- Settles O17: the change is the writing of the own entry, then the note of the supply. -/
theorem scanChangeWritesTheOwnEntry : Obligations.ScanChangeWritesTheOwnEntry := by
  intro i v new e s t _ inside ht he
  have isEntry : e = ownEntryFor (s.changing i new) i new.entryState (some v) := he
  have written := writeOwn_written i new.entryState (some v) (s.changing i new)
  have noted := noteSupply_noted i (s.scanner.chan i).state new (writeOwn i new.entryState (some v) (s.changing i new))
  rw [← changeScanState_eq, ← ht] at noted
  have ownAt : t.ownAt i = (writeOwn i new.entryState (some v) (s.changing i new)).entryAt ⟨s.own, i⟩ := by
    rw [State.ownAt, ht, changeScanState_own, changeScanState_entryAt]
  have condition (c : Condition) :
      (writeOwn i new.entryState (some v) (s.changing i new)).hasCondition c = s.hasCondition c := by
    rw [State.hasCondition, written.control]
    rfl
  obtain ⟨untold, admitted, rewritten⟩ := writeOwn_told isEntry
  refine ⟨?_, fun live => ⟨?_, ?_⟩, fun normal absent => ⟨?_, ?_⟩, fun normal held hold => ⟨?_, ?_⟩,
    fun old normal held live noHold => ?_, fun a apart => ?_, ⟨_, ?_, untold, admitted, rewritten⟩, ?_,
    fun c other => ?_, fun supply fault => ⟨?_, fun clear ch attached => ?_⟩, fun supply other => ?_⟩
  · rw [noted.pub, written.change]
    exact mem_setMark.mpr (.inl rfl)
  · rw [ownAt, isEntry]
    exact writeOwn_entryAt_live (mt (entryState_eq_cleared new).mp live)
  · rw [ht, changeScanState_chan_some inside (.inr live)]
  · subst normal
    have eq : writeOwn i ScanState.normal.entryState (some v) (s.changing i .normal) =
      (s.changing i .normal).setChange i := writeOwn_absent_cleared absent
    rw [ownAt, eq]
    exact absent
  · subst normal
    rw [ht]
    exact changeScanState_absent inside absent
  · obtain ⟨old, old_at⟩ := Option.ne_none_iff_exists'.mp held
    subst normal
    have standing := writeOwn_entryAt_cleared (i := i) (r := some v) (s := s.changing i .normal) old_at
    rw [if_neg fun k => Nat.ne_of_gt hold k.2] at standing
    rw [ownAt, isEntry]
    exact standing
  · rw [ht, changeScanState_chan_some inside (.inl held)]
  · subst normal
    have standing := writeOwn_entryAt_cleared (i := i) (r := some v) (s := s.changing i .normal) held
    rw [if_pos ⟨live, noHold⟩] at standing
    rw [ownAt]
    exact standing
  · rw [entryAt_congr noted.table, written.elsewhere a apart]
    rfl
  · have hears := noteSupply_followers i (s.scanner.chan i).state new
      (writeOwn i new.entryState (some v) (s.changing i new))
    rw [condition, ← changeScanState_eq, ← ht] at hears
    exact hears
  · rw [ht]
    exact changeScanState_control i new (some v) s
  · rw [ht, changeScanState_eq, noteSupply_hasCondition_other other, condition]
  · subst supply fault
    rw [ht, changeScanState_eq, noteSupply_fault]
    exact hasCondition_setCondition _ _
  · subst supply fault
    rw [ht, changeScanState_eq, noteSupply_fault]
    refine setCondition_raises ((condition _).trans clear) ?_
    rw [State.isAttached, (written.channel ch).attached]
    exact attached
  · subst supply
    rw [ht, changeScanState_eq, noteSupply_other other, condition]

end Sys2Proof.Machine
end

section
/-!
PROOFS. ISOLATE, DEISOLATE and RESTORE (R9 to R12, R162).
-/
namespace Sys2Proof.Machine

/-- The request is answered OK for a loop point only (R9). -/
theorem lt_of_scanAnswer_ok {q : ScanRequest} {i : Nat} {s : State} (ok : scanAnswer q i s = .ok) : i < 64 := by
  by_contra high
  rw [scanAnswer, if_pos (.inl (Nat.not_lt.mp high))] at ok
  cases ok

section
variable {s u : State} {ch : Fin 4} {i : Nat}

/-! ## The taking of the three (R162) -/

theorem isCommand_iff {att : Attachment} (attached : (u.channel ch).attached = some att) :
    u.isCommand ch = true ↔ att.role = .command := by
  simp [State.isCommand, attached]

theorem scannerRequest_notPermitted {q : ScanRequest} {effect : Nat → State → State} {type : Nat}
    {att : Attachment} (attached : (u.channel ch).attached = some att) (other : att.role ≠ .command) :
    scannerRequest type q effect ch i u = answer type .notPermitted ch u :=
  if_pos (Bool.eq_false_of_not_eq_true (mt (isCommand_iff attached).mp other))

theorem scannerRequest_ok {q : ScanRequest} {effect : Nat → State → State} {type : Nat} {att : Attachment}
    (attached : (u.channel ch).attached = some att) (command : att.role = .command) (ok : scanAnswer q i u = .ok) :
    scannerRequest type q effect ch i u = answer type (scanAnswer q i u) ch (effect i u) := by
  simp [scannerRequest, (isCommand_iff attached).mpr command, ok]

theorem scannerRequest_refused {q : ScanRequest} {effect : Nat → State → State} {type : Nat} {att : Attachment}
    (attached : (u.channel ch).attached = some att) (command : att.role = .command) (no : scanAnswer q i u ≠ .ok) :
    scannerRequest type q effect ch i u = answer type (scanAnswer q i u) ch u := by
  rw [scannerRequest, (isCommand_iff attached).mpr command, if_neg (by decide)]
  cases answered : scanAnswer q i u with
  | ok => exact absurd answered no
  | _ => rfl

/-- Whatever the scanner answers, the answer is on the channel (R162). -/
theorem scannerRequest_hasAnswer {q : ScanRequest} {effect : Nat → State → State} {type : Nat} {att : Attachment}
    (attached : (u.channel ch).attached = some att) (command : att.role = .command) :
    HasAnswer ((scannerRequest type q effect ch i u).channel ch) (.answer type (scanAnswer q i u) 0) := by
  by_cases ok : scanAnswer q i u = .ok
  · rw [scannerRequest_ok attached command ok, answer, channel_answerWith]
    exact hasAnswer_answer _ _
  · rw [scannerRequest_refused attached command ok, answer, channel_answerWith]
    exact hasAnswer_answer _ _

/-- A request of the three that finds the receiver holding nothing reaches the scanner (R162). -/
theorem exec_pointRequest (free : s.control.resetHeld = false) (settled : u = settle s)
    (hunting : u.crew.receiver = []) (running : u.control.running = true)
    (quiet : (u.channel ch).pendingAnswer = none) {att : Attachment} (attached : (u.channel ch).attached = some att)
    (b : Byte) :
    exec (.isolate ch [b]) s = .next (scannerRequest 8 .isolate isolatePoint ch b.toNat (linkAlive u)) ∧
    exec (.deisolate ch [b]) s = .next (scannerRequest 9 .deisolate deisolatePoint ch b.toNat (linkAlive u)) ∧
    exec (.restore ch [b]) s = .next (scannerRequest 10 .restore restorePoint ch b.toNat (linkAlive u)) := by
  have taken : u.isAttached ch = true := by rw [State.isAttached, attached]; rfl
  have carried (type : Nat) (q : ScanRequest) (effect : Nat → State → State) :=
    takeRequest_carried (type := type) (attaching := false) (carry := scannerRequest type q effect ch)
      (u := linkAlive u) (parsed := pointFields [b]) quiet running rfl (.inl taken)
  have reaches {n : Nat} (low : 1 ≤ n) (high : n ≤ 255) :=
    external_request free settled hunting ch low high (f := [b]) (by simp)
  exact ⟨congrArg Host.Outcome.next ((reaches (n := 8) (by decide) (by decide)).trans (carried 8 .isolate isolatePoint)),
    congrArg Host.Outcome.next ((reaches (n := 9) (by decide) (by decide)).trans (carried 9 .deisolate deisolatePoint)),
    congrArg Host.Outcome.next ((reaches (n := 10) (by decide) (by decide)).trans (carried 10 .restore restorePoint))⟩

/-! ## Their effects (R10 to R12) -/

/-- The channel as ISOLATE and DEISOLATE clear it before they change its state (R11, R12). -/
def ScanChannel.forgotten (c : ScanChannel) : ScanChannel := { c with candidate := none, counter := 0, armed := false }

theorem isolatePoint_of_isolated (already : (s.scanner.chan i).state = .isolated) : isolatePoint i s = s :=
  if_pos already

theorem isolatePoint_of_other (other : (s.scanner.chan i).state ≠ .isolated) :
    isolatePoint i s = changeScanState i .isolated none (s.modChan i .forgotten) := if_neg other

theorem deisolatePoint_of_isolated (isolated : (s.scanner.chan i).state = .isolated) :
    deisolatePoint i s = changeScanState i .normal none (s.modChan i .forgotten) := if_pos isolated

theorem deisolatePoint_of_other (other : (s.scanner.chan i).state ≠ .isolated) : deisolatePoint i s = s :=
  if_neg other

theorem restorePoint_of_alarm (alarm : (s.scanner.chan i).state = .alarm) : restorePoint i s =
    s.modChan i (fun c => { c with armed := true, candidate := none, counter := 0 }) := if_pos alarm

theorem restorePoint_of_other (other : (s.scanner.chan i).state ≠ .alarm) : restorePoint i s = s := if_neg other

/-- RESTORE moves nothing of the picture (R10). -/
theorem restoreRequest_blocks {type : Nat} {att : Attachment} (attached : (u.channel ch).attached = some att)
    (command : att.role = .command) :
    (scannerRequest type .restore restorePoint ch i u).table = u.table ∧
      (scannerRequest type .restore restorePoint ch i u).pub = u.pub := by
  by_cases ok : scanAnswer .restore i u = .ok
  · rw [scannerRequest_ok attached command ok]
    by_cases alarm : (u.scanner.chan i).state = .alarm
    · rw [restorePoint_of_alarm alarm]
      exact ⟨rfl, rfl⟩
    · rw [restorePoint_of_other alarm]
      exact ⟨rfl, rfl⟩
  · rw [scannerRequest_refused attached command ok]
    exact ⟨rfl, rfl⟩

theorem changeScanState_forgotten (inside : i < s.scanner.channels.length) (new : ScanState) :
    (changeScanState i new none (s.modChan i .forgotten)).scanner.chan i =
      { s.scanner.chan i with state := new, candidate := none, counter := 0, armed := false } := by
  have inside' : i < (s.modChan i ScanChannel.forgotten).scanner.channels.length := by
    change i < (updAt _ _ _).length
    rwa [length_updAt]
  rw [changeScanState_chan_none inside', chan_modChan_same inside]
  rfl

/-- A change made by a request to a live state shows in the own entry (R11, R13). -/
theorem changeScanState_shows {new : ScanState} (live : new ≠ .normal) :
    ((changeScanState i new none s).ownAt i).map Entry.state = some new.entryState := by
  rw [State.ownAt, changeScanState_own, changeScanState_entryAt]
  have standing := writeOwn_entryAt_live (i := i) (r := none) (s := s.changing i new)
    (mt (entryState_eq_cleared new).mp live)
  have own : (s.changing i new).own = s.own := rfl
  rw [own] at standing
  rw [standing]
  rfl

end

/-- Settles O19: each request is refused for the role, or answered as the scanner says with its effect where the
answer is OK. -/
theorem pointRequestsOnACommandChannel : Obligations.PointRequestsOnACommandChannel := by
  intro ch b att s u free settled hunting running quiet attached size
  obtain ⟨isolate, deisolate, restore⟩ := exec_pointRequest free settled hunting running quiet attached b
  refine ⟨fun command => ⟨⟨_, isolate, scannerRequest_hasAnswer (u := linkAlive u) attached command,
      fun ok other => ?_, fun stands => ?_⟩,
    ⟨_, deisolate, scannerRequest_hasAnswer (u := linkAlive u) attached command, fun ok isolated => ?_,
      fun stands => ?_⟩,
    ⟨_, restore, scannerRequest_hasAnswer (u := linkAlive u) attached command, ?_, ?_, fun ok alarm => ?_,
      fun stands => ?_⟩⟩, fun other c mem => ?_⟩
  · have inside : b.toNat < (linkAlive u).scanner.channels.length := by
      change b.toNat < u.scanner.channels.length
      rw [size]
      exact lt_of_scanAnswer_ok ok
    rw [scannerRequest_ok (u := linkAlive u) attached command ok, isolatePoint_of_other (s := linkAlive u) other]
    exact ⟨changeScanState_forgotten inside .isolated, changeScanState_shows (by decide)⟩
  · by_cases ok : scanAnswer .isolate b.toNat u = .ok
    · rw [scannerRequest_ok (u := linkAlive u) attached command ok,
        isolatePoint_of_isolated (s := linkAlive u) (stands.resolve_left fun k => k ok)]
      exact ⟨rfl, rfl⟩
    · rw [scannerRequest_refused (u := linkAlive u) attached command ok]
      exact ⟨rfl, rfl⟩
  · have inside : b.toNat < (linkAlive u).scanner.channels.length := by
      change b.toNat < u.scanner.channels.length
      rw [size]
      exact lt_of_scanAnswer_ok ok
    rw [scannerRequest_ok (u := linkAlive u) attached command ok,
      deisolatePoint_of_isolated (s := linkAlive u) isolated]
    exact changeScanState_forgotten inside .normal
  · by_cases ok : scanAnswer .deisolate b.toNat u = .ok
    · rw [scannerRequest_ok (u := linkAlive u) attached command ok,
        deisolatePoint_of_other (s := linkAlive u) (stands.resolve_left fun k => k ok)]
      exact ⟨rfl, rfl⟩
    · rw [scannerRequest_refused (u := linkAlive u) attached command ok]
      exact ⟨rfl, rfl⟩
  · exact (restoreRequest_blocks (u := linkAlive u) attached command).1
  · exact (restoreRequest_blocks (u := linkAlive u) attached command).2
  · have inside : b.toNat < (linkAlive u).scanner.channels.length := by
      change b.toNat < u.scanner.channels.length
      rw [size]
      exact lt_of_scanAnswer_ok ok
    rw [scannerRequest_ok (u := linkAlive u) attached command ok, restorePoint_of_alarm (s := linkAlive u) alarm]
    exact chan_modChan_same inside _
  · by_cases ok : scanAnswer .restore b.toNat u = .ok
    · rw [scannerRequest_ok (u := linkAlive u) attached command ok,
        restorePoint_of_other (s := linkAlive u) (stands.resolve_left fun k => k ok)]
      rfl
    · rw [scannerRequest_refused (u := linkAlive u) attached command ok]
      rfl
  · have refused {type : Nat} {q : ScanRequest} {effect : Nat → State → State}
        (told : exec c.1 s = .next (scannerRequest type q effect ch b.toNat (linkAlive u))) :
        ∃ t, exec c.1 s = .next t ∧ RequestFrame ch u t ∧
          Answered (u.channel ch) (t.channel ch) (.answer type .notPermitted 0) ∧
          BesidesAnswerSame (u.channel ch) (t.channel ch) := by
      rw [scannerRequest_notPermitted (u := linkAlive u) attached other] at told
      obtain ⟨frame, same, answered⟩ := answer_linkAlive quiet type .notPermitted
      exact ⟨_, told, frame, answered, same⟩
    simp only [List.mem_cons, List.not_mem_nil, or_false] at mem
    rcases mem with rfl | rfl | rfl
    · exact refused isolate
    · exact refused deisolate
    · exact refused restore

end Sys2Proof.Machine
end

section
/-!
PROOFS. The tick (R172): what the scan leaves of the timers, and what the timers show after it.
-/
namespace Sys2Proof.Machine

/-! ## What the scan leaves (R5) -/

theorem Told.linkTimer {s t : State} (h : Told s t) : t.crew.linkTimer = s.crew.linkTimer := by
  obtain ⟨l, crew⟩ := h.crew
  rw [crew]

/-- What a scan leaves of the part: every timer, the line, the origin records and the control but its conditions. -/
structure ScanFrame (s t : State) : Prop where
  control : t.control = { s.control with conditions := t.control.conditions }
  riser : t.riser = s.riser
  due : t.due = s.due
  origins : t.table.origins = s.table.origins
  linkTimer : t.crew.linkTimer = s.crew.linkTimer
  summaryCounter : t.pub.summaryCounter = s.pub.summaryCounter

theorem ScanFrame.refl (s : State) : ScanFrame s s := ⟨rfl, rfl, rfl, rfl, rfl, rfl⟩

theorem ScanFrame.trans {s t u : State} (h : ScanFrame s t) (k : ScanFrame t u) : ScanFrame s u := by
  refine ⟨?_, k.riser.trans h.riser, k.due.trans h.due, k.origins.trans h.origins, k.linkTimer.trans h.linkTimer,
    k.summaryCounter.trans h.summaryCounter⟩
  rw [k.control, h.control]

theorem Told.scanFrame {s t : State} (h : Told s t) : ScanFrame s t :=
  ⟨by rw [h.control], h.riser, h.due, congrArg PictureTable.origins h.table, h.linkTimer,
    congrArg Publisher.summaryCounter h.pub⟩

theorem withScanner_scanFrame (s : State) (n : Scanner) : ScanFrame s (s.withScanner n) :=
  ⟨rfl, rfl, rfl, rfl, rfl, rfl⟩

theorem modChan_scanFrame (i : Nat) (s : State) (f : ScanChannel → ScanChannel) : ScanFrame s (s.modChan i f) :=
  ⟨rfl, rfl, rfl, rfl, rfl, rfl⟩

theorem putEntry_scanFrame (e : Entry) (s : State) : ScanFrame s (s.putEntry e) := ⟨rfl, rfl, rfl, rfl, rfl, rfl⟩

theorem removeByHold_scanFrame (e : Entry) (s : State) : ScanFrame s (removeByHold e s) := by
  have copied : ScanFrame s (handCopy e (s.dropEntry e.addr)) := by
    unfold handCopy
    split
    · exact ⟨rfl, rfl, rfl, rfl, rfl, rfl⟩
    · exact ⟨rfl, rfl, rfl, rfl, rfl, rfl⟩
  exact copied.trans (emit_told _ _).scanFrame

theorem rewriteEntry_scanFrame (old new : Entry) (s : State) : ScanFrame s (rewriteEntry old new s) := by
  have told := (putEntry_scanFrame new s).trans (toldWrite_told old new s).scanFrame
  rw [rewriteEntry_eq]
  split
  · exact told.trans (removeByHold_scanFrame new _)
  · exact told

theorem ownMarked_scanFrame (i : Nat) (r : Option Nat) (s : State) : ScanFrame s (s.ownMarked i r) := by
  obtain ⟨n, eq⟩ := publishLevel_frame i r (s.setChange i)
  rw [State.ownMarked, eq]
  exact ⟨rfl, rfl, rfl, rfl, rfl, rfl⟩

theorem writeOwn_scanFrame (i : Nat) (st : PointState) (r : Option Nat) (s : State) :
    ScanFrame s (writeOwn i st r s) := by
  cases held : s.ownAt i with
  | some old =>
    rw [writeOwn_held held]
    exact (ownMarked_scanFrame i r s).trans (rewriteEntry_scanFrame _ _ _)
  | none =>
    by_cases cleared : st = .cleared
    · rw [cleared, writeOwn_absent_cleared held]
      exact ⟨rfl, rfl, rfl, rfl, rfl, rfl⟩
    · rw [writeOwn_absent_live held cleared]
      exact (ownMarked_scanFrame i r s).trans ((putEntry_scanFrame _ _).trans (emit_told _ _).scanFrame)

theorem noteSupply_scanFrame (i : Nat) (old new : ScanState) (s : State) : ScanFrame s (noteSupply i old new s) := by
  unfold noteSupply
  split
  · split
    · have told := (setCondition_told s .supply).scanFrame
      obtain ⟨control, riser, due, origins, linkTimer, counter⟩ := told
      exact ⟨control, riser, due, origins, linkTimer, counter⟩
    · split
      · exact ⟨rfl, rfl, rfl, rfl, rfl, rfl⟩
      · exact .refl s
  · exact .refl s

theorem changeScanState_scanFrame (i : Nat) (new : ScanState) (r : Option Nat) (s : State) :
    ScanFrame s (changeScanState i new r s) :=
  (modChan_scanFrame i s _).trans ((writeOwn_scanFrame i _ r _).trans (noteSupply_scanFrame i _ _ _))

theorem scanChannel_scanFrame (r : Readings) (s : State) (i : Nat) : ScanFrame s (scanChannel r s i) := by
  unfold scanChannel
  dsimp only
  split
  · exact .refl s
  · split
    · exact (modChan_scanFrame i s _).trans (changeScanState_scanFrame _ _ _ _)
    · exact modChan_scanFrame i s _

theorem writeLevel_scanFrame (i v : Nat) (s : State) : ScanFrame s (writeLevel i v s) := by
  unfold writeLevel
  split
  · exact (putEntry_scanFrame _ s).trans (emit_told _ _).scanFrame
  · exact .refl s

theorem checkLevel_scanFrame (r : Readings) (s : State) (i : Nat) : ScanFrame s (checkLevel r s i) := by
  unfold checkLevel
  dsimp only
  split
  · refine (writeLevel_scanFrame i (s.reading r i) s).trans ?_
    exact ⟨rfl, rfl, rfl, rfl, rfl, rfl⟩
  · exact .refl s

theorem scanChannels_scanFrame (r : Readings) (l : List Nat) (s : State) :
    ScanFrame s (l.foldl (scanChannel r) s) :=
  foldl_keeps (P := ScanFrame s) (fun t i k => k.trans (scanChannel_scanFrame r t i)) l s (.refl s)

theorem checkLevels_scanFrame (r : Readings) (l : List Nat) (s : State) :
    ScanFrame s (l.foldl (checkLevel r) s) :=
  foldl_keeps (P := ScanFrame s) (fun t i k => k.trans (checkLevel_scanFrame r t i)) l s (.refl s)

theorem scan_scanFrame (r : Readings) (s : State) : ScanFrame s (scan r s) := by
  have scanned := scanChannels_scanFrame r (List.range 64) s
  unfold scan levelCheck
  split
  · exact scanned.trans (withScanner_scanFrame _ _)
  · have checked := checkLevels_scanFrame r (List.range 64) ((List.range 64).foldl (scanChannel r) s)
    exact (scanned.trans checked).trans (withScanner_scanFrame _ _)

theorem scanIfRunning_scanFrame (r : Readings) (s : State) : ScanFrame s (scanIfRunning r s) := by
  unfold scanIfRunning
  split
  · exact scan_scanFrame r s
  · exact .refl s

/-! ## The timers at a tick -/

theorem exec_tick {s u : State} (free : s.control.resetHeld = false) (settled : u = settle s) (r : Readings)
    (order : TickOrder) : exec (.tick r order) s = .next (tickWork r order u) := by
  change Host.Outcome.next (if s.control.resetHeld then tickHeld s else tickWork r order (settle s)) = _
  rw [free, ← settled]
  rfl

theorem tickOrigin_cold (stopped : Bool) : tickOrigin stopped .cold = .cold := by cases stopped <;> rfl

theorem origin_tickTimers (s : State) (x : Nat) :
    (tickTimers s).origin x = tickOrigin (s.control.step == .held) (s.origin x) := by
  unfold State.origin
  split
  · exact (tickOrigin_cold _).symm
  · change (s.table.origins.map (tickOrigin (s.control.step == .held))).getD (x - 1) .cold = _
    rw [List.getD_eq_getElem?_getD, List.getD_eq_getElem?_getD, List.getElem?_map]
    cases s.table.origins[x - 1]? with
    | some o => rfl
    | none => exact (tickOrigin_cold _).symm

theorem tickOrigin_silence (stopped : Bool) (o : OriginRecord) : (tickOrigin stopped o).silence =
    if o.status = .unknown ∨ stopped = true then o.silence else min (o.silence + 1) 65535 := by
  have await (p : OriginRecord) : p.countAwait.silence = p.silence := by
    unfold OriginRecord.countAwait
    split
    · rfl
    · rfl
    · rfl
  rw [tickOrigin, await]
  cases stopped with
  | true => simp
  | false =>
    by_cases unknown : o.status = .unknown
    · simp [OriginRecord.countSilence, unknown]
    · simp [OriginRecord.countSilence, unknown, sat16, satSucc_eq_min]

theorem tickOrigin_resync (stopped : Bool) {o : OriginRecord} {n : Nat} (awaits : o.resync = .awaiting n) :
    (tickOrigin stopped o).resync = .awaiting (n - 1) := by
  have counted (p : OriginRecord) (is : p.resync = .awaiting n) : p.countAwait.resync = .awaiting (n - 1) := by
    unfold OriginRecord.countAwait
    rw [is]
  cases stopped with
  | true => exact counted o awaits
  | false =>
    refine counted o.countSilence ?_
    unfold OriginRecord.countSilence
    split
    · exact awaits
    · exact awaits

/-- The origins a tick finds past their limit, by the records as it leaves them (R67). -/
theorem mem_silencesFound (s : State) (x : Nat) : x ∈ silencesFound s ↔ 1 ≤ x ∧ x ≤ s.table.origins.length ∧
    s.control.step ≠ .held ∧ ((tickTimers s).origin x).pastLimit = true := by
  unfold silencesFound
  split
  case isTrue held => simp [held]
  case isFalse going =>
    have same : ((s.withTable (tickTable false s.table)).origin x) = (tickTimers s).origin x := by
      have step : (s.control.step == .held) = false := beq_eq_false_iff_ne.mpr going
      have table : (tickTimers s).table = tickTable false s.table := by
        change tickTable (s.control.step == .held) s.table = _
        rw [step]
      unfold State.origin
      rw [table]
      rfl
    have length : (s.withTable (tickTable false s.table)).table.origins.length = s.table.origins.length :=
      List.length_map _
    rw [mem_stationsWhere, same, length]
    exact ⟨fun ⟨low, high, past⟩ => ⟨low, high, going, past⟩, fun ⟨low, high, _, past⟩ => ⟨low, high, past⟩⟩

/-- Settles O7: the timers move before the scan, which leaves each of them. -/
theorem tickAdvancesTheTimers : Obligations.TickAdvancesTheTimers := by
  intro r s u free settled limit
  have tick : nextTick u.control.tick = u.control.tick + 1 := if_pos limit
  have frame := scanIfRunning_scanFrame r (tickTimers u)
  have origin (x : Nat) : (scanIfRunning r (tickTimers u)).origin x =
      tickOrigin (u.control.step == .held) (u.origin x) := by
    rw [← origin_tickTimers]
    exact origin_congr frame.origins x
  refine ⟨⟨_, exec_tick free settled r .expiriesFirst, ?_⟩, _, exec_tick free settled r .scanFirst, ?_, ?_, ?_, ?_,
    fun x => ?_, fun x n awaits => ?_, fun x => ?_, fun loading => ?_⟩
  · have scanned := congrArg StationControl.tick (scanIfRunning_scanFrame r (takeDue (tickTimers u))).control
    have expired := (takeDue_kept (.refl (tickTimers u))).tick
    exact (scanned.trans expired).trans tick
  · exact (congrArg StationControl.tick frame.control).trans tick
  · exact frame.linkTimer.trans (satSucc_eq_min _ _)
  · refine (congrArg RiserLine.stuckTimer frame.riser).trans ?_
    change (if u.riser.wasQuiet then 0 else satSucc 20 u.riser.stuckTimer) = _
    rw [satSucc_eq_min]
    exact if_congr (Bool.or_eq_true_iff) rfl rfl
  · refine frame.summaryCounter.trans ?_
    change (tickPub u.control.running u.pub).summaryCounter = _
    unfold tickPub
    split
    · rfl
    · rfl
  · change ((scanIfRunning r (tickTimers u)).origin x).silence = _
    rw [origin, tickOrigin_silence]
    exact if_congr (or_congr_right beq_iff_eq) rfl rfl
  · change ((scanIfRunning r (tickTimers u)).origin x).resync = _
    rw [origin]
    exact tickOrigin_resync _ awaits
  · change x ∈ (scanIfRunning r (tickTimers u)).due.silence ↔ _
    rw [frame.due]
    refine (mem_silencesFound u x).trans ?_
    rw [origin_tickTimers, ← origin, pastLimit_iff]
    rfl
  · have idle : scanIfRunning r (tickTimers u) = tickTimers u := if_neg (Bool.eq_false_iff.mp loading)
    change (scanIfRunning r (tickTimers u)).scanner = _ ∧ (scanIfRunning r (tickTimers u)).table.entries = _ ∧
      (scanIfRunning r (tickTimers u)).crew.channels = _ ∧ (scanIfRunning r (tickTimers u)).incident.hold = _
    rw [idle]
    refine ⟨rfl, rfl, rfl, ?_⟩
    change u.incident.hold.map sat16 = _
    have counts : sat16 = fun n => min (n + 1) 65535 := funext fun n => satSucc_eq_min 65535 n
    rw [counts]

end Sys2Proof.Machine
end

section
/-!
PROOFS. The checks of a tick leave the scanner and its level marks (log 4).
-/
namespace Sys2Proof.Machine

/-- What the checks that a tick makes due leave for a scan that follows them. -/
structure DueFrame (s t : State) : Prop where
  scanner : t.scanner = s.scanner
  level : t.pub.level = s.pub.level
  running : t.control.running = s.control.running

theorem DueFrame.refl (s : State) : DueFrame s s := ⟨rfl, rfl, rfl⟩

theorem DueFrame.trans {s t u : State} (h : DueFrame s t) (k : DueFrame t u) : DueFrame s u :=
  ⟨k.scanner.trans h.scanner, k.level.trans h.level, k.running.trans h.running⟩

theorem withDue_dueFrame (s : State) (v : TickDue) : DueFrame s (s.withDue v) := ⟨rfl, rfl, rfl⟩

theorem withTable_dueFrame (s : State) (v : PictureTable) : DueFrame s (s.withTable v) := ⟨rfl, rfl, rfl⟩

theorem withRiser_dueFrame (s : State) (v : RiserLine) : DueFrame s (s.withRiser v) := ⟨rfl, rfl, rfl⟩

theorem setCondition_dueFrame (c : Condition) (s : State) : DueFrame s (s.setCondition c) := by
  have noted := setCondition_noted c s
  refine ⟨noted.scanner, congrArg Publisher.level noted.pub, ?_⟩
  rw [noted.control]

theorem RemovalFrame.dueFrame {s t : State} (h : RemovalFrame s t) : DueFrame s t :=
  ⟨h.scanner, h.level, congrArg StationControl.running h.control⟩

theorem modOrigin_dueFrame (s : State) (x : Nat) (f : OriginRecord → OriginRecord) : DueFrame s (s.modOrigin x f) :=
  ⟨modOrigin_scanner _ _ _, congrArg Publisher.level (modOrigin_pub _ _ _),
    congrArg StationControl.running (modOrigin_control _ _ _)⟩

theorem unconfirmEntry_dueFrame (e : Entry) (s : State) : DueFrame s (unconfirmEntry e s) := by
  unfold unconfirmEntry
  split
  · exact ((putEntry_frame _ s).trans (emit_told _ _).removalFrame).dueFrame
  · exact .refl s

theorem unconfirmOrigin_dueFrame (x : Nat) (s : State) : DueFrame s (unconfirmOrigin x s) :=
  foldl_keeps (P := DueFrame s) (fun t e k => k.trans (unconfirmEntry_dueFrame e t)) _ _ ⟨rfl, rfl, rfl⟩

theorem failRecovery_dueFrame (x : Nat) (s : State) : DueFrame s (failRecovery x s) := by
  unfold failRecovery
  split
  · split
    · exact ⟨rfl, rfl, rfl⟩
    · exact .refl s
  · exact .refl s

theorem monitorHearsSilent_dueFrame (x : Nat) (s : State) : DueFrame s (monitorHearsSilent x s) := by
  unfold monitorHearsSilent
  split
  · exact ⟨rfl, rfl, rfl⟩
  · exact .refl s

theorem becomeSilent_dueFrame (x : Nat) (s : State) : DueFrame s (becomeSilent x s) := by
  unfold becomeSilent
  exact (modOrigin_dueFrame s x _).trans ((unconfirmOrigin_dueFrame x _).trans ((failRecovery_dueFrame x _).trans
    ((modOrigin_dueFrame _ x _).trans (monitorHearsSilent_dueFrame x _))))

theorem takeSilence_dueFrame (x : Nat) (s : State) : DueFrame s (takeSilence x s) := by
  unfold takeSilence
  split
  · dsimp only
    split
    · exact (withDue_dueFrame s _).trans (becomeSilent_dueFrame x _)
    · exact ⟨rfl, rfl, rfl⟩
  · exact .refl s

theorem removeHeldOut_dueFrame (s : State) : DueFrame s (removeHeldOut s) :=
  foldl_keeps (P := DueFrame s) (fun t e k => k.trans (removeByHold_frame e t).dueFrame) _ _ (.refl s)

theorem takeHolds_dueFrame (s : State) : DueFrame s (takeHolds s) := by
  unfold takeHolds
  split
  · exact (withDue_dueFrame s _).trans (removeHeldOut_dueFrame _)
  · exact .refl s

theorem startRecovery_dueFrame (s : State) : DueFrame s (startRecovery s) := by
  unfold startRecovery
  split
  · split
    · exact (withTable_dueFrame s _).trans (modOrigin_dueFrame _ _ _)
    · exact .refl s
  · exact .refl s

theorem takeRecovery_dueFrame (s : State) : DueFrame s (takeRecovery s) := by
  unfold takeRecovery
  split
  · exact (withDue_dueFrame s _).trans (startRecovery_dueFrame _)
  · exact .refl s

theorem takeIncidentHold_dueFrame (s : State) : DueFrame s (takeIncidentHold s) := by
  unfold takeIncidentHold
  split
  · dsimp only
    split
    · exact ⟨rfl, rfl, rfl⟩
    · exact ⟨rfl, rfl, rfl⟩
  · exact .refl s

theorem expireAwait_dueFrame (x : Nat) (s : State) : DueFrame s (expireAwait x s) := by
  unfold expireAwait
  split
  · exact modOrigin_dueFrame _ _ _
  · exact .refl s

theorem takeSummary_dueFrame (s : State) : DueFrame s (takeSummary s) := by
  unfold takeSummary
  split
  · exact ⟨rfl, rfl, rfl⟩
  · exact .refl s

theorem takeStuck_dueFrame (s : State) : DueFrame s (takeStuck s) := by
  unfold takeStuck stuckEvent
  split
  · exact (withDue_dueFrame s _).trans ((withRiser_dueFrame _ _).trans (setCondition_dueFrame .line _))
  · exact .refl s

theorem DetachFrame.dueFrame {s t : State} (h : DetachFrame s t) : DueFrame s t :=
  ⟨h.scanner, congrArg Publisher.level h.pub, congrArg StationControl.running h.control⟩

theorem takeLinkLoss_dueFrame (s : State) : DueFrame s (takeLinkLoss s) := by
  unfold takeLinkLoss
  split
  · have lost (t : State) : DueFrame t (linkLost t) :=
      eachChannel_keeps (P := DueFrame t) (fun ch u k => k.trans (detachChannel_frame ch u).dueFrame) t (.refl t)
    exact (withDue_dueFrame s _).trans (lost _)
  · exact .refl s

theorem takeDue_dueFrame (s : State) : DueFrame s (takeDue s) := by
  have silences : DueFrame s (takeSilences s) :=
    foldl_keeps (P := DueFrame s) (fun t x k => k.trans (takeSilence_dueFrame x t)) _ _ (.refl s)
  have awaits (t : State) : DueFrame t (takeAwaits t) :=
    foldl_keeps (P := DueFrame t) (fun u x k => k.trans (expireAwait_dueFrame x u)) _ _ (.refl t)
  exact silences.trans ((takeHolds_dueFrame _).trans ((takeRecovery_dueFrame _).trans
    ((takeIncidentHold_dueFrame _).trans ((awaits _).trans ((takeSummary_dueFrame _).trans
      ((takeStuck_dueFrame _).trans (takeLinkLoss_dueFrame _)))))))

theorem tickTimers_dueFrame (s : State) : DueFrame s (tickTimers s) := by
  refine ⟨rfl, ?_, rfl⟩
  change (tickPub s.control.running s.pub).level = _
  unfold tickPub
  split
  · rfl
  · rfl

/-- The tick of a RUNNING station scans, and what it does before leaves the scanner to the scan (log 4). -/
theorem tickWork_scans {u : State} (running : u.control.running = true) (r : Readings) (order : TickOrder) :
    ∃ w, DueFrame u w ∧ tickWork r order u = scan r w := by
  cases order with
  | scanFirst => exact ⟨_, tickTimers_dueFrame u, if_pos running⟩
  | expiriesFirst =>
    have frame := (tickTimers_dueFrame u).trans (takeDue_dueFrame (tickTimers u))
    exact ⟨_, frame, if_pos (frame.running.trans running)⟩

end Sys2Proof.Machine
end

section
/-!
PROOFS. The scan (R5 to R8, R13, R15): what it makes of one channel, and that the others' turns leave that channel.
-/
namespace Sys2Proof.Machine

/-! ## The turn of one channel among those of the others -/

/-- What the turns of the other channels leave for channel `i`. -/
structure Beside (i : Nat) (s t : State) : Prop where
  cfg : t.scanner.cfg = s.scanner.cfg
  divider : t.scanner.divider = s.scanner.divider
  length : t.scanner.channels.length = s.scanner.channels.length
  chan : t.scanner.chan i = s.scanner.chan i
  level : i ∈ t.pub.level ↔ i ∈ s.pub.level

theorem Beside.refl (i : Nat) (s : State) : Beside i s s := ⟨rfl, rfl, rfl, rfl, .rfl⟩

theorem Beside.trans {i : Nat} {s t u : State} (h : Beside i s t) (k : Beside i t u) : Beside i s u :=
  ⟨k.cfg.trans h.cfg, k.divider.trans h.divider, k.length.trans h.length, k.chan.trans h.chan, k.level.trans h.level⟩

theorem DueFrame.beside {s t : State} (h : DueFrame s t) (i : Nat) : Beside i s t := by
  refine ⟨?_, ?_, ?_, ?_, ?_⟩
  · rw [h.scanner]
  · rw [h.scanner]
  · rw [h.scanner]
  · rw [h.scanner]
  · rw [h.level]

/-- Of operations made for each number once, one finds channel `i` as the state before them all left it, and those
behind it leave it. -/
theorem foldl_beside {f : State → Nat → State} {i : Nat} (others : ∀ s j, j ≠ i → Beside i s (f s j)) {l : List Nat}
    (once : l.Nodup) (mem : i ∈ l) (s : State) : ∃ a, Beside i s a ∧ Beside i (f a i) (l.foldl f s) := by
  have pass {m : List Nat} (absent : i ∉ m) (t : State) : Beside i t (m.foldl f t) :=
    StepClosed.foldl_keeps_mem (Q := Beside i t) m (fun u j inM k =>
      k.trans (others u j fun same => absent (same ▸ inM))) t (.refl i t)
  obtain ⟨before, after, eq⟩ := List.append_of_mem mem
  subst eq
  obtain ⟨_, behind, apart⟩ := List.nodup_append.mp once
  refine ⟨before.foldl f s, pass (fun k => apart i k i List.mem_cons_self rfl) s, ?_⟩
  rw [List.foldl_append, List.foldl_cons]
  exact pass (List.nodup_cons.mp behind).1 _

/-! ## The classification -/

theorem count_state (c : ScanChannel) (b : Band) : (c.count b).state = c.state ∧ (c.count b).lastLevel = c.lastLevel := by
  unfold ScanChannel.count
  split
  · exact ⟨rfl, rfl⟩
  · exact ⟨rfl, rfl⟩

/-- A classification leaves the scanner state and the last published level to the change it gives. -/
theorem classify_state (cfg : ScanConfig) (latched : Bool) (c : ScanChannel) (b : Band) :
    (classify cfg latched c b).1.state = c.state ∧ (classify cfg latched c b).1.lastLevel = c.lastLevel := by
  by_cases alarm : latched = true ∧ c.state = .alarm
  · obtain ⟨rfl, alarm⟩ := alarm
    by_cases fault : b = .fault
    · rw [fault, classify_latchedAlarm_fault alarm]
      exact ⟨rfl, rfl⟩
    · rw [classify_latchedAlarm_of_ne_fault alarm cfg fault]
      split
      · exact count_state c b
      · exact count_state c b
  · rw [classify_of_not_latchedAlarm alarm]
    exact count_state c b

/-! ## The turn of a channel in the scan (R5) -/

/-- What a channel's reading does to it (R3 to R8). -/
def State.classified (s : State) (r : Readings) (i : Nat) : ScanChannel × Option ScanState :=
  classify s.scanner.cfg (s.scanner.latched i) (s.scanner.chan i) (effectiveBand (s.scanner.kind i)
    (bandOf (s.scanner.cfg.thresholds (s.scanner.kind i)) (s.reading r i)))

section
variable {r : Readings} {i : Nat} {s : State}

theorem scanChannel_stands (stands : s.scanner.kind i = .unused ∨ (s.scanner.chan i).state = .isolated) :
    scanChannel r s i = s := if_pos stands

theorem scanChannel_counts (counts : ¬(s.scanner.kind i = .unused ∨ (s.scanner.chan i).state = .isolated))
    (same : (s.classified r i).2 = none) : scanChannel r s i = s.modChan i (fun _ => (s.classified r i).1) := by
  unfold State.classified at *
  simp only [scanChannel, if_neg counts, same]

theorem scanChannel_changes (counts : ¬(s.scanner.kind i = .unused ∨ (s.scanner.chan i).state = .isolated))
    {new : ScanState} (changes : (s.classified r i).2 = some new) : scanChannel r s i =
      changeScanState i new (some (s.reading r i)) (s.modChan i (fun _ => (s.classified r i).1)) := by
  unfold State.classified at *
  simp only [scanChannel, if_neg counts, changes]

theorem changeScanState_scanSame (i : Nat) (new : ScanState) (v : Option Nat) (s : State) :
    ScanSame i s (changeScanState i new v s) :=
  (modChan_scanSame i s _).trans ((writeOwn_written i new.entryState v (s.changing i new)).scan.trans
    (.of_eq (noteSupply_noted _ _ _ _).scanner i))

theorem changeScanState_level (i : Nat) (new : ScanState) (v : Option Nat) (s : State) :
    (changeScanState i new v s).pub.level = s.pub.level := by
  have noted := noteSupply_noted i (s.scanner.chan i).state new (writeOwn i new.entryState v (s.changing i new))
  exact (congrArg Publisher.level noted.pub).trans (writeOwn_written i new.entryState v (s.changing i new)).level

/-- A channel's turn moves its own channel of the scanner, and no level mark. -/
theorem scanChannel_scanSame (r : Readings) (s : State) (i : Nat) :
    ScanSame i s (scanChannel r s i) ∧ (scanChannel r s i).pub.level = s.pub.level := by
  by_cases stands : s.scanner.kind i = .unused ∨ (s.scanner.chan i).state = .isolated
  · rw [scanChannel_stands stands]
    exact ⟨.refl i s, rfl⟩
  · cases out : (s.classified r i).2 with
    | none =>
      rw [scanChannel_counts stands out]
      exact ⟨modChan_scanSame i s _, rfl⟩
    | some new =>
      rw [scanChannel_changes stands out]
      exact ⟨(modChan_scanSame i s _).trans (changeScanState_scanSame i new _ _), changeScanState_level i new _ _⟩

theorem ScanSame.beside {j : Nat} {t : State} (h : ScanSame j s t) (apart : i ≠ j)
    (level : i ∈ t.pub.level ↔ i ∈ s.pub.level) : Beside i s t :=
  ⟨h.cfg, h.divider, h.length, h.chan i apart, level⟩

/-- The channel after its turn: its state by the change rule, its counting by the classification (R6, R7, R8). -/
theorem scanChannel_chan (inside : i < s.scanner.channels.length)
    (counts : ¬(s.scanner.kind i = .unused ∨ (s.scanner.chan i).state = .isolated)) :
    ∃ last, (scanChannel r s i).scanner.chan i = { (s.classified r i).1 with
        state := (s.classified r i).2.getD (s.scanner.chan i).state, lastLevel := last } ∧
      ((s.classified r i).2 = none → last = (s.scanner.chan i).lastLevel) ∧
      (∀ new, (s.classified r i).2 = some new → new ≠ .normal → last = s.reading r i) := by
  obtain ⟨state, level⟩ := classify_state s.scanner.cfg (s.scanner.latched i) (s.scanner.chan i)
    (effectiveBand (s.scanner.kind i) (bandOf (s.scanner.cfg.thresholds (s.scanner.kind i)) (s.reading r i)))
  have inside' : i < (s.modChan i fun _ => (s.classified r i).1).scanner.channels.length := by
    change i < (updAt _ _ _).length
    rwa [length_updAt]
  have before : (s.modChan i fun _ => (s.classified r i).1).scanner.chan i = (s.classified r i).1 :=
    chan_modChan_same inside _
  cases out : (s.classified r i).2 with
  | none =>
    rw [scanChannel_counts counts out, before]
    refine ⟨(s.scanner.chan i).lastLevel, ?_, fun _ => rfl, fun _ k => nomatch k⟩
    change (s.classified r i).1 = { (s.classified r i).1 with
      state := (s.scanner.chan i).state, lastLevel := (s.scanner.chan i).lastLevel }
    rw [← state, ← level]
    rfl
  | some new =>
    rw [scanChannel_changes counts out]
    by_cases written : (s.modChan i fun _ => (s.classified r i).1).ownAt i ≠ none ∨ new ≠ .normal
    · rw [changeScanState_chan_some inside' written, before]
      exact ⟨_, rfl, (fun k => nomatch k), fun _ _ _ => rfl⟩
    · obtain ⟨absent, normal⟩ := not_or.mp written
      rw [not_not.mp normal, changeScanState_absent inside' (not_not.mp absent), before]
      refine ⟨_, rfl, (fun k => nomatch k), fun other is live => absurd ?_ live⟩
      cases is
      rfl

/-! ## The level check of a channel (R15) -/

/-- The reading is far enough from the last published level of a channel in PREALARM or ALARM. -/
def State.levelMoves (s : State) (r : Readings) (i : Nat) : Prop :=
  ((s.scanner.chan i).state = .prealarm ∨ (s.scanner.chan i).state = .alarm) ∧
    s.scanner.cfg.levelStep ≤ floorDistance (s.reading r i) (s.scanner.chan i).lastLevel

theorem floorDistance_le_iff (step a b : Nat) : step ≤ floorDistance a b ↔ a + step ≤ b ∨ b + step ≤ a := by
  unfold floorDistance
  omega

theorem checkLevel_of_near (near : ¬s.levelMoves r i) : checkLevel r s i = s := if_neg near

theorem checkLevel_of_moves (moves : s.levelMoves r i) : checkLevel r s i =
    ((writeLevel i (s.reading r i) s).modChan i (fun c => { c with lastLevel := s.reading r i })).setLevelMark i :=
  if_pos moves

theorem writeLevel_frame (i v : Nat) (s : State) : RemovalFrame s (writeLevel i v s) := by
  unfold writeLevel
  split
  · exact (putEntry_frame _ s).trans (emit_told _ _).removalFrame
  · exact .refl s

/-- A level check moves its own channel of the scanner and its own level mark. -/
theorem checkLevel_beside {j : Nat} (apart : i ≠ j) (r : Readings) (s : State) : Beside i s (checkLevel r s j) := by
  by_cases moves : s.levelMoves r j
  · rw [checkLevel_of_moves moves]
    have frame := writeLevel_frame j (s.reading r j) s
    have same := (ScanSame.of_eq frame.scanner j).trans
      (modChan_scanSame j (writeLevel j (s.reading r j) s) fun c => { c with lastLevel := s.reading r j })
    refine ⟨same.cfg, same.divider, same.length, same.chan i apart, ?_⟩
    change i ∈ setMark j (writeLevel j (s.reading r j) s).pub.level ↔ _
    rw [frame.level, mem_setMark]
    exact or_iff_right apart
  · rw [checkLevel_of_near moves]
    exact .refl i s

theorem checkLevel_moved (inside : i < s.scanner.channels.length) (moves : s.levelMoves r i) :
    (checkLevel r s i).scanner.chan i = { s.scanner.chan i with lastLevel := s.reading r i } ∧
      i ∈ (checkLevel r s i).pub.level := by
  rw [checkLevel_of_moves moves]
  have frame := writeLevel_frame i (s.reading r i) s
  refine ⟨?_, mem_setMark.mpr (.inl rfl)⟩
  change ((writeLevel i (s.reading r i) s).modChan i _).scanner.chan i = _
  rw [chan_modChan_same (by rw [frame.scanner]; exact inside), frame.scanner]

end

/-! ## The whole scan -/

theorem Beside.reading {i : Nat} {s t : State} (h : Beside i s t) (r : Readings) : t.reading r i = s.reading r i := by
  unfold State.reading Scanner.config
  rw [h.cfg]

theorem scanChannel_own (r : Readings) (a : State) (i : Nat) :
    (scanChannel r a i).scanner.cfg = a.scanner.cfg ∧ (scanChannel r a i).scanner.divider = a.scanner.divider ∧
      (scanChannel r a i).scanner.channels.length = a.scanner.channels.length :=
  have same := (scanChannel_scanSame r a i).1
  ⟨same.cfg, same.divider, same.length⟩

theorem levelCheck_early {r : Readings} {s : State} (early : s.scanner.divider < s.scanner.cfg.levelDivider) :
    levelCheck r s = s.withScanner { s.scanner with divider := s.scanner.divider + 1 } := if_pos early

theorem levelCheck_due {r : Readings} {s : State} (due : s.scanner.cfg.levelDivider ≤ s.scanner.divider) :
    levelCheck r s = ((List.range 64).foldl (checkLevel r) s).withScanner
      { ((List.range 64).foldl (checkLevel r) s).scanner with divider := 1 } := if_neg (Nat.not_lt.mpr due)

/-- What the level check makes of one channel (R15). -/
theorem levelCheck_chan (r : Readings) {s : State} {i : Nat} (loop : i < 64)
    (inside : i < s.scanner.channels.length) :
    (levelCheck r s).scanner.divider =
      (if s.scanner.divider < s.scanner.cfg.levelDivider then s.scanner.divider + 1 else 1) ∧
    (s.scanner.cfg.levelDivider ≤ s.scanner.divider → s.levelMoves r i →
      (levelCheck r s).scanner.chan i = { s.scanner.chan i with lastLevel := s.reading r i } ∧
        i ∈ (levelCheck r s).pub.level) ∧
    (¬(s.scanner.cfg.levelDivider ≤ s.scanner.divider ∧ s.levelMoves r i) →
      (levelCheck r s).scanner.chan i = s.scanner.chan i ∧
        (i ∈ (levelCheck r s).pub.level ↔ i ∈ s.pub.level)) := by
  by_cases due : s.scanner.cfg.levelDivider ≤ s.scanner.divider
  · obtain ⟨b, before, behind⟩ := foldl_beside (f := checkLevel r) (i := i)
      (fun t j other => checkLevel_beside (Ne.symm other) r t) List.nodup_range (List.mem_range.mpr loop) s
    rw [levelCheck_due due, if_neg (Nat.not_lt.mpr due)]
    generalize (List.range 64).foldl (checkLevel r) s = checked at behind
    have same : b.levelMoves r i ↔ s.levelMoves r i := by
      unfold State.levelMoves
      rw [before.chan, before.cfg, before.reading]
    refine ⟨rfl, fun _ moves => ?_, fun near => ?_⟩
    · obtain ⟨chan, level⟩ := checkLevel_moved (by rw [before.length]; exact inside) (same.mpr moves)
      refine ⟨behind.chan.trans ?_, behind.level.mpr level⟩
      rw [chan, before.chan, before.reading]
    · rw [checkLevel_of_near fun k => near ⟨due, same.mp k⟩] at behind
      exact ⟨behind.chan.trans before.chan, behind.level.trans before.level⟩
  · rw [levelCheck_early (Nat.not_le.mp due), if_pos (Nat.not_le.mp due)]
    exact ⟨rfl, fun k => absurd k due, fun _ => ⟨rfl, .rfl⟩⟩

/-- The states in which the scan takes its turn at a channel and leaves it to the level check (R5). -/
theorem scan_turn (r : Readings) (s : State) {i : Nat} (loop : i < 64) : ∃ a b : State, Beside i s a ∧
    Beside i (scanChannel r a i) b ∧ scan r s = levelCheck r b := by
  have others (t : State) (j : Nat) (other : j ≠ i) : Beside i t (scanChannel r t j) := by
    obtain ⟨same, level⟩ := scanChannel_scanSame r t j
    exact same.beside other.symm (by rw [level])
  obtain ⟨a, before, behind⟩ := foldl_beside others List.nodup_range (List.mem_range.mpr loop) s
  exact ⟨a, _, before, behind, rfl⟩

/-- Settles O16: the checks of the tick leave the scanner to the scan, in which each channel has its turn and its
level check. -/
theorem scanAppliesTheChangeRule : Obligations.ScanAppliesTheChangeRule := by
  refine ⟨fun r o s u free settled running size => ?_, fun r i v s t e new inside hv ht held isNew live far => ?_⟩
  · obtain ⟨w, frame, scans⟩ := tickWork_scans running r o
    refine ⟨_, exec_tick free settled r o, ?_, fun i k c d loop hk hc hd => ?_⟩
    · obtain ⟨a, b, before, behind, turn⟩ := scan_turn r w (i := 0) (by decide)
      obtain ⟨cfg, divider, length⟩ := scanChannel_own r a 0
      have inside : 0 < b.scanner.channels.length := by
        rw [behind.length, length, before.length, frame.scanner, size]
        decide
      rw [scans, turn, (levelCheck_chan r (by decide) inside).1, behind.cfg, behind.divider, cfg, divider, before.cfg,
        before.divider, frame.scanner]
    · obtain ⟨a, b, before, behind, turn⟩ := scan_turn r w loop
      have before := (frame.beside i).trans before
      obtain ⟨cfg, divider, length⟩ := scanChannel_own r a i
      have insideA : i < a.scanner.channels.length := by
        rw [before.length, size]
        exact loop
      have insideB : i < b.scanner.channels.length := by
        rw [behind.length, length]
        exact insideA
      obtain ⟨_, moved, stood⟩ := levelCheck_chan r loop insideB
      rw [← turn, ← scans] at moved stood
      have cfgB : b.scanner.cfg = u.scanner.cfg := behind.cfg.trans (cfg.trans before.cfg)
      have dividerB : b.scanner.divider = u.scanner.divider := behind.divider.trans (divider.trans before.divider)
      have level : i ∈ b.pub.level ↔ i ∈ u.pub.level := by
        rw [behind.level, (scanChannel_scanSame r a i).2, before.level]
      have reading : b.reading r i = readingOf (u.scanner.config i).invert (r.val.getD i 0) := by
        unfold State.reading Scanner.config
        rw [cfgB]
      rw [cfgB, dividerB, reading] at moved
      rw [cfgB, dividerB, level] at stood
      have kind : a.scanner.kind i = k := by
        rw [hk]
        unfold Scanner.kind Scanner.config
        rw [before.cfg]
      have chan : a.scanner.chan i = c := before.chan.trans hc.symm
      refine ⟨fun stands => ?_, fun used free v out hv hout => ?_⟩
      · rw [scanChannel_stands (by rw [kind, chan]; exact stands)] at behind
        have chanB := behind.chan.trans chan
        by_cases moves : u.scanner.cfg.levelDivider ≤ u.scanner.divider ∧ b.levelMoves r i
        · rw [hd, (moved moves.1 moves.2).1, chanB]
          exact ⟨rfl, rfl, rfl, rfl⟩
        · rw [hd, (stood moves).1, chanB]
          exact ⟨rfl, rfl, rfl, rfl⟩
      · have readingA : a.reading r i = v := (before.reading r).trans hv.symm
        have classified : a.classified r i = out := by
          rw [hout, State.classified, readingA, kind, chan, Scanner.latched, Scanner.config, before.cfg]
          rfl
        have counts : ¬(a.scanner.kind i = .unused ∨ (a.scanner.chan i).state = .isolated) := by
          rw [kind, chan]
          exact not_or.mpr ⟨used, free⟩
        obtain ⟨last, chanB, still, published⟩ := scanChannel_chan (r := r) insideA counts
        rw [classified, chan] at chanB still
        rw [classified, readingA] at published
        rw [← behind.chan] at chanB
        rw [← hv] at moved reading
        have moves_iff : b.levelMoves r i ↔ (out.2.getD c.state = .prealarm ∨ out.2.getD c.state = .alarm) ∧
            (v + u.scanner.cfg.levelStep ≤ last ∨ last + u.scanner.cfg.levelStep ≤ v) := by
          rw [State.levelMoves, floorDistance_le_iff, reading, cfgB, chanB]
        rw [← hd] at moved stood
        have counted : d.state = out.2.getD c.state ∧ d.candidate = out.1.candidate ∧
            d.counter = out.1.counter ∧ d.armed = out.1.armed := by
          by_cases moves : u.scanner.cfg.levelDivider ≤ u.scanner.divider ∧ b.levelMoves r i
          · rw [(moved moves.1 moves.2).1, chanB]
            exact ⟨rfl, rfl, rfl, rfl⟩
          · rw [(stood moves).1, chanB]
            exact ⟨rfl, rfl, rfl, rfl⟩
        obtain ⟨state, candidate, counter, armed⟩ := counted
        refine ⟨state, candidate, counter, armed, fun same due active far => ?_, fun same quiet => ?_,
          fun new changes live step => ?_⟩
        · rw [same] at moves_iff
          rw [still same] at moves_iff
          obtain ⟨chanT, marked⟩ := moved due (moves_iff.mpr ⟨active, far⟩)
          exact ⟨by rw [chanT], marked⟩
        · rw [same] at moves_iff
          rw [still same] at moves_iff chanB
          have near : ¬(u.scanner.cfg.levelDivider ≤ u.scanner.divider ∧ b.levelMoves r i) := by
            rintro ⟨due, moves⟩
            obtain ⟨active, far⟩ := moves_iff.mp moves
            rcases quiet with early | ⟨calm, calm'⟩ | ⟨below, above⟩
            · exact absurd early (Nat.not_lt.mpr due)
            · exact active.elim calm calm'
            · omega
          obtain ⟨chanT, marks⟩ := stood near
          exact ⟨by rw [chanT, chanB], marks⟩
        · rw [published new changes live] at moves_iff chanB
          have near : ¬(u.scanner.cfg.levelDivider ≤ u.scanner.divider ∧ b.levelMoves r i) := by
            rintro ⟨_, moves⟩
            have far := (moves_iff.mp moves).2
            omega
          obtain ⟨chanT, marks⟩ := stood near
          exact ⟨by rw [chanT, chanB], marks⟩
  · have moves : s.levelMoves r i := by
      have reading : s.reading r i = v := hv.symm
      rw [State.levelMoves, floorDistance_le_iff, reading]
      exact ⟨live, far⟩
    have newAt : new.addr = ⟨s.own, i⟩ := by
      rw [isNew]
      exact (addr_of_entryAt held : e.addr = _)
    have written : writeLevel i v s = emit (plainChange .level new) (s.putEntry new) := by
      unfold writeLevel
      rw [held, isNew]
    rw [checkLevel_of_moves moves] at ht
    have reading : s.reading r i = v := hv.symm
    rw [reading, written] at ht
    have told := emit_told (plainChange .level new) (s.putEntry new)
    have own : t.own = s.own := by
      rw [ht]
      exact congrArg (fun c : StationControl => c.straps.station.toNat) told.control
    have table : t.table = (s.putEntry new).table := by
      rw [ht]
      exact told.table
    refine ⟨?_, fun a apart => ?_, ?_⟩
    · rw [State.ownAt, own, ← newAt, entryAt_congr table]
      exact entryAt_putEntry_same s new
    · rw [entryAt_congr table]
      exact entryAt_putEntry_ne s new a (newAt ▸ apart)
    · rw [ht]
      exact ⟨rfl, rfl, rfl⟩

end Sys2Proof.Machine
end

section
/-!
PROOFS. The warm restart (R44, R47, R120, R173).
-/
namespace Sys2Proof.Machine

/-! ## The entries kept (R47) -/

/-- Whether an entry is kept depends on its address alone. -/
theorem keptOverRestart_congr {old new : Nat} {d e : Entry} (same : d.addr = e.addr) :
    keptOverRestart old new d = keptOverRestart old new e := by
  unfold keptOverRestart
  rw [same]

/-- The entry held at an address after a warm restart. -/
theorem find_entriesAfterRestart (old new : Nat) (a : Address) (l : List Entry) :
    (entriesAfterRestart old new l).find? (fun e => e.addr == a) =
      ((l.find? fun e => e.addr == a).filter (keptOverRestart old new)).map (entryAfterRestart old) := by
  induction l with
  | nil => rfl
  | cons e l ih =>
    unfold entriesAfterRestart at *
    by_cases here : e.addr = a
    · have found : (e :: l).find? (fun e => e.addr == a) = some e := by simp [here]
      rw [found]
      by_cases kept : keptOverRestart old new e = true
      · simp [kept, entryAfterRestart_addr, here]
      · have goneToo : l.find? (fun e => e.addr == a) = none ∨
            ∃ d, l.find? (fun e => e.addr == a) = some d ∧ d.addr = a := by
          cases later : l.find? (fun e => e.addr == a) with
          | none => exact .inl rfl
          | some d => exact .inr ⟨d, rfl, by simpa using List.find?_some later⟩
        rw [List.filter_cons_of_neg kept, ih]
        rcases goneToo with absent | ⟨d, present, addr⟩
        · simp [absent, kept]
        · have keptToo : ¬keptOverRestart old new d = true := by
            rwa [keptOverRestart_congr (addr.trans here.symm)]
          simp [Option.filter, present, kept, keptToo]
    · have skipped : (e :: l).find? (fun e => e.addr == a) = l.find? fun e => e.addr == a := by simp [here]
      rw [skipped, ← ih]
      by_cases kept : keptOverRestart old new e = true
      · simp [List.filter_cons_of_pos kept, entryAfterRestart_addr, here]
      · rw [List.filter_cons_of_neg kept]

/-- A foreign entry under both numbers is kept, UNCONFIRMED and without its sweep mark (R47). -/
theorem find_kept_foreign {old new : Nat} {a : Address} (notOld : a.station ≠ old) (notNew : a.station ≠ new)
    (l : List Entry) : (entriesAfterRestart old new l).find? (fun e => e.addr == a) =
      (l.find? fun e => e.addr == a).map fun e => { e with confirmed := false, sweep := false } := by
  rw [find_entriesAfterRestart]
  cases found : l.find? fun e => e.addr == a with
  | none => rfl
  | some e =>
    have addr : e.addr = a := by simpa using List.find?_some found
    have kept : keptOverRestart old new e = true := by simp [keptOverRestart, addr, notOld, notNew]
    simp [kept, entryAfterRestart, addr, notOld]

/-- Under the number sampled only the own markers are kept, where it is the number before (R47). -/
theorem find_kept_new (old new i : Nat) (l : List Entry) :
    (entriesAfterRestart old new l).find? (fun e => e.addr == ⟨new, i⟩) =
      if new = old ∧ 64 ≤ i then l.find? fun e => e.addr == ⟨old, i⟩ else none := by
  rw [find_entriesAfterRestart]
  by_cases marker : new = old ∧ 64 ≤ i
  · obtain ⟨rfl, marker⟩ := marker
    rw [if_pos ⟨rfl, marker⟩]
    cases found : l.find? fun e => e.addr == ⟨new, i⟩ with
    | none => rfl
    | some e =>
      have addr : e.addr = ⟨new, i⟩ := by simpa using List.find?_some found
      simp [keptOverRestart, entryAfterRestart, addr, marker]
  · rw [if_neg marker]
    cases found : l.find? fun e => e.addr == ⟨new, i⟩ with
    | none => rfl
    | some e =>
      have addr : e.addr = ⟨new, i⟩ := by simpa using List.find?_some found
      have gone : keptOverRestart old new e = false := by
        unfold keptOverRestart
        rw [addr]
        split
        case isTrue same => exact decide_eq_false fun k => marker ⟨same, k.2⟩
        case isFalse => simp
      simp [gone]

/-- Under the number before, where another is sampled, nothing is kept (R47). -/
theorem find_kept_old {old new : Nat} (moved : new ≠ old) (i : Nat) (l : List Entry) :
    (entriesAfterRestart old new l).find? (fun e => e.addr == ⟨old, i⟩) = none := by
  rw [find_entriesAfterRestart]
  cases found : l.find? fun e => e.addr == ⟨old, i⟩ with
  | none => rfl
  | some e =>
    have addr : e.addr = ⟨old, i⟩ := by simpa using List.find?_some found
    simp [keptOverRestart, addr, moved.symm]

/-! ## The restart as a whole -/

/-- The state of a warm restart before the STRAPS step. -/
def State.restarted (s : State) (st : Straps) : State := .supplied st s.now
  (tableAfterRestart s.own st.station.toNat s.table)
  (.recomputed (tableAfterRestart s.own st.station.toNat s.table).entries) s.pending

theorem warmRestart_cases (st : Straps) (s : State) : ∃ k e,
    warmRestart st s = ((s.restarted st).atStep k).withStore { PlanStore.reset with engine := e } ∧
      (1 ≤ st.station.toNat ∧ st.station.toNat ≤ 250 → k = .header ∧ e = .first .header false) ∧
      (¬(1 ≤ st.station.toNat ∧ st.station.toNat ≤ 250) → k = .held ∧ e = .idle) := by
  rw [warmRestart_eq]
  by_cases valid : 1 ≤ st.station.toNat ∧ st.station.toNat ≤ 250
  · exact ⟨_, _, (strapsStep_supplied _ _ _ _ _).1 valid, fun _ => ⟨rfl, rfl⟩, fun k => absurd valid k⟩
  · exact ⟨_, _, (strapsStep_supplied _ _ _ _ _).2 valid, fun k => absurd k valid, fun _ => ⟨rfl, rfl⟩⟩

section
variable {st : Straps} {s : State}

/-- The entries after a warm restart are those kept and that of point 0 (R16, R47). -/
theorem restarted_entryAt (a : Address) : (s.restarted st).entryAt a =
    if a = ⟨st.station.toNat, 0⟩ then some (Entry.supplyFault st.station.toNat s.now)
    else (entriesAfterRestart s.own st.station.toNat s.entries).find? fun e => e.addr == a := by
  have put := fun b => entryAt_putEntry_ne (s.setEntries (entriesAfterRestart s.own st.station.toNat s.entries))
    (Entry.supplyFault st.station.toNat s.now) b
  split
  case isTrue same =>
    subst same
    exact entryAt_putEntry_same (s.setEntries (entriesAfterRestart s.own st.station.toNat s.entries))
      (Entry.supplyFault st.station.toNat s.now)
  case isFalse other => exact put a other

theorem restarted_rising (table : TableOk s) : Rising (entriesAfterRestart s.own st.station.toNat s.entries) :=
  rising_map _ (entryAfterRestart_addr _) (rising_filter _ table.1)

/-- An entry of another station after a warm restart is one of those kept. -/
theorem mem_restarted (table : TableOk s) (e : Entry) : e ∈ (s.restarted st).entries ↔
    e = Entry.supplyFault st.station.toNat s.now ∨
      (e ∈ entriesAfterRestart s.own st.station.toNat s.entries ∧ e.addr ≠ ⟨st.station.toNat, 0⟩) :=
  mem_putEntry (restarted_rising table)

/-- No entry is kept at the address of point 0. -/
theorem kept_not_supply {e : Entry} (kept : e ∈ entriesAfterRestart s.own st.station.toNat s.entries) :
    e.addr ≠ ⟨st.station.toNat, 0⟩ := by
  obtain ⟨x, _, keeps, addr⟩ := mem_entriesAfterRestart kept
  rw [addr]
  intro supply
  rcases keptOverRestart_cases keeps with ⟨_, foreign⟩ | ⟨_, _, marker⟩
  · exact foreign (congrArg Address.station supply)
  · rw [supply] at marker
    exact absurd marker (Nat.not_le.mpr (by simp))

/-- The entries in ALARM after a warm restart are those kept in ALARM. -/
theorem mem_restarted_alarm (table : TableOk s) {e : Entry} (alarm : e.state = .alarm) :
    e ∈ (s.restarted st).entries ↔ e ∈ entriesAfterRestart s.own st.station.toNat s.entries := by
  rw [mem_restarted table]
  constructor
  · rintro (rfl | ⟨kept, _⟩)
    · cases alarm
    · exact kept
  · exact fun kept => .inr ⟨kept, kept_not_supply kept⟩

/-! ## The origin records (R44) -/

theorem origin_restarted {x : Nat} (low : 1 ≤ x) (high : x ≤ s.table.origins.length) : (s.restarted st).origin x =
    (s.origin x).afterRestart (!(x == st.station.toNat) &&
      (entriesAfterRestart s.own st.station.toNat s.entries).any fun e => e.addr.station == x) := by
  have inside : x - 1 < s.table.origins.length := by omega
  have number : x - 1 + 1 = x := by omega
  rw [State.origin, State.origin, if_neg (by omega), if_neg (by omega)]
  change (originsAfterRestart st.station.toNat (entriesAfterRestart s.own st.station.toNat s.entries)
    s.table.origins).getD (x - 1) .cold = _
  rw [originsAfterRestart, List.getD_eq_getElem?_getD, List.getD_eq_getElem?_getD, List.getElem?_mapIdx,
    List.getElem?_eq_getElem inside, number]
  rfl

/-- An origin of another station is SILENT after a warm restart where it holds an entry. -/
theorem any_kept_iff (table : TableOk s) {x : Nat} (other : x ≠ st.station.toNat) :
    (!(x == st.station.toNat) && (entriesAfterRestart s.own st.station.toNat s.entries).any fun e =>
      e.addr.station == x) = true ↔ ∃ e ∈ (s.restarted st).entries, e.addr.station = x := by
  simp only [mem_restarted table, Bool.and_eq_true, Bool.not_eq_true', beq_eq_false_iff_ne, List.any_eq_true,
    beq_iff_eq]
  constructor
  · rintro ⟨_, e, kept, station⟩
    exact ⟨e, .inr ⟨kept, kept_not_supply kept⟩, station⟩
  · rintro ⟨e, rfl | ⟨kept, _⟩, station⟩
    · exact absurd station.symm other
    · exact ⟨other, e, kept, station⟩

/-! ## The incident (R120) -/

theorem recomputed_active (l : List Entry) :
    (IncidentMonitor.recomputed l).active = true ↔ ∃ e ∈ l, e.state = .alarm := by
  change decide (0 < (l.filter _).length) = true ↔ _
  rw [decide_eq_true_iff, List.length_pos_iff_exists_mem]
  simp [List.mem_filter]

theorem recomputed_origin_none {l : List Entry} (calm : ∀ e ∈ l, e.state ≠ .alarm) :
    (IncidentMonitor.recomputed l).origin = none := by
  have empty : l.filter (fun e => e.state == .alarm) = [] := by simpa using calm
  change (firstBy _ (l.filter fun e => e.state == .alarm)).map _ = none
  rw [empty]
  rfl

end

/-- Settles O5: the table is that of R44 and R47 with the point-0 entry put in, the incident the one of the entries
kept, and every other block as after a reset. -/
theorem warmRestartKeepsThePicture : Obligations.WarmRestartKeepsThePicture := by
  intro st s table
  obtain ⟨k, engine, eq, valid, invalid⟩ := warmRestart_cases st s
  refine ⟨_, congrArg Host.Outcome.next eq, rfl, rfl, rfl, rfl, rfl, fun a notOwn notNew => ?_, fun i marker => ?_,
    fun i loop => ?_, fun moved i => ?_, fun x other low high => ?_, rfl, rfl, rfl, rfl, rfl, rfl, rfl, rfl, ?_, ?_,
    fun calm => ?_, fun e held alarm first => ?_, rfl, rfl, rfl, rfl, rfl, rfl, rfl, rfl, rfl, rfl, rfl, rfl, rfl, rfl,
    rfl, fun range => valid range, fun range => invalid (by omega)⟩
  · refine (restarted_entryAt a).trans ?_
    rw [if_neg fun k => notNew (congrArg Address.station k)]
    exact find_kept_foreign notOwn notNew _
  · refine (restarted_entryAt _).trans ?_
    rw [if_neg fun k => absurd (congrArg Address.index k) (by dsimp only; omega), find_kept_new]
    exact if_congr (and_iff_left marker) rfl rfl
  · refine (restarted_entryAt _).trans ?_
    rw [find_kept_new, if_neg (c := st.station.toNat = s.own ∧ 64 ≤ i) fun k => absurd k.2 (Nat.not_le.mpr loop)]
    exact if_congr (by simp) rfl rfl
  · refine (restarted_entryAt _).trans ?_
    rw [if_neg fun k => moved (congrArg Address.station k).symm]
    exact find_kept_old moved i _
  · have record := origin_restarted (st := st) low high
    have holds := any_kept_iff (st := st) table other
    change ((s.restarted st).origin x).status = (if (∃ e ∈ (s.restarted st).entries, e.addr.station = x) then _ else _) ∧
      ((s.restarted st).origin x).held = _ ∧ ((s.restarted st).origin x).interval = _ ∧
      ((s.restarted st).origin x).silence = _ ∧ ((s.restarted st).origin x).overflow = _ ∧
      ((s.restarted st).origin x).revision = _ ∧ ((s.restarted st).origin x).conditions = _ ∧
      ((s.restarted st).origin x).resync = _
    rw [record]
    exact ⟨if_congr holds rfl rfl, rfl, rfl, rfl, rfl, rfl, rfl, rfl⟩
  · have ok := pictureOk_warmRestart table st
    rw [eq] at ok
    exact ok.2.1
  · change (IncidentMonitor.recomputed (entriesAfterRestart s.own st.station.toNat s.entries)).active = true ↔
      ∃ e ∈ (s.restarted st).entries, e.state = .alarm
    rw [recomputed_active]
    exact exists_congr fun e => ⟨fun ⟨kept, alarm⟩ => ⟨(mem_restarted_alarm table alarm).mpr kept, alarm⟩,
      fun ⟨held, alarm⟩ => ⟨(mem_restarted_alarm table alarm).mp held, alarm⟩⟩
  · exact recomputed_origin_none fun e kept alarm =>
      calm e ((mem_restarted_alarm (st := st) table alarm).mpr kept) alarm
  · have oldest := oldestAlarm_of_first (s := s.setEntries (entriesAfterRestart s.own st.station.toNat s.entries))
      (restarted_rising table) ((mem_restarted_alarm (st := st) table alarm).mp held) alarm
      fun y kept isAlarm apart => (namedBefore_iff e y).mpr
        (first y ((mem_restarted_alarm (st := st) table isAlarm).mpr kept) isAlarm apart)
    change (oldestAlarm (entriesAfterRestart s.own st.station.toNat s.entries)).map IncidentOrigin.ofEntry = _
    have oldest : oldestAlarm (entriesAfterRestart s.own st.station.toNat s.entries) = some e := oldest
    rw [oldest]
    rfl

end Sys2Proof.Machine
end

section
/-!
PROOFS. The routing of a picture change (R145, R163, R164, R171).
-/
namespace Sys2Proof.Machine

/-! ## The match of a watch (R164) -/

theorem Location.known_iff (l : Location) : l.known = true ↔ l.floor ≠ 127 := by
  simp [Location.known]

theorem PictureChange.touches_iff (pc : PictureChange) (n : Nat) :
    pc.touches n = true ↔ sheetOf pc.entry.place = some n ∨ pc.prevSheet = some (some n) := by
  simp [PictureChange.touches]

theorem matches_point (pc : PictureChange) (rank : Nat) (a : Address) :
    Watch.matches ⟨.point a, rank⟩ pc = true ↔ pc.entry.addr = a ∧ rank ≤ pc.rank := by
  simp [Watch.matches, WatchMode.met]

theorem matches_floor (pc : PictureChange) (rank f : Nat) :
    Watch.matches ⟨.floor f, rank⟩ pc = true ↔
      pc.entry.loc.floor ≠ 127 ∧ pc.entry.loc.floor = f ∧ rank ≤ pc.rank := by
  simp [Watch.matches, WatchMode.met, Location.known_iff, and_assoc]

theorem matches_floorBand (pc : PictureChange) (rank f : Nat) :
    Watch.matches ⟨.floorBand f, rank⟩ pc = true ↔
      pc.entry.loc.floor ≠ 127 ∧ pc.entry.loc.floor / 8 = f / 8 ∧ rank ≤ pc.rank := by
  simp [Watch.matches, WatchMode.met, Location.known_iff, and_assoc]

theorem matches_compartment (pc : PictureChange) (rank f c : Nat) :
    Watch.matches ⟨.compartment f c, rank⟩ pc = true ↔
      pc.entry.loc.floor ≠ 127 ∧ pc.entry.loc.floor = f ∧ pc.entry.loc.compartment = c ∧ rank ≤ pc.rank := by
  simp [Watch.matches, WatchMode.met, Location.known_iff, and_assoc]

theorem PictureChange.rank_of_state {pc : PictureChange} {p : PointState} (state : pc.kind = .state)
    (prev : pc.prevState = some p) : pc.rank = max pc.entry.state.rank p.rank := by
  simp [PictureChange.rank, state, prev]

theorem PictureChange.rank_of_other {pc : PictureChange} (other : pc.kind ≠ .state) :
    pc.rank = pc.entry.state.rank := by
  unfold PictureChange.rank
  split
  case h_1 state _ => exact absurd state other
  case h_2 => rfl

theorem Channel.watches_iff (c : Channel) (pc : PictureChange) :
    c.watches pc = true ↔ ∃ w, (c.watch0 = some w ∨ c.watch1 = some w) ∧ w.matches pc = true := by
  unfold Channel.watches
  cases c.watch0 <;> cases c.watch1 <;> simp [or_and_right, exists_or]

/-! ## The update and the late set -/

theorem removalFlag_none (pc : PictureChange) :
    removalFlag pc none = decide (pc.kind = .remove ∨ pc.kind = .evict) := by
  rw [Bool.eq_iff_iff]
  simp [removalFlag]

theorem removalFlag_some (pc : PictureChange) (m : Nat) :
    removalFlag pc (some m) = decide (pc.kind = .remove ∨ pc.kind = .evict ∨
      (pc.prevSheet = some (some m) ∧ sheetOf pc.entry.place ≠ some m)) := by
  rw [Bool.eq_iff_iff]
  simp [removalFlag, or_assoc]

/-- A notice puts nothing in the queue but a NOTICE PENDING. -/
theorem mem_queue_raise {c : Channel} {n : Notice} {msg : Message} (inside : msg ∈ (c.raise n).queue) :
    msg ∈ c.queue ∨ msg = .noticePending := by
  unfold Channel.raise at inside
  split at inside
  · exact .inl inside
  · split at inside
    · exact .inl inside
    · dsimp only at inside
      split at inside
      · unfold Channel.composeNoticePending at inside
        split at inside
        · simpa [Channel.push] using inside
        · exact .inl inside
      · exact .inl inside

theorem raise_otherChannels (s : State) (n : Notice) (ch : Fin 4) : OtherChannelsSame ch s (s.raise n ch) :=
  fun _ other => channel_setChannel_ne _ _ other

theorem queueUpdate_otherChannels (pc : PictureChange) (f : Option Nat) (ch : Fin 4) (s : State) :
    OtherChannelsSame ch s (queueUpdate pc f ch s) := by
  unfold queueUpdate
  split
  · exact raise_otherChannels _ _ _
  · exact fun _ other => channel_setChannel_ne _ _ other

theorem queueUpdate_bundles (pc : PictureChange) (f : Option Nat) (ch : Fin 4) (s : State) :
    (queueUpdate pc f ch s).bundles = s.bundles := by
  unfold queueUpdate
  split <;> rfl

theorem queueUpdate_clear {pc : PictureChange} {f : Option Nat} {ch : Fin 4} {s : State}
    (clear : (s.channel ch).condensed = false) : ((queueUpdate pc f ch s).channel ch).queue =
      (s.channel ch).queue ++ [.markUpdate pc.kind (removalFlag pc f) (s.markOf pc.entry)] := by
  rw [queueUpdate, if_neg (by simp [clear]), State.enqueue, channel_setChannel_same, Channel.push]

theorem queueUpdate_condensed {pc : PictureChange} {f : Option Nat} {ch : Fin 4} {s : State}
    (attached : (s.channel ch).attached.isSome = true) (condensed : (s.channel ch).condensed = true) :
    NoticeSet.has ((queueUpdate pc f ch s).channel ch).notices .pictureChanged = true ∧
      ∀ msg ∈ ((queueUpdate pc f ch s).channel ch).queue, msg ∈ (s.channel ch).queue ∨ msg = .noticePending := by
  rw [queueUpdate, if_pos condensed, State.raise, channel_setChannel_same, Channel.has_raise]
  exact ⟨by simp [attached], fun _ inside => mem_queue_raise inside⟩

/-- A notice that the set holds stays in it when an update is queued. -/
theorem has_queueUpdate {pc : PictureChange} {f : Option Nat} {ch : Fin 4} {s : State} {n : Notice}
    (held : NoticeSet.has (s.channel ch).notices n = true) :
    NoticeSet.has ((queueUpdate pc f ch s).channel ch).notices n = true := by
  unfold queueUpdate
  split
  · rw [State.raise, channel_setChannel_same, Channel.has_raise, held, Bool.true_or]
  · rw [notices_enqueue, held]

theorem offerLate_held {a : Address} {ch : Fin 4} {s : State} (held : a ∈ (s.bundle ch).late) :
    offerLate a ch s = s := by
  simp [offerLate, held]

theorem offerLate_new {a : Address} {ch : Fin 4} {s : State} (new : a ∉ (s.bundle ch).late)
    (room : (s.bundle ch).late.length < 32) : offerLate a ch s =
      s.setBundle ch { s.bundle ch with late := insertAddress a (s.bundle ch).late } := by
  simp [offerLate, new, Config.lateSetSize, room]

theorem offerLate_full {a : Address} {ch : Fin 4} {s : State} (new : a ∉ (s.bundle ch).late)
    (full : 32 ≤ (s.bundle ch).late.length) : offerLate a ch s = s.raise .sheetStale ch := by
  simp [offerLate, new, Config.lateSetSize, Nat.not_lt.mpr full]

theorem offerLate_otherChannels (a : Address) (ch : Fin 4) (s : State) :
    OtherChannelsSame ch s (offerLate a ch s) := by
  unfold offerLate
  dsimp only
  split
  · exact fun _ _ => rfl
  · split
    · exact fun _ _ => channel_setBundle _ _ _ _
    · exact raise_otherChannels _ _ _

/-- The channel of the bundle after an offer: a full set raises SHEET_STALE on it. -/
theorem channel_offerLate (a : Address) (ch : Fin 4) (s : State) : (offerLate a ch s).channel ch =
    if a ∉ (s.bundle ch).late ∧ 32 ≤ (s.bundle ch).late.length then (s.channel ch).raise .sheetStale
    else s.channel ch := by
  by_cases held : a ∈ (s.bundle ch).late
  · rw [offerLate_held held, if_neg fun k => k.1 held]
  · by_cases room : (s.bundle ch).late.length < 32
    · rw [offerLate_new held room, channel_setBundle, if_neg fun k => Nat.not_le.mpr room k.2]
    · rw [offerLate_full held (Nat.not_lt.mp room), if_pos ⟨held, Nat.not_lt.mp room⟩, State.raise,
        channel_setChannel_same]

theorem offerLate_crew {a : Address} {ch : Fin 4} {s : State}
    (taken : a ∈ (s.bundle ch).late ∨ (s.bundle ch).late.length < 32) : (offerLate a ch s).crew = s.crew := by
  by_cases held : a ∈ (s.bundle ch).late
  · rw [offerLate_held held]
  · rw [offerLate_new held (taken.resolve_left held)]
    rfl

/-! ## The route by the first step that applies (R163) -/

/-- The bundle of the channel is in OVERLAY for a sheet that the change touches. -/
theorem Bundle.takesLate_iff (b : Bundle) (pc : PictureChange) :
    b.takesLate pc = true ↔ b.state = .overlay ∧ ∃ n, b.sheet = some n ∧ pc.touches n = true := by
  unfold Bundle.takesLate
  cases b.sheet <;> simp

theorem touched_iff (o : Option Nat) (pc : PictureChange) :
    (o.map pc.touches).getD false = true ↔ ∃ m, o = some m ∧ pc.touches m = true := by
  cases o <;> simp

section
variable {pc : PictureChange} {ch : Fin 4} {att : Attachment} {s : State} {m n : Nat}

theorem routeOn_free (free : s.isAttached ch = false) : routeOn pc ch s = s := by
  have none : (s.channel ch).attached = none := by simpa [State.isAttached] using free
  simp only [routeOn, none]

/-- Step 1 on a channel whose current sheet is the bundle's, or is not touched. -/
theorem routeOn_late (attached : (s.channel ch).attached = some att)
    (overlay : (s.bundle ch).state = .overlay) (sheet : (s.bundle ch).sheet = some n)
    (touched : pc.touches n = true)
    (same : ∀ m, (s.channel ch).currentSheet = some m → m = n ∨ pc.touches m = false) :
    routeOn pc ch s = offerLate pc.entry.addr ch s := by
  have takes := ((s.bundle ch).takesLate_iff pc).mpr ⟨overlay, n, sheet, touched⟩
  simp only [routeOn, attached, takes, if_true]
  refine if_neg fun k => ?_
  obtain ⟨on, other⟩ := Bool.and_eq_true_iff.mp k
  obtain ⟨m, current, touches⟩ := (touched_iff _ pc).mp on
  rcases same m current with rfl | untouched
  · simp [current, sheet] at other
  · simp [untouched] at touches

/-- Step 1 on a channel whose current sheet is touched and is another than the bundle's. -/
theorem routeOn_lateAndUpdate (attached : (s.channel ch).attached = some att)
    (overlay : (s.bundle ch).state = .overlay) (sheet : (s.bundle ch).sheet = some n)
    (touched : pc.touches n = true) (current : (s.channel ch).currentSheet = some m) (other : m ≠ n)
    (onCurrent : pc.touches m = true) :
    routeOn pc ch s = queueUpdate pc (some m) ch (offerLate pc.entry.addr ch s) := by
  have takes := ((s.bundle ch).takesLate_iff pc).mpr ⟨overlay, n, sheet, touched⟩
  simp [routeOn, attached, takes, current, sheet, onCurrent, other]

theorem routeOn_current (attached : (s.channel ch).attached = some att)
    (passed : (s.bundle ch).takesLate pc = false) (current : (s.channel ch).currentSheet = some m)
    (onCurrent : pc.touches m = true) : routeOn pc ch s = queueUpdate pc (some m) ch s := by
  simp [routeOn, attached, passed, current, onCurrent]

theorem routeOn_watch (attached : (s.channel ch).attached = some att)
    (passed : (s.bundle ch).takesLate pc = false)
    (off : ∀ m, (s.channel ch).currentSheet = some m → pc.touches m = false) :
    routeOn pc ch s = if (s.channel ch).watches pc && notifies s.crew.notifyVector pc att.role then
      queueUpdate pc none ch s else s := by
  have untouched : ((s.channel ch).currentSheet.map pc.touches).getD false = false := by
    rw [Bool.eq_false_iff]
    intro on
    obtain ⟨m, current, touches⟩ := (touched_iff _ pc).mp on
    simp [off m current] at touches
  simp only [routeOn, attached, passed, untouched, Bool.false_eq_true, if_false]

theorem routeOn_otherChannels (pc : PictureChange) (ch : Fin 4) (s : State) :
    OtherChannelsSame ch s (routeOn pc ch s) := by
  unfold routeOn
  dsimp only
  split
  · exact fun _ _ => rfl
  · split
    · split
      · exact fun d other => (queueUpdate_otherChannels _ _ _ _ d other).trans (offerLate_otherChannels _ _ _ d other)
      · exact offerLate_otherChannels _ _ _
    · split
      · exact queueUpdate_otherChannels _ _ _ _
      · split
        · exact queueUpdate_otherChannels _ _ _ _
        · exact fun _ _ => rfl

/-- The bundles after step 1 are those after the offer to the late set. -/
theorem routeOn_bundles_late (attached : (s.channel ch).attached = some att)
    (overlay : (s.bundle ch).state = .overlay) (sheet : (s.bundle ch).sheet = some n)
    (touched : pc.touches n = true) :
    (routeOn pc ch s).bundles = (offerLate pc.entry.addr ch s).bundles := by
  have takes := ((s.bundle ch).takesLate_iff pc).mpr ⟨overlay, n, sheet, touched⟩
  simp only [routeOn, attached, takes, if_true]
  split
  · exact queueUpdate_bundles _ _ _ _
  · rfl

theorem routeOn_bundles_passed (passed : (s.bundle ch).takesLate pc = false) :
    (routeOn pc ch s).bundles = s.bundles := by
  unfold routeOn
  dsimp only
  split
  · rfl
  · rw [passed, if_neg Bool.false_ne_true]
    split
    · exact queueUpdate_bundles _ _ _ _
    · split
      · exact queueUpdate_bundles _ _ _ _
      · rfl

/-- A full late set that the address is not of raises SHEET_STALE, and an update queued after it leaves that
notice in the set. -/
theorem routeOn_stale (attached : (s.channel ch).attached = some att)
    (overlay : (s.bundle ch).state = .overlay) (sheet : (s.bundle ch).sheet = some n)
    (touched : pc.touches n = true) (new : pc.entry.addr ∉ (s.bundle ch).late)
    (full : 32 ≤ (s.bundle ch).late.length) :
    NoticeSet.has ((routeOn pc ch s).channel ch).notices .sheetStale = true := by
  have takes := ((s.bundle ch).takesLate_iff pc).mpr ⟨overlay, n, sheet, touched⟩
  have stale : NoticeSet.has ((offerLate pc.entry.addr ch s).channel ch).notices .sheetStale = true := by
    rw [channel_offerLate, if_pos ⟨new, full⟩, Channel.has_raise]
    simp [attached]
  simp only [routeOn, attached, takes, if_true]
  split
  · exact has_queueUpdate stale
  · exact stale

end

/-- Settles O54: the route of a change is the offer to the late set, the update of the current sheet or of a
watch, or nothing, as the first step of R163 that applies has it. -/
theorem pictureChangeIsRouted : Obligations.PictureChangeIsRouted := by
  refine ⟨fun pc rank => ⟨matches_point pc rank, matches_floor pc rank, matches_floorBand pc rank,
    matches_compartment pc rank, fun _ => PictureChange.rank_of_state, PictureChange.rank_of_other⟩,
    fun _ _ => rfl, fun _ _ _ => routeOn_free, ?_⟩
  rintro pc ch att s _ attached rfl
  refine ⟨pc.touches_iff, routeOn_otherChannels pc ch s, (routeOn_told pc ch s).table,
    routeOn_incident pc ch s, fun n overlay sheet touched => ?_, fun passes => ?_⟩
  · have bundles := routeOn_bundles_late attached overlay sheet touched
    refine ⟨fun new room => ?_, fun held => ?_, fun new full => ?_, fun taken same => ?_,
      fun m c current other onCurrent past => ?_⟩
    · have late : ((routeOn pc ch s).bundle ch).late = insertAddress pc.entry.addr (s.bundle ch).late := by
        rw [State.bundle, bundles, offerLate_new new room]
        exact congrArg Bundle.late (bundle_setBundle_same s ch _)
      rw [late]
      exact ⟨mem_insertAddress.mpr (.inl rfl), length_insertAddress new⟩
    · rw [bundles, offerLate_held held]
    · exact ⟨by rw [bundles, offerLate_full new full]; rfl,
        routeOn_stale attached overlay sheet touched new full⟩
    · rw [routeOn_late attached overlay sheet touched same, offerLate_crew taken]
    · have told := offerLate_told pc.entry.addr ch s
      have mark : (offerLate pc.entry.addr ch s).markOf pc.entry = s.markOf pc.entry := by
        rw [State.markOf, State.ageOf, State.now, told.control]
        rfl
      rw [← channel_offerLate] at past
      rw [routeOn_lateAndUpdate attached overlay sheet touched current other onCurrent, past, ← removalFlag_some,
        ← mark]
      exact ⟨queueUpdate_clear, queueUpdate_condensed (by rw [(told.channel ch).attached, attached]; rfl)⟩
  · have passed : (s.bundle ch).takesLate pc = false := by
      rw [Bool.eq_false_iff]
      intro takes
      obtain ⟨overlay, n, sheet, touches⟩ := ((s.bundle ch).takesLate_iff pc).mp takes
      rcases passes with other | untouched
      · exact other overlay
      · simp [untouched n sheet] at touches
    refine ⟨routeOn_bundles_passed passed, fun m current onCurrent => ?_, fun off => ⟨?_, ?_⟩⟩
    · rw [routeOn_current attached passed current onCurrent, ← removalFlag_some]
      exact ⟨queueUpdate_clear, queueUpdate_condensed (by rw [attached]; rfl)⟩
    · rw [routeOn_watch attached passed off, ← Channel.watches_iff, ← removalFlag_none]
      intro watched notified
      rw [if_pos (by rw [watched]; exact notified)]
      exact ⟨queueUpdate_clear, fun condensed => (queueUpdate_condensed (by rw [attached]; rfl) condensed).1⟩
    · rw [routeOn_watch attached passed off]
      rintro (unwatched | quiet)
      · have unmet : (s.channel ch).watches pc = false := by
          rw [Bool.eq_false_iff, ne_eq, Channel.watches_iff]
          rintro ⟨w, watch, met⟩
          simp [unwatched w watch] at met
        rw [if_neg (by simp [unmet])]
      · have unnotified : notifies s.crew.notifyVector pc att.role = false := quiet
        rw [if_neg (by simp [unnotified])]

end Sys2Proof.Machine
end

section
/-!
PROOFS. The messages of the link and its transmitter (R152, R154, R171, R186).
-/
namespace Sys2Proof.Machine

/-! ## The reading of bytes, by the byte at their front (R186) -/

theorem linkEvents_other {b : Byte} (l : List Byte) (other : b ≠ 0xA5) : linkEvents (b :: l) = linkEvents l := by
  rw [linkEvents, List.length_cons, readLink, if_pos other]
  rfl

theorem linkEvents_short {l : List Byte} (short : l.length < 2) : linkEvents (0xA5 :: l) = ([], 0xA5 :: l) := by
  rw [linkEvents, List.length_cons, readLink, if_neg (not_not_intro rfl), if_pos short]

theorem linkEvents_badLength {l : List Byte} (held : 2 ≤ l.length) (bad : fieldAt l 0 < 2 ∨ 259 < fieldAt l 0) :
    linkEvents (0xA5 :: l) = (.badLength :: (linkEvents l).1, (linkEvents l).2) := by
  rw [linkEvents, List.length_cons, readLink, if_neg (not_not_intro rfl), if_neg (Nat.not_lt.mpr held),
    if_pos (show lengthOutOfRange (lengthField l) = true from decide_eq_true bad)]
  rfl

section
variable {l : List Byte} (least : 2 ≤ fieldAt l 0) (most : fieldAt l 0 ≤ 259)
include least most

theorem lengthField_inRange : lengthOutOfRange (lengthField l) = false := by
  exact decide_eq_false (not_or.mpr ⟨Nat.not_lt.mpr least, Nat.not_lt.mpr most⟩)

theorem linkEvents_unended (held : 2 ≤ l.length) (unended : l.length < fieldAt l 0 + 4) :
    linkEvents (0xA5 :: l) = ([], 0xA5 :: l) := by
  rw [linkEvents, List.length_cons, readLink, if_neg (not_not_intro rfl), if_neg (Nat.not_lt.mpr held),
    if_neg (by rw [lengthField_inRange least most]; exact Bool.false_ne_true)]
  exact if_pos unended

/-- A whole message is found, and the hunt goes on behind it or behind its opening byte. -/
theorem linkEvents_ended (whole : fieldAt l 0 + 4 ≤ l.length) :
    linkEvents (0xA5 :: l) = (endedMessage (fieldAt l 0 + 4) l).before
      (linkEvents ((endedMessage (fieldAt l 0 + 4) l).huntFrom (fieldAt l 0 + 4) l)) := by
  rw [linkEvents, List.length_cons, readLink, if_neg (not_not_intro rfl), if_neg (by omega),
    if_neg (by rw [lengthField_inRange least most]; exact Bool.false_ne_true)]
  refine (if_neg (Nat.not_lt.mpr whole)).trans ?_
  rw [← readLink_fuel l.length _ (huntFrom_length_le _ _ _)]
  rfl

end

/-- A whole run of bytes holds its check by the word of its last two bytes (R180). -/
theorem checkHolds_take {l : List Byte} {n : Nat} (whole : n + 4 ≤ l.length) :
    checkHolds (l.take (n + 4)) = true ↔ (checkWord (l.take (n + 2))).toNat = fieldAt l (n + 2) := by
  have length : (l.take (n + 4)).length - 2 = n + 2 := by rw [List.length_take]; omega
  have content : (l.take (n + 4)).take (n + 2) = l.take (n + 2) := by rw [List.take_take, Nat.min_eq_left (by omega)]
  have word : fieldAt (l.take (n + 4)) (n + 2) = fieldAt l (n + 2) := by
    simp [fieldAt, byteAt, List.getD_eq_getElem?_getD]
  rw [checkHolds, length, content, word, beq_iff_eq]

theorem endedMessage_bad {l : List Byte} {n : Nat} (whole : n + 4 ≤ l.length)
    (fails : (checkWord (l.take (n + 2))).toNat ≠ fieldAt l (n + 2)) : endedMessage (n + 4) l = .badCheck :=
  if_neg fun holds => fails ((checkHolds_take whole).mp holds)

theorem endedMessage_good {l : List Byte} {n : Nat} (whole : n + 4 ≤ l.length)
    (holds : (checkWord (l.take (n + 2))).toNat = fieldAt l (n + 2)) :
    endedMessage (n + 4) l = .message (l.getD 2 0) (l.getD 3 0) ((l.take (n + 2)).drop 4) :=
  if_pos ((checkHolds_take whole).mpr holds)

/-- In two bytes or fewer nothing is found. -/
theorem linkEvents_few : ∀ {l : List Byte}, l.length ≤ 2 → (linkEvents l).1 = []
  | [], _ => rfl
  | b :: l, few => by
    by_cases opening : b = 0xA5
    · subst opening
      rw [linkEvents_short (Nat.lt_of_succ_le few)]
    · rw [linkEvents_other l opening]
      exact linkEvents_few (Nat.le_of_succ_le few)

/-! ## The bytes of a command (R152) -/

theorem byte_toNat (b : Byte) : byte b.toNat = b := BitVec.eq_of_toNat_eq (by simp [byte])

theorem receive_eq {bytes left : List Byte} {es : List LinkEvent} {u : State}
    (found : linkEvents (u.crew.receiver ++ bytes) = (es, left)) :
    receive bytes u = takeLinkEvents es (u.withCrew { u.crew with receiver := left }) := by
  rw [receive, found]

/-- A command of the link is the arrival of its bytes. -/
theorem exec_bytesOf {c : Instr} {bytes : List Byte} (spelled : bytesOf c = some bytes) (s : State) :
    exec c s = .next (external (receive bytes) s) := by
  unfold bytesOf at spelled
  split at spelled
  case h_15 b =>
    split at spelled
    case isTrue first =>
      obtain rfl := Option.some.inj spelled
      change Host.Outcome.next (external (fun t => if firstLinkEvent b = some .badCheck then receive b t else t) s) = _
      rw [firstLinkEvent, first]
      rfl
    case isFalse => cases spelled
  case h_16 len =>
    split at spelled
    case isTrue bad =>
      obtain rfl := Option.some.inj spelled
      change Host.Outcome.next (external (fun t =>
        if lengthOutOfRange len.toNat then receive (0xA5 :: be16 len.toNat) t else t) s) = _
      rw [lengthOutOfRange, decide_eq_true bad]
      rfl
    case isFalse => cases spelled
  case h_17 c ty f =>
    split at spelled
    case isTrue stray =>
      obtain rfl := Option.some.inj spelled
      exact congrArg (fun g => Host.Outcome.next (external g s)) (funext fun t => if_pos stray)
    case isFalse => cases spelled
  case h_18 ch ty f =>
    split at spelled
    case isTrue => cases spelled
    case isFalse unknown =>
      obtain rfl := Option.some.inj spelled
      have other : isHubType ty.toNat = false := decide_eq_false unknown
      change Host.Outcome.next (external (fun t =>
        if isHubType ty.toNat then t else hubMessage ch ty.toNat f t) s) = _
      rw [other]
      simp only [hubMessage, byte_toNat]
      rfl
  case h_19 => cases spelled
  all_goals
    obtain rfl := Option.some.inj spelled
    rfl

section
variable {s u : State} (free : s.control.resetHeld = false) (settled : u = settle s)
include free settled

theorem exec_received {c : Instr} {bytes left : List Byte} {es : List LinkEvent}
    (spelled : bytesOf c = some bytes) (found : linkEvents (u.crew.receiver ++ bytes) = (es, left)) :
    exec c s = .next (takeLinkEvents es (u.withCrew { u.crew with receiver := left })) := by
  rw [exec_bytesOf spelled, external_free free, ← settled, receive_eq found]

theorem exec_message {c : Instr} {channel ty : Byte} {f : List Byte}
    (spelled : bytesOf c = some (messageBytes channel ty f)) (fits : f.length ≤ 257)
    (hunting : u.crew.receiver = []) : exec c s = .next (takeLinkEvent (.message channel ty f) u) := by
  rw [exec_bytesOf spelled, external_free free, ← settled, receive_messageBytes _ _ _ _ fits hunting]
  rfl

theorem exec_badCheckMessage {bytes left : List Byte} (hunting : u.crew.receiver = [])
    (found : linkEvents bytes = ([.badCheck], left)) :
    exec (.badCheckMessage bytes) s = .next (u.withCrew { u.crew with
      badCheck := min (u.crew.badCheck + 1) 65535, receiver := left }) := by
  have spelled : bytesOf (.badCheckMessage bytes) = some bytes := if_pos (by rw [found]; rfl)
  rw [exec_received free settled spelled (by rw [hunting, List.nil_append, found]), ← satSucc_eq_min]
  rfl

theorem exec_lengthOutOfRange {len : Word16} (hunting : u.crew.receiver = []) (bad : len.toNat < 2 ∨ 259 < len.toNat) :
    ∃ t, exec (.lengthOutOfRange len) s = .next t ∧ t = u.withCrew { u.crew with
      badCheck := min (u.crew.badCheck + 1) 65535, receiver := t.crew.receiver } := by
  have spelled : bytesOf (.lengthOutOfRange len) = some (0xA5 :: be16 len.toNat) := if_pos bad
  have field : fieldAt (be16 len.toNat) 0 = len.toNat := fieldAt_append_be16 [] len.toNat len.isLt
  have found : linkEvents (u.crew.receiver ++ 0xA5 :: be16 len.toNat) =
      ([.badLength], (linkEvents (be16 len.toNat)).2) := by
    rw [hunting, List.nil_append, linkEvents_badLength (l := be16 len.toNat) (Nat.le_refl 2) (by rw [field]; exact bad),
      linkEvents_few (l := be16 len.toNat) (Nat.le_refl 2)]
  refine ⟨_, exec_received free settled spelled found, ?_⟩
  rw [← satSucc_eq_min]
  rfl

end

theorem takeMessage_stray {c : Byte} (stray : 3 < c.toNat) (ty : Byte) (f : List Byte) (u : State) :
    takeMessage c ty f u = u.withCrew { u.crew with
      linkTimer := 0, stray := min (u.crew.stray + 1) 65535 } := by
  rw [takeMessage, dif_neg (by omega), ← satSucc_eq_min]
  rfl

theorem takeMessage_idle (ch : Fin 4) (f : List Byte) (u : State) :
    takeMessage (byte ch.val) 0 f u = u.withCrew { u.crew with linkTimer := 0 } := by
  have named : (byte ch.val).toNat < 4 := by simp only [byte, BitVec.toNat_ofNat]; omega
  rw [takeMessage, dif_pos named]
  rfl

/-! ## The link transmitter (R154, R171) -/

theorem serveOrder_eq (last : Fin 4) : serveOrder last = [last + 1 + 0, last + 1 + 1, last + 1 + 2, last + 1 + 3] := by
  revert last
  decide

theorem linkTake_none {u : State} (empty : ∀ ch, (u.channel ch).queue = []) :
    linkTake u = u.withCrew { u.crew with sending := none } := by
  have found : (serveOrder u.crew.lastServed).find? (fun ch => !(u.channel ch).queue.isEmpty) = none :=
    List.find?_eq_none.mpr fun ch _ => by simp [empty ch]
  rw [linkTake, found]

/-- The first of four things that has a property is the one before which none has it. -/
theorem find_first_of_four {α : Type} {p : α → Bool} {f : Fin 4 → α} {k : Fin 4}
    (before : ∀ j < k, p (f j) = false) (here : p (f k) = true) :
    [f 0, f 1, f 2, f 3].find? p = some (f k) := by
  match k with
  | 0 => simp [here]
  | 1 => simp [before 0 (by decide), here]
  | 2 => simp [before 0 (by decide), before 1 (by decide), here]
  | 3 => simp [before 0 (by decide), before 1 (by decide), before 2 (by decide), here]

/-- The rotation serves the first channel after the one served last whose queue is not empty. -/
theorem serveOrder_find {u : State} {k : Fin 4} {m : Message} {rest : List Message}
    (before : ∀ j : Fin 4, j < k → (u.channel (u.crew.lastServed + 1 + j)).queue = [])
    (head : (u.channel (u.crew.lastServed + 1 + k)).queue = m :: rest) :
    (serveOrder u.crew.lastServed).find? (fun ch => !(u.channel ch).queue.isEmpty) =
      some (u.crew.lastServed + 1 + k) := by
  rw [serveOrder_eq]
  exact find_first_of_four (f := fun j => u.crew.lastServed + 1 + j) (fun j less => by simp [before j less])
    (by simp [head])

theorem linkTake_first {u : State} {k : Fin 4} {m : Message} {rest : List Message}
    (before : ∀ j : Fin 4, j < k → (u.channel (u.crew.lastServed + 1 + j)).queue = [])
    (head : (u.channel (u.crew.lastServed + 1 + k)).queue = m :: rest) :
    linkTake u =
      let ch := u.crew.lastServed + 1 + k
      let taken := u.setChannel ch ((u.channel ch).takeHead rest)
      taken.withCrew { taken.crew with lastServed := ch, sending := some (ch, encodeMessage ch m) } := by
  rw [linkTake, serveOrder_find before head]
  dsimp only
  rw [head]

theorem Channel.takeHead_eq (c : Channel) (rest : List Message) : c.takeHead rest = { c with
    queue := (if c.condensed = true ∧ rest.length ≤ 8 then rest ++ [.resume] else rest)
    condensed := if rest.length ≤ 8 then false else c.condensed } := by
  unfold Channel.takeHead
  cases flag : c.condensed <;> by_cases few : rest.length ≤ 8 <;> simp [few, Config.condensedClears]

theorem exec_linkTransmitterTake {s u : State} (free : s.control.resetHeld = false) (settled : u = settle s) :
    exec .linkTransmitterTake s = .next (linkTake u) := by
  change Host.Outcome.next (external _ s) = _
  rw [external_free free, ← settled]

/-- Settles O52: the reading goes byte by byte by the length and the check, each command of the link is the
arrival of its bytes, and the transmitter serves the first queue of the rotation that is not empty. -/
theorem linkMessagesAndTransmitter : Obligations.LinkMessagesAndTransmitter := by
  refine ⟨fun b l => linkEvents_other l, ?_, fun l => linkEvents_badLength, ?_, ?_⟩
  · rintro l (short | ⟨least, most, unended⟩)
    · exact linkEvents_short short
    · by_cases held : 2 ≤ l.length
      · exact linkEvents_unended least most held unended
      · exact linkEvents_short (Nat.not_le.mp held)
  · rintro l _ rfl least most whole
    rw [linkEvents_ended least most whole]
    refine ⟨fun fails => ?_, fun holds => ?_⟩
    · rw [endedMessage_bad whole fails]
      rfl
    · rw [endedMessage_good whole holds]
      rfl
  · intro s u free settled
    refine ⟨fun c bytes left es => exec_received free settled, fun c channel ty f => exec_message free settled,
      fun hunting => ⟨fun ch f fits => ?_, fun c ty f stray fits => ?_, fun bytes left => exec_badCheckMessage free settled hunting,
        fun len => exec_lengthOutOfRange free settled hunting⟩,
      rfl, fun _ => rfl, fun _ _ _ => rfl, ?_, fun c ty f stray => takeMessage_stray stray ty f u,
      fun ch f => takeMessage_idle ch f u, fun empty => ?_, ?_⟩
    · rw [exec_message (c := .idle ch f) free settled rfl fits hunting]
      exact congrArg Host.Outcome.next (takeMessage_idle ch f u)
    · rw [exec_message (c := .strayChannelMessage c (ty :: f)) free settled (if_pos stray) fits hunting]
      exact congrArg Host.Outcome.next (takeMessage_stray stray ty f u)
    · rintro _ (rfl | rfl) <;> rw [← satSucc_eq_min] <;> rfl
    · rw [exec_linkTransmitterTake free settled, linkTake_none empty]
    · rintro _ k m rest rfl before head
      refine ⟨_, exec_linkTransmitterTake free settled, ?_⟩
      rw [linkTake_first before head]
      refine ⟨⟨rfl, rfl, rfl, rfl, rfl, rfl, rfl, rfl, rfl, rfl, rfl⟩,
        fun d other => channel_setChannel_ne u _ other, rfl, rfl, ?_⟩
      rw [← Channel.takeHead_eq]
      exact channel_setChannel_same u _ _

end Sys2Proof.Machine
end

section
/-!
PROOFS. The Bundle Engine and the Plan Store Controller: what a request does to the queues and the engine, what a
bundle composes and asks for, and what the delivery of a report leaves alone (R126 to R150).
-/
namespace Sys2Proof.Machine

/-! ## The requests of the controller (R123, R126, R127, R134) -/

section
variable {p : PlanStore} {st : Straps} {r : ReadRequest} {n : Nat}

/-- A HANDLE request is answered at once where no layout tells of the sheet. -/
theorem request_unlocated (what : r.what = .handle n)
    (nowhere : p.layout = none ∨ ∃ l, p.layout = some l ∧ l.sheetCount ≤ n) :
    p.request st r = (p, [.answer r .absent []]) := by
  rcases nowhere with none | ⟨l, layout, past⟩
  · simp only [PlanStore.request, what, none]
  · simp only [PlanStore.request, what, layout, if_pos past]

theorem request_located {l : Layout} (what : r.what = .handle n) (layout : p.layout = some l)
    (below : n < l.sheetCount) :
    p.request st r = (p.enter { r with block := handleBlock l n }).advance st := by
  simp only [PlanStore.request, what, layout, if_neg (Nat.not_le.mpr below)]

theorem request_block (what : r.what = .block) :
    p.request st r = (p.enter { r with block := reduceBlock r.block }).advance st := by
  simp only [PlanStore.request, what]

theorem ReadEngine.isIdle_iff (e : ReadEngine) : e.isIdle = true ↔ e = .idle := by
  cases e <;> simp [ReadEngine.isIdle]

theorem enter_engine (p : PlanStore) (r : ReadRequest) : (p.enter r).engine = p.engine :=
  (enter_spec p r).2.1

theorem advance_busy (busy : p.engine ≠ .idle) : p.advance st = (p, []) :=
  if_neg fun idle => busy ((ReadEngine.isIdle_iff _).mp idle)

theorem request_busy_located {l : Layout} (what : r.what = .handle n) (layout : p.layout = some l)
    (below : n < l.sheetCount) (busy : p.engine ≠ .idle) :
    p.request st r = (p.enter { r with block := handleBlock l n }, []) := by
  rw [request_located what layout below, advance_busy (by rwa [enter_engine])]

theorem request_busy_block (what : r.what = .block) (busy : p.engine ≠ .idle) :
    p.request st r = (p.enter { r with block := reduceBlock r.block }, []) := by
  rw [request_block what, advance_busy (by rwa [enter_engine])]

/-- An IDLE engine with nothing waiting takes a request as it comes. -/
theorem enter_advance (idle : p.engine = .idle) (main : p.mainQueue = []) (promote : p.promoteQueue = []) :
    (p.enter r).advance st = if populated st r.block then ({ p with engine := .first r false }, [])
      else ({ p with absent := sat16 p.absent }, [.answer r .absent []]) := by
  obtain ⟨layout, _, _, _, rereads, damaged, absent⟩ := p
  subst idle main promote
  unfold PlanStore.enter
  split <;> cases at_ : populated st r.block <;>
    simp [PlanStore.advance, ReadEngine.isIdle, takeNext, PlanStore.pop, at_]

end

/-! ## What a bundle composes (R139 to R147) -/

section
variable {s : State} {b : Bundle}

theorem composeNext_pending (waits : b.pendingMsg ≠ none) : composeNext s b = b :=
  if_pos (Option.isSome_iff_ne_none.mpr waits)

theorem composeNext_lookup (state : b.state = .lookup) : composeNext s b = b := by
  unfold composeNext
  split
  · rfl
  · rw [state]

theorem composeNext_idle (state : b.state = .idle) : composeNext s b = b := by
  unfold composeNext
  split
  · rfl
  · rw [state]

variable (quiet : b.pendingMsg = none)
include quiet

theorem composeNext_head (state : b.state = .stream) (owed : b.head = .owed) :
    composeNext s b = { b.awaiting (headMessage s b) with head := .waiting } := by
  simp [composeNext, quiet, state, owed]

theorem composeNext_waiting (state : b.state = .stream) (waiting : b.head = .waiting) : composeNext s b = b := by
  simp [composeNext, quiet, state, waiting]

theorem composeNext_done (state : b.state = .stream) (placed : b.head = .placed) {h : Handle}
    (handle : b.handle = some h) (done : b.blockCursor = h.blockCount) :
    composeNext s b = (enterOverlay s b).awaiting (overlayNext (enterOverlay s b)) := by
  simp [composeNext, quiet, state, placed, handle, done]

theorem composeNext_noBlock (state : b.state = .stream) (placed : b.head = .placed) {h : Handle}
    (handle : b.handle = some h) (more : b.blockCursor < h.blockCount) (empty : b.buffer = []) :
    composeNext s b = b := by
  simp [composeNext, quiet, state, placed, handle, Nat.ne_of_lt more, empty]

theorem composeNext_block (state : b.state = .stream) (placed : b.head = .placed) {h : Handle}
    (handle : b.handle = some h) (more : b.blockCursor < h.blockCount) {k : BufferedBlock} {l : List BufferedBlock}
    (front : b.buffer = k :: l) (next : k.index = b.blockCursor) :
    composeNext s b = b.awaiting (.block k.index k.damaged k.content) := by
  simp [composeNext, quiet, state, placed, handle, Nat.ne_of_lt more, front, next]

theorem composeNext_overlay (state : b.state = .overlay) : composeNext s b = b.awaiting (overlayNext b) := by
  simp [composeNext, quiet, state]

theorem composeNext_late (state : b.state = .closing) {a : Address} {l : List Address} (late : b.late = a :: l) :
    composeNext s b = { b.awaiting (lateMark s (b.sheet.getD 0) a) with late := l } := by
  simp [composeNext, quiet, state, late]

end

/-- What a bundle keeps while its answers come in and its messages are composed. -/
structure Bundle.Kept (b d : Bundle) : Prop where
  sheet : d.sheet = b.sheet
  urgent : d.urgent = b.urgent
  blockCursor : d.blockCursor = b.blockCursor
  damagedCount : d.damagedCount = b.damagedCount
  pendingSheet : d.pendingSheet = b.pendingSheet

theorem Bundle.Kept.refl (b : Bundle) : b.Kept b := ⟨rfl, rfl, rfl, rfl, rfl⟩

theorem Bundle.Kept.trans {b c d : Bundle} (h : b.Kept c) (k : c.Kept d) : b.Kept d :=
  ⟨k.sheet.trans h.sheet, k.urgent.trans h.urgent, k.blockCursor.trans h.blockCursor,
    k.damagedCount.trans h.damagedCount, k.pendingSheet.trans h.pendingSheet⟩

/-- A message composed keeps these and the reads, the handle and the buffer too. -/
theorem composeNext_kept (s : State) (b : Bundle) : b.Kept (composeNext s b) ∧
    (composeNext s b).readCursor = b.readCursor ∧ (composeNext s b).outstanding = b.outstanding ∧
    (composeNext s b).handle = b.handle ∧ (composeNext s b).buffer = b.buffer := by
  have self : b.Kept b ∧ b.readCursor = b.readCursor ∧ b.outstanding = b.outstanding ∧ b.handle = b.handle ∧
    b.buffer = b.buffer := ⟨.refl b, rfl, rfl, rfl, rfl⟩
  unfold composeNext
  split
  · exact self
  · split
    · exact self
    · exact self
    · split
      · exact ⟨⟨rfl, rfl, rfl, rfl, rfl⟩, rfl, rfl, rfl, rfl⟩
      · exact self
      · split
        · exact ⟨⟨rfl, rfl, rfl, rfl, rfl⟩, rfl, rfl, rfl, rfl⟩
        · split
          · split
            · exact ⟨⟨rfl, rfl, rfl, rfl, rfl⟩, rfl, rfl, rfl, rfl⟩
            · exact self
          · exact self
    · exact ⟨⟨rfl, rfl, rfl, rfl, rfl⟩, rfl, rfl, rfl, rfl⟩
    · split
      · exact ⟨⟨rfl, rfl, rfl, rfl, rfl⟩, rfl, rfl, rfl, rfl⟩
      · exact self

/-! ## The block reads that a bundle issues (R141) -/

theorem Bundle.mayRead_iff (b : Bundle) : b.mayRead = true ↔ ∃ h, b.handle = some h ∧ b.state = .stream ∧
    h.absent = false ∧ b.readCursor < h.blockCount ∧ b.outstanding + b.buffer.length < 2 := by
  unfold Bundle.mayRead
  cases b.handle <;> simp [and_assoc]

section
variable {s : State} {ch : Fin 4} {b : Bundle}

/-- The bundle with one more read issued. -/
def Bundle.asking (b : Bundle) : Bundle :=
  { b with readCursor := b.readCursor + 1, outstanding := b.outstanding + 1 }

theorem issueRead_none (may : b.mayRead = false) : issueRead ch (s.setBundle ch b) = (s.setBundle ch b, []) := by
  rw [issueRead, bundle_setBundle_same, if_neg (by rw [may]; exact Bool.false_ne_true)]

theorem issueRead_one (may : b.mayRead = true) : issueRead ch (s.setBundle ch b) =
    ((s.withStore (s.store.request s.control.straps (b.nextRead ch)).1).setBundle ch b.asking,
      (s.store.request s.control.straps (b.nextRead ch)).2) := by
  rw [issueRead, bundle_setBundle_same, if_pos may, setBundle_setBundle]
  rfl

theorem issueReads_none (may : b.mayRead = false) :
    issueReads ch (s.setBundle ch b) = (s.setBundle ch b, []) := by
  simp only [issueReads, issueRead_none may, List.append_nil]

theorem issueReads_one (may : b.mayRead = true) (full : b.asking.mayRead = false) :
    issueReads ch (s.setBundle ch b) =
      ((s.withStore (s.store.request s.control.straps (b.nextRead ch)).1).setBundle ch b.asking,
        (s.store.request s.control.straps (b.nextRead ch)).2) := by
  simp only [issueReads, issueRead_one may, issueRead_none full, List.append_nil]

end

/-! ## What the reports leave alone -/

/-- The whole part but the Plan Store Controller and the bundles is unchanged. -/
def OnlyReads (s t : State) : Prop := t = { s with store := t.store, bundles := t.bundles }

section
variable {s t u : State}

theorem OnlyReads.refl (s : State) : OnlyReads s s := rfl

theorem OnlyReads.trans (h : OnlyReads s t) (k : OnlyReads t u) : OnlyReads s u :=
  Eq.trans k (congrArg (fun v : State => { v with store := u.store, bundles := u.bundles }) h)

theorem OnlyReads.control (h : OnlyReads s t) : t.control = s.control := by
  rw [h]

theorem OnlyReads.table (h : OnlyReads s t) : t.table = s.table := by
  rw [h]

theorem OnlyReads.crew (h : OnlyReads s t) : t.crew = s.crew := by
  rw [h]

theorem OnlyReads.channel (h : OnlyReads s t) (ch : Fin 4) : t.channel ch = s.channel ch := by
  rw [State.channel, h.crew, State.channel]

end

theorem askStore_onlyReads (r : ReadRequest) (s : State) : OnlyReads s (askStore r s).1 := rfl

theorem setBundle_onlyReads (s : State) (ch : Fin 4) (b : Bundle) : OnlyReads s (s.setBundle ch b) := rfl

theorem issueRead_onlyReads (ch : Fin 4) (s : State) : OnlyReads s (issueRead ch s).1 := by
  unfold issueRead
  dsimp only
  split <;> rfl

theorem issueReads_onlyReads (ch : Fin 4) (s : State) : OnlyReads s (issueReads ch s).1 :=
  (issueRead_onlyReads ch s).trans (issueRead_onlyReads ch _)

/-- A read issued keeps every bundle's sheet, urgency, cursor, count and pending sheet. -/
theorem issueRead_keptBundle (ch d : Fin 4) (s : State) : (s.bundle d).Kept ((issueRead ch s).1.bundle d) := by
  unfold issueRead
  dsimp only
  split
  · change (s.bundle d).Kept ((s.setBundle ch (s.bundle ch).asking).bundle d)
    rw [bundle_setBundle]
    split
    case isTrue same => rw [same]; exact ⟨rfl, rfl, rfl, rfl, rfl⟩
    case isFalse => exact .refl _
  · exact .refl _

theorem issueReads_keptBundle (ch d : Fin 4) (s : State) : (s.bundle d).Kept ((issueReads ch s).1.bundle d) :=
  (issueRead_keptBundle ch d s).trans (issueRead_keptBundle ch d _)

theorem setBundle_keptBundle {s : State} {ch : Fin 4} {b : Bundle} (h : (s.bundle ch).Kept b) (d : Fin 4) :
    (s.bundle d).Kept ((s.setBundle ch b).bundle d) := by
  rw [bundle_setBundle]
  split
  case isTrue same => rw [same]; exact h
  case isFalse => exact .refl _

theorem composeBundle_keptBundle (ch d : Fin 4) (s : State) : (s.bundle d).Kept ((composeBundle ch s).bundle d) :=
  setBundle_keptBundle (composeNext_kept s _).1 d

theorem bundleHears_onlyReads (rep : StoreReport) (s : State) : OnlyReads s (bundleHears rep s).1 := by
  unfold bundleHears
  split
  · exact (setBundle_onlyReads _ _ _).trans (issueReads_onlyReads _ _)
  · split
    · exact .refl s
    · dsimp only
      split
      · exact ((setBundle_onlyReads _ _ _).trans (issueReads_onlyReads _ _)).trans (setBundle_onlyReads _ _ _)
      · exact (setBundle_onlyReads _ _ _).trans (setBundle_onlyReads _ _ _)
      · exact .refl s

theorem bundleHears_keptBundle (rep : StoreReport) (d : Fin 4) (s : State) :
    (s.bundle d).Kept ((bundleHears rep s).1.bundle d) := by
  unfold bundleHears
  split
  · exact (setBundle_keptBundle (by exact ⟨rfl, rfl, rfl, rfl, rfl⟩) d).trans (issueReads_keptBundle _ d _)
  · split
    · exact .refl _
    · dsimp only
      split
      · exact ((setBundle_keptBundle (by exact ⟨rfl, rfl, rfl, rfl, rfl⟩) d).trans (issueReads_keptBundle _ d _)).trans
          (composeBundle_keptBundle _ d _)
      · exact (setBundle_keptBundle (by exact ⟨rfl, rfl, rfl, rfl, rfl⟩) d).trans (composeBundle_keptBundle _ d _)
      · exact .refl _

/-! ## Delivery (R129) -/

/-- While the station runs the loader takes no answer, so every report is one for the Bundle Engine. -/
theorem hears_running {s : State} (running : s.control.running = true) (rep : StoreReport) :
    hears rep s = bundleHears rep s := by
  unfold hears
  split
  · rfl
  · next r code data =>
    split
    · next who => simp only [loaderHears, running, if_true, bundleHears, who]
    · rfl

theorem hears_channel {r : ReadRequest} {ch : Fin 4} (who : r.who = .channel ch) (code : ReadCode) (data : List Byte)
    (s : State) : hears (.answer r code data) s = bundleHears (.answer r code data) s := by
  simp only [hears, who]

@[simp] theorem deliver_nil (n : Nat) (s : State) : deliver n [] s = s := by
  cases n <;> rfl

/-- A property of the reports left and the state that every delivery of a running station keeps holds at the end. -/
theorem deliver_keeps {P : List StoreReport → State → Prop} {Q : State → Prop}
    (running : ∀ l s, P l s → s.control.running = true)
    (hear : ∀ rep l s, P (rep :: l) s → P (l ++ (bundleHears rep s).2) (bundleHears rep s).1)
    (done : ∀ l s, P l s → Q s) : ∀ (n : Nat) (l : List StoreReport) (s : State), P l s → Q (deliver n l s)
  | 0, l, s, h => done l s h
  | n + 1, [], s, h => done [] s h
  | n + 1, rep :: l, s, h => by
    have heard := hear rep l s h
    rw [← hears_running (running _ _ h) rep] at heard
    exact deliver_keeps running hear done n _ _ heard

/-- What is delivered to a running station reaches the bundles alone, and keeps what a bundle keeps. -/
theorem deliver_keptBundle {s : State} (running : s.control.running = true) (n : Nat) (l : List StoreReport) :
    OnlyReads s (deliver n l s) ∧ ∀ d, (s.bundle d).Kept ((deliver n l s).bundle d) :=
  deliver_keeps (P := fun _ t => OnlyReads s t ∧ ∀ d, (s.bundle d).Kept (t.bundle d))
    (Q := fun t => OnlyReads s t ∧ ∀ d, (s.bundle d).Kept (t.bundle d))
    (fun _ _ h => by rw [h.1.control, running])
    (fun rep _ t h => ⟨h.1.trans (bundleHears_onlyReads rep t), fun d => (h.2 d).trans (bundleHears_keptBundle rep d t)⟩)
    (fun _ _ h => h) n l s ⟨.refl s, fun _ => .refl _⟩

/-! ## The beginning of a bundle (R138, R139) -/

theorem handleFrom_absent (data : List Byte) : handleFrom .absent data = .ofAbsent := rfl

section
variable {s : State} {ch : Fin 4} {n : Nat}

/-- A handle that tells of no sheet asks for no block. -/
theorem bundleHears_noPlan {r : ReadRequest} {code : ReadCode} {data : List Byte} (who : r.who = .channel ch)
    (what : r.what = .handle n) (lookup : (s.bundle ch).state = .lookup)
    (absent : (handleFrom code data).absent = true) : bundleHears (.answer r code data) s =
      (composeBundle ch (s.setBundle ch (takeHandle (s.bundle ch) (handleFrom code data))), []) := by
  have may : (takeHandle (s.bundle ch) (handleFrom code data)).mayRead = false := by
    simp [Bundle.mayRead, takeHandle, absent]
  simp only [bundleHears, who, what, lookup, issueReads_none may]

/-- The bundle of a sheet that the image does not hold, its BUNDLE HEAD composed. -/
def Bundle.withoutPlan (b : Bundle) (n : Nat) (urgent : Bool) (rev : Option Nat) : Bundle :=
  { b.begun n urgent with
    state := .stream, handle := some .ofAbsent, outstanding := b.outstanding, head := .waiting
    pendingMsg := some (.bundleHead n 127 0 rev true urgent) }

/-- The HANDLE request of a bundle that begins. -/
def handleRequest (ch : Fin 4) (n block : Nat) (urgent : Bool) : ReadRequest :=
  { who := .channel ch, what := .handle n, block := block, demand := true, urgent := urgent }

/-- The state with a bundle begun. -/
def begunAt (ch : Fin 4) (n : Nat) (s : State) : State :=
  s.setBundle ch ((s.bundle ch).begun n (sheetUrgent s n))

theorem beginBundle_eq (ch : Fin 4) (n : Nat) (s : State) : beginBundle ch n s =
    ((begunAt ch n s).withStore
        (s.store.request s.control.straps (handleRequest ch n 0 (sheetUrgent s n))).1,
      (s.store.request s.control.straps (handleRequest ch n 0 (sheetUrgent s n))).2) := rfl

/-- An ABSENT answer to the HANDLE request of a bundle just begun, delivered. -/
theorem deliver_noPlan (quiet : (s.bundle ch).pendingMsg = none) (p : PlanStore) (block : Nat) :
    deliver deliverFuel [.answer (handleRequest ch n block (sheetUrgent s n)) .absent []]
        ((begunAt ch n s).withStore p) =
      (s.withStore p).setBundle ch ((s.bundle ch).withoutPlan n (sheetUrgent s n) s.ownRevision) := by
  have bundle : ((begunAt ch n s).withStore p).bundle ch = (s.bundle ch).begun n (sheetUrgent s n) :=
    bundle_setBundle_same s ch _
  have heard := bundleHears_noPlan (s := (begunAt ch n s).withStore p)
    (r := handleRequest ch n block (sheetUrgent s n)) (code := .absent) (data := []) rfl rfl
    (by rw [bundle]; rfl) rfl
  have delivered : deliver deliverFuel [.answer (handleRequest ch n block (sheetUrgent s n)) .absent []]
      ((begunAt ch n s).withStore p) = deliver 63 (hears (.answer (handleRequest ch n block (sheetUrgent s n)) .absent [])
        ((begunAt ch n s).withStore p)).2 (hears (.answer (handleRequest ch n block (sheetUrgent s n)) .absent [])
        ((begunAt ch n s).withStore p)).1 := rfl
  rw [delivered, hears_channel rfl, heard, deliver_nil, composeBundle, bundle_setBundle_same, setBundle_setBundle,
    composeNext_head (by rw [bundle]; exact quiet) rfl (by rw [bundle]; rfl), bundle]
  change ((s.withStore p).setBundle ch _).setBundle ch _ = _
  rw [setBundle_setBundle]
  rfl

theorem begin_unlocated (quiet : (s.bundle ch).pendingMsg = none)
    (nowhere : s.store.layout = none ∨ ∃ l, s.store.layout = some l ∧ l.sheetCount ≤ n) :
    settleReports (beginBundle ch n s) =
      s.setBundle ch ((s.bundle ch).withoutPlan n (sheetUrgent s n) s.ownRevision) := by
  rw [beginBundle_eq, request_unlocated (n := n) rfl nowhere]
  exact deliver_noPlan quiet s.store 0

variable {l : Layout} (layout : s.store.layout = some l) (below : n < l.sheetCount)
include layout below

theorem begin_busy (busy : s.store.engine ≠ .idle) : settleReports (beginBundle ch n s) =
    (begunAt ch n s).withStore
      (s.store.enter (handleRequest ch n (handleBlock l n) (sheetUrgent s n))) := by
  rw [beginBundle_eq, request_busy_located (n := n) rfl layout below busy]
  rfl

variable (idle : s.store.engine = .idle) (ok : s.store.EngineOk)
include idle ok

theorem begin_reading (at_ : populated s.control.straps (handleBlock l n) = true) :
    settleReports (beginBundle ch n s) = (begunAt ch n s).withStore
      { s.store with engine := .first (handleRequest ch n (handleBlock l n) (sheetUrgent s n)) false } := by
  obtain ⟨main, promote⟩ := ok idle
  rw [beginBundle_eq, request_located (n := n) rfl layout below, enter_advance idle main promote, if_pos at_]
  rfl

theorem begin_unpopulated (quiet : (s.bundle ch).pendingMsg = none)
    (nowhere : populated s.control.straps (handleBlock l n) = false) :
    settleReports (beginBundle ch n s) = (s.withStore { s.store with absent := sat16 s.store.absent }).setBundle ch
      ((s.bundle ch).withoutPlan n (sheetUrgent s n) s.ownRevision) := by
  obtain ⟨main, promote⟩ := ok idle
  rw [beginBundle_eq, request_located (n := n) rfl layout below, enter_advance idle main promote,
    if_neg (by rw [Bool.eq_false_iff] at nowhere; exact nowhere)]
  exact deliver_noPlan quiet _ _

end

theorem sheetUrgent_iff (s : State) (n : Nat) : sheetUrgent s n = true ↔
    ∃ e ∈ s.entries, sheetOf e.place = some n ∧ 5 ≤ e.state.rank := by
  simp [sheetUrgent]

end Sys2Proof.Machine
end

section
/-!
PROOFS. SHEET requests: the bundle that begins, and the abort of the one in progress (R130, R138, R148).
-/
namespace Sys2Proof.Machine

section
variable {s u : State} {ch : Fin 4}

/-- A SHEET request carried out begins a bundle, aborts one, or waits for its turn (R138). -/
theorem exec_sheet (free : s.control.resetHeld = false) (settled : u = settle s) (hunting : u.crew.receiver = [])
    (running : u.control.running = true) (quiet : (u.channel ch).pendingAnswer = none)
    (attached : u.isAttached ch = true) {hi lo : Byte} (known : ofBe16 hi lo ≤ 1022) :
    exec (.sheet ch [hi, lo]) s = .next (settleReports (sheetRequest ch (ofBe16 hi lo) (linkAlive u))) := by
  have fields : sheetFields [hi, lo] = some (ofBe16 hi lo) := if_pos known
  have taken := external_request free settled hunting ch (n := 3) (f := [hi, lo]) (by decide) (by decide) (by simp)
  have carried := takeRequest_carried (type := typeSheet) (attaching := false) (carry := sheetCarried ch)
    (u := linkAlive u) quiet running fields (.inl attached)
  exact congrArg Host.Outcome.next (taken.trans carried)

/-- Reports settled in a running station reach the bundles alone. -/
theorem settleReports_onlyReads {out : State × List StoreReport} (h : OnlyReads s out.1)
    (running : s.control.running = true) : OnlyReads s (settleReports out) :=
  h.trans (deliver_keptBundle (by rw [h.control, running]) _ _).1

theorem beginBundle_onlyReads (ch : Fin 4) (n : Nat) (s : State) : OnlyReads s (beginBundle ch n s).1 := rfl

theorem sheetRequest_onlyReads (ch : Fin 4) (n : Nat) (s : State) : OnlyReads s (sheetRequest ch n s).1 := by
  unfold sheetRequest
  dsimp only
  split <;> rfl

/-! ## An IDLE bundle begins (R138) -/

theorem sheetRequest_idle {n : Nat} (idle : (s.bundle ch).state = .idle) :
    sheetRequest ch n s = beginBundle ch n s := by
  simp only [sheetRequest, idle]

theorem sheetRequest_closing {n : Nat} (closing : (s.bundle ch).state = .closing) :
    sheetRequest ch n s = (s.setBundle ch { s.bundle ch with pendingSheet := some n }, []) := by
  simp only [sheetRequest, closing]

theorem sheetRequest_abort {n : Nat} (busy : (s.bundle ch).state = .lookup ∨ (s.bundle ch).state = .stream ∨
    (s.bundle ch).state = .overlay) : sheetRequest ch n s = abortForSheet ch n s := by
  rcases busy with k | k | k <;> simp only [sheetRequest, k]

/-- The fields that a bundle just begun has, with its handle or without. -/
theorem begunAt_bundle (ch : Fin 4) (n : Nat) (s : State) :
    (begunAt ch n s).bundle ch = (s.bundle ch).begun n (sheetUrgent s n) := bundle_setBundle_same s ch _

/-- A bundle of a sheet with the cursors, the lists and the urgency of one just begun. -/
def Bundle.Fresh (b : Bundle) (n : Nat) (urgent : Bool) : Prop :=
  b.sheet = some n ∧ b.blockCursor = 0 ∧ b.damagedCount = 0 ∧ b.snapshot = [] ∧ b.buffer = [] ∧ b.urgent = urgent

theorem begun_fresh (b : Bundle) (n : Nat) (urgent : Bool) : (b.begun n urgent).Fresh n urgent :=
  ⟨rfl, rfl, rfl, rfl, rfl, rfl⟩

theorem withoutPlan_fresh (b : Bundle) (n : Nat) (urgent : Bool) (rev : Option Nat) :
    (b.withoutPlan n urgent rev).Fresh n urgent := ⟨rfl, rfl, rfl, rfl, rfl, rfl⟩

/-- An urgent HANDLE request enters the promote queue where it has room and nothing of its channel waits (R126). -/
theorem enter_handleRequest (p : PlanStore) (n block : Nat) (urgent : Bool) :
    if urgent = true ∧ p.promoteQueue.length < 2 ∧ ∀ q ∈ p.mainQueue, q.who ≠ .channel ch then
      (p.enter (handleRequest ch n block urgent)).promoteQueue =
          p.promoteQueue ++ [handleRequest ch n block urgent] ∧
        (p.enter (handleRequest ch n block urgent)).mainQueue = p.mainQueue
    else (p.enter (handleRequest ch n block urgent)).mainQueue = p.mainQueue ++ [handleRequest ch n block urgent] ∧
      (p.enter (handleRequest ch n block urgent)).promoteQueue = p.promoteQueue := by
  have same : ((handleRequest ch n block urgent).demand && (handleRequest ch n block urgent).urgent &&
      decide (p.promoteQueue.length < 2) &&
      !(p.mainQueue.any fun q => q.who == (handleRequest ch n block urgent).who)) = true ↔
      urgent = true ∧ p.promoteQueue.length < 2 ∧ ∀ q ∈ p.mainQueue, q.who ≠ .channel ch := by
    simp [handleRequest, and_assoc]
  split
  case isTrue may => simp only [PlanStore.enter, if_pos (same.mpr may), and_self]
  case isFalse may => simp only [PlanStore.enter, if_neg (fun k => may (same.mp k)), and_self]

/-- A bundle just begun is fresh, whatever its HANDLE request comes to (R138). -/
theorem begin_fresh {n : Nat} (quiet : (s.bundle ch).pendingMsg = none) (ok : s.store.EngineOk) :
    ((settleReports (beginBundle ch n s)).bundle ch).Fresh n (sheetUrgent s n) := by
  have begun : ((begunAt ch n s).bundle ch).Fresh n (sheetUrgent s n) := by
    rw [begunAt_bundle]
    exact begun_fresh _ _ _
  have unplanned (v : State) : ((v.setBundle ch ((s.bundle ch).withoutPlan n (sheetUrgent s n) s.ownRevision)).bundle
      ch).Fresh n (sheetUrgent s n) := by
    rw [bundle_setBundle_same]
    exact withoutPlan_fresh _ _ _ _
  cases layout : s.store.layout with
  | none =>
    rw [begin_unlocated quiet (.inl layout)]
    exact unplanned s
  | some l =>
    by_cases past : l.sheetCount ≤ n
    · rw [begin_unlocated quiet (.inr ⟨l, layout, past⟩)]
      exact unplanned s
    · have below := Nat.not_le.mp past
      by_cases idle : s.store.engine = .idle
      · cases at_ : populated s.control.straps (handleBlock l n) with
        | true =>
          rw [begin_reading layout below idle ok at_]
          exact begun
        | false =>
          rw [begin_unpopulated layout below idle ok quiet at_]
          exact unplanned _
      · rw [begin_busy layout below idle]
        exact begun

end

/-- Settles O44: the HANDLE request of the bundle that begins is answered at once, queued or taken. -/
theorem sheetBeginsABundle : Obligations.SheetBeginsABundle := by
  rintro ch hi lo n att s u free settled hunting running quiet attached rfl known ok
  have taken : u.isAttached ch = true := by rw [State.isAttached, attached]; rfl
  have only := settleReports_onlyReads (sheetRequest_onlyReads ch (ofBe16 hi lo) (linkAlive u)) running
  refine ⟨_, exec_sheet free settled hunting running quiet taken known, fun d => only.channel d, only.table,
    fun idle calm => ?_, fun closing => ?_⟩
  · rw [sheetRequest_idle (s := linkAlive u) idle]
    obtain ⟨sheet, cursor, damaged, snapshot, buffer, urgent⟩ :=
      begin_fresh (s := linkAlive u) (ch := ch) (n := ofBe16 hi lo) calm ok
    have same : sheetUrgent (linkAlive u) (ofBe16 hi lo) = sheetUrgent u (ofBe16 hi lo) := rfl
    refine ⟨sheet, cursor, damaged, snapshot, buffer, by rw [urgent, same, sheetUrgent_iff], ?_⟩
    rw [urgent]
    refine ⟨fun nowhere => ?_, fun l layout below busy => ?_, fun l layout below rest at_ => ?_,
      fun l layout below rest nowhere => ?_⟩
    · rw [begin_unlocated (s := linkAlive u) calm nowhere, bundle_setBundle_same]
      exact ⟨rfl, rfl, rfl, rfl, rfl⟩
    · rw [begin_busy (s := linkAlive u) layout below busy]
      have bundle := begunAt_bundle ch (ofBe16 hi lo) (linkAlive u)
      refine ⟨congrArg Bundle.state bundle, congrArg Bundle.handle bundle, congrArg Bundle.outstanding bundle,
        enter_engine _ _, enter_handleRequest _ _ _ _⟩
    · rw [begin_reading (s := linkAlive u) layout below rest ok at_]
      have bundle := begunAt_bundle ch (ofBe16 hi lo) (linkAlive u)
      exact ⟨congrArg Bundle.state bundle, congrArg Bundle.handle bundle, rfl⟩
    · rw [begin_unpopulated (s := linkAlive u) layout below rest ok calm nowhere, bundle_setBundle_same,
        ← satSucc_eq_min]
      exact ⟨rfl, rfl, rfl, rfl, rfl⟩
  · rw [sheetRequest_closing (s := linkAlive u) closing]
    exact ⟨rfl, bundle_setBundle_same _ _ _⟩

/-! ## The reads of a channel whose bundle begins anew (R130, R148) -/

/-- All that waits for a channel is the HANDLE request of a sheet, and a read in flight stays. -/
structure PlanStore.OwnHandleOnly (p : PlanStore) (ch : Fin 4) (n : Nat) (e : ReadEngine) : Prop where
  main : ∀ r ∈ p.mainQueue, r.who = .channel ch → r.what = .handle n
  promote : ∀ r ∈ p.promoteQueue, r.who = .channel ch → r.what = .handle n
  engine : e ≠ .idle → p.engine = e

/-- Reports of reads that no transfer was made for, a channel's among them of the HANDLE request of a sheet alone. -/
def AbsentAnswers (ch : Fin 4) (n : Nat) (l : List StoreReport) : Prop :=
  ∀ rep ∈ l, ∃ r : ReadRequest, rep = .answer r .absent [] ∧ (r.who = .channel ch → r.what = .handle n)

section
variable {p : PlanStore} {ch : Fin 4} {n : Nat} {e : ReadEngine}

theorem absentAnswers_nil (ch : Fin 4) (n : Nat) : AbsentAnswers ch n [] := fun _ k => nomatch k

theorem absentAnswers_append {l m : List StoreReport} (h : AbsentAnswers ch n l) (k : AbsentAnswers ch n m) :
    AbsentAnswers ch n (l ++ m) := fun rep inside => (List.mem_append.mp inside).elim (h rep) (k rep)

theorem absentAnswers_cons {r : ReadRequest} {l : List StoreReport} (own : r.who = .channel ch → r.what = .handle n)
    (k : AbsentAnswers ch n l) : AbsentAnswers ch n (.answer r .absent [] :: l) :=
  absentAnswers_append (l := [_]) (fun _ inside => ⟨r, List.mem_singleton.mp inside, own⟩) k

theorem PlanStore.OwnHandleOnly.pop {q : PlanStore} {r : ReadRequest} (h : p.OwnHandleOnly ch n e)
    (taken : p.pop = some (r, q)) : q.OwnHandleOnly ch n e ∧ (r.who = .channel ch → r.what = .handle n) := by
  unfold PlanStore.pop at taken
  split at taken
  case h_1 promote =>
    obtain ⟨rfl, rfl⟩ := Prod.mk.inj (Option.some.inj taken)
    exact ⟨⟨h.main, fun x k => h.promote x (promote ▸ List.mem_cons_of_mem _ k), h.engine⟩,
      h.promote _ (promote ▸ List.mem_cons_self)⟩
  case h_2 main =>
    obtain ⟨rfl, rfl⟩ := Prod.mk.inj (Option.some.inj taken)
    exact ⟨⟨fun x k => h.main x (main ▸ List.mem_cons_of_mem _ k), h.promote, h.engine⟩,
      h.main _ (main ▸ List.mem_cons_self)⟩
  case h_3 => cases taken

/-- An IDLE engine takes requests: those that end at once answer ABSENT. -/
theorem PlanStore.OwnHandleOnly.takeNext (st : Straps) (k : Nat) (p : PlanStore) (idle : p.engine = .idle)
    (h : p.OwnHandleOnly ch n e) : (Machine.takeNext st k p).1.OwnHandleOnly ch n e ∧
      AbsentAnswers ch n (Machine.takeNext st k p).2 := by
  induction k generalizing p with
  | zero => exact ⟨h, absentAnswers_nil _ _⟩
  | succ k ih =>
    unfold Machine.takeNext
    split
    case h_1 => exact ⟨h, absentAnswers_nil _ _⟩
    case h_2 r q taken =>
      obtain ⟨left, own⟩ := h.pop taken
      obtain ⟨_, _, engine, _⟩ := pop_some taken
      split
      case isTrue =>
        exact ⟨⟨left.main, left.promote, fun work => absurd ((h.engine work).symm.trans idle) work⟩,
          absentAnswers_nil _ _⟩
      case isFalse =>
        obtain ⟨rest, answers⟩ := ih { q with absent := sat16 q.absent } (engine.trans idle)
          ⟨left.main, left.promote, left.engine⟩
        exact ⟨rest, absentAnswers_cons own answers⟩

theorem PlanStore.OwnHandleOnly.advance (h : p.OwnHandleOnly ch n e) (st : Straps) :
    (p.advance st).1.OwnHandleOnly ch n e ∧ AbsentAnswers ch n (p.advance st).2 := by
  unfold PlanStore.advance
  split
  case isTrue idle => exact PlanStore.OwnHandleOnly.takeNext st _ p ((ReadEngine.isIdle_iff _).mp idle) h
  case isFalse => exact ⟨h, absentAnswers_nil _ _⟩

theorem PlanStore.OwnHandleOnly.enter (h : p.OwnHandleOnly ch n e) {r : ReadRequest}
    (own : r.who = .channel ch → r.what = .handle n) : (p.enter r).OwnHandleOnly ch n e := by
  have joined {l : List ReadRequest} (k : ∀ x ∈ l, x.who = .channel ch → x.what = .handle n) :
      ∀ x ∈ l ++ [r], x.who = .channel ch → x.what = .handle n := fun x inside =>
    (List.mem_append.mp inside).elim (k x) fun one => (List.mem_singleton.mp one) ▸ own
  unfold PlanStore.enter
  split
  · exact ⟨h.main, joined h.promote, h.engine⟩
  · exact ⟨joined h.main, h.promote, h.engine⟩

theorem PlanStore.OwnHandleOnly.request (h : p.OwnHandleOnly ch n e) (st : Straps) {r : ReadRequest}
    (own : r.who = .channel ch → r.what = .handle n) : (p.request st r).1.OwnHandleOnly ch n e ∧
      AbsentAnswers ch n (p.request st r).2 := by
  have at_once : AbsentAnswers ch n [.answer r .absent []] := absentAnswers_cons own (absentAnswers_nil _ _)
  have entered (k : Nat) := (h.enter (r := { r with block := k }) own).advance st
  unfold PlanStore.request
  split
  · exact ⟨h, at_once⟩
  · split
    · exact ⟨h, at_once⟩
    · exact entered _
  · exact entered _

end

/-- A bundle begun anew stands as its sheet has it: nothing of the aborted bundle but its END is left, and
its HANDLE request waits or was answered with no plan. -/
structure Bundle.Renewed (b : Bundle) (n : Nat) (m : Message) : Prop where
  sheet : b.sheet = some n
  late : b.late = []
  buffer : b.buffer = []
  snapshot : b.snapshot = []
  pendingMsg : b.pendingMsg = some m
  waits : b.state = .lookup ∨ b.state = .stream

/-- What holds of a running station while the reports of a bundle begun anew are delivered. -/
structure Renewing (ch : Fin 4) (n : Nat) (m : Message) (e : ReadEngine) (l : List StoreReport) (s : State) : Prop where
  running : s.control.running = true
  bundle : (s.bundle ch).Renewed n m
  store : s.store.OwnHandleOnly ch n e
  reports : AbsentAnswers ch n l

section
variable {ch : Fin 4} {n : Nat} {m : Message} {e : ReadEngine} {l : List StoreReport} {s : State}

/-- Another bundle moves. -/
theorem Renewing.setOther (h : Renewing ch n m e l s) {d : Fin 4} (other : d ≠ ch) (b : Bundle) :
    Renewing ch n m e l (s.setBundle d b) :=
  ⟨h.running, by rw [bundle_setBundle, if_neg other.symm]; exact h.bundle, h.store, h.reports⟩

theorem Renewing.issueRead (h : Renewing ch n m e l s) {d : Fin 4} (other : d ≠ ch) :
    Renewing ch n m e (l ++ (issueRead d s).2) (issueRead d s).1 := by
  unfold Machine.issueRead
  dsimp only
  split
  · have moved := h.setOther other (s.bundle d).asking
    obtain ⟨store, answers⟩ := h.store.request s.control.straps (r := (s.bundle d).nextRead d)
      fun own => absurd (Requester.channel.inj own) other
    exact ⟨moved.running, moved.bundle, store, absentAnswers_append h.reports answers⟩
  · rw [List.append_nil]
    exact h

theorem Renewing.issueReads (h : Renewing ch n m e l s) {d : Fin 4} (other : d ≠ ch) :
    Renewing ch n m e (l ++ (issueReads d s).2) (issueReads d s).1 := by
  unfold Machine.issueReads
  dsimp only
  rw [← List.append_assoc]
  exact (h.issueRead other).issueRead other

theorem takeHandle_renewed {b : Bundle} (h : b.Renewed n m) (k : Handle) : (takeHandle b k).Renewed n m :=
  ⟨h.sheet, h.late, h.buffer, h.snapshot, h.pendingMsg, .inr rfl⟩

/-- Every report of a read that no transfer was made for leaves the renewed bundle so: its own HANDLE answer
tells of no plan, and no other is for it. -/
theorem Renewing.hear {rep : StoreReport} (h : Renewing ch n m e (rep :: l) s) :
    Renewing ch n m e (l ++ (bundleHears rep s).2) (bundleHears rep s).1 := by
  obtain ⟨r, rfl, own⟩ := h.reports rep List.mem_cons_self
  have rest : Renewing ch n m e l s :=
    ⟨h.running, h.bundle, h.store, fun x inside => h.reports x (List.mem_cons_of_mem _ inside)⟩
  have unmoved : Renewing ch n m e (l ++ []) s := by rw [List.append_nil]; exact rest
  cases who : r.who with
  | loader =>
    simp only [bundleHears, who]
    exact unmoved
  | channel d =>
    by_cases same : d = ch
    · subst same
      have what := own who
      rcases h.bundle.waits with lookup | stream
      · rw [bundleHears_noPlan who what lookup rfl, composeBundle, bundle_setBundle_same, setBundle_setBundle]
        have renewed := takeHandle_renewed h.bundle (handleFrom .absent [])
        rw [composeNext_pending (by rw [renewed.pendingMsg]; exact Option.some_ne_none _), List.append_nil]
        exact ⟨rest.running, by rw [bundle_setBundle_same]; exact renewed, rest.store, rest.reports⟩
      · simp only [bundleHears, who, what, stream]
        exact unmoved
    · unfold bundleHears
      simp only [who]
      split
      · exact ((rest.setOther same _).issueReads same).setOther same _
      · rw [List.append_nil]
        exact (rest.setOther same _).setOther same _
      · exact unmoved

/-- The delivery of the reports of a bundle begun anew. -/
theorem Renewing.settled {out : State × List StoreReport} (h : Renewing ch n m e out.2 out.1) :
    Renewing ch n m e [] (settleReports out) :=
  deliver_keeps (P := Renewing ch n m e) (Q := Renewing ch n m e []) (fun _ _ k => k.running) (fun _ _ _ k => k.hear)
    (fun _ _ k => ⟨k.running, k.bundle, k.store, absentAnswers_nil _ _⟩) _ _ _ h

/-- An abort leaves of the bundle its END, and of its reads the orphaned one (R148). -/
theorem abortForSheet_renewing (running : s.control.running = true) (ch : Fin 4) (n : Nat) :
    Renewing ch n (abortedEnd (s.bundle ch)) (s.store.cancel ch).engine (abortForSheet ch n s).2
      (abortForSheet ch n s).1 := by
  have bundle : (cancelReads ch s).bundle ch =
      { s.bundle ch with outstanding := (s.bundle ch).outstanding - s.store.queuedFor ch } := bundle_setBundle_same s ch _
  obtain ⟨main, promote, _⟩ := cancel_spec s.store ch
  have empty : (s.store.cancel ch).OwnHandleOnly ch n (s.store.cancel ch).engine :=
    ⟨fun r inside own => absurd own (main r inside), fun r inside own => absurd own (promote r inside), fun _ => rfl⟩
  obtain ⟨store, answers⟩ := empty.request s.control.straps
    (r := handleRequest ch n 0 (sheetUrgent s n)) fun _ => rfl
  refine ⟨running, ?_, store, answers⟩
  rw [abortForSheet, beginBundle_eq]
  change ((begunAt ch n _).bundle ch).Renewed n _
  rw [begunAt_bundle, bundle_setBundle_same, bundle]
  exact ⟨rfl, rfl, rfl, rfl, rfl, .inl rfl⟩

end

/-- Settles O45: through every delivery the renewed bundle stays so, and its channel's reads are its HANDLE
request and the orphaned read in flight. -/
theorem newSheetAbortsTheBundle : Obligations.NewSheetAbortsTheBundle := by
  intro ch hi lo att s u free settled hunting running quiet attached known busy
  have taken : u.isAttached ch = true := by rw [State.isAttached, attached]; rfl
  have only := settleReports_onlyReads (sheetRequest_onlyReads ch (ofBe16 hi lo) (linkAlive u)) running
  refine ⟨_, exec_sheet free settled hunting running quiet taken known, fun d => only.channel d, ?_⟩
  have renewed := (abortForSheet_renewing (s := linkAlive u) running ch (ofBe16 hi lo)).settled
  rw [sheetRequest_abort (s := linkAlive u) busy]
  obtain ⟨sheet, late, buffer, snapshot, pending, _⟩ := renewed.bundle
  refine ⟨sheet, late, buffer, snapshot, pending, renewed.store.main, renewed.store.promote,
    fun r o flight own => ?_, fun r o flight own => ?_⟩
  · have engine : ((linkAlive u).store.cancel ch).engine = .first r true := cancel_first flight own
    exact (renewed.store.engine (by rw [engine]; exact fun k => nomatch k)).trans engine
  · have engine : ((linkAlive u).store.cancel ch).engine = .second r true := cancel_second flight own
    exact (renewed.store.engine (by rw [engine]; exact fun k => nomatch k)).trans engine

end Sys2Proof.Machine
end

section
/-!
PROOFS. The placing of a bundle's messages (R140 to R147, R170).
-/
namespace Sys2Proof.Machine

section
variable {s : State} {ch : Fin 4}

/-! ## The bundle's turn (R170) -/

/-- Where nothing else of the channel waits, the bundle's message is next as soon as its room is free. -/
theorem nextWaiter_bundle (only : OnlyBundleWaits (s.channel ch)) :
    nextWaiter s ch = if bundleFits (s.channel ch) (s.bundle ch) then some .bundle else none := by
  obtain ⟨quiet, calm, none_, ends⟩ := only
  have unlisted : nextListMessage s (s.channel ch) = none := by simp [nextListMessage, none_, ends]
  simp [nextWaiter, quiet, calm, unlisted]

theorem exec_bundleMessagePlaced (free : s.control.resetHeld = false) :
    exec (.bundleMessagePlaced ch) s = .next (placeIfNext .bundle ch s) := by
  change Host.Outcome.next (internal _ s) = _
  rw [internal_free free]

theorem exec_bundle_full (free : s.control.resetHeld = false) (only : OnlyBundleWaits (s.channel ch))
    (full : bundleFits (s.channel ch) (s.bundle ch) = false) : exec (.bundleMessagePlaced ch) s = .next s := by
  have other : nextWaiter s ch ≠ some .bundle := by simp [nextWaiter_bundle only, full]
  rw [exec_bundleMessagePlaced free, placeIfNext_of_other other]

theorem bundleFits_iff {c : Channel} {b : Bundle} {m : Message} (pending : b.pendingMsg = some m) :
    bundleFits c b = true ↔ m.room ≤ 24 - c.queue.length := by
  simp only [bundleFits, pending, Channel.room, Config.outboundPlaces]
  exact decide_eq_true_iff

/-- The state with the bundle's message at the tail of its queue. -/
def queued (ch : Fin 4) (m : Message) (s : State) : State := s.enqueue ch m

theorem queued_queue (ch : Fin 4) (m : Message) (s : State) :
    ((queued ch m s).channel ch).queue = (s.channel ch).queue ++ [m] :=
  congrArg Channel.queue (channel_setChannel_same s ch _)

theorem queued_others (ch : Fin 4) (m : Message) (s : State) : OtherChannelsSame ch s (queued ch m s) :=
  fun _ other => channel_setChannel_ne s _ other

theorem exec_bundle_placed (free : s.control.resetHeld = false) (only : OnlyBundleWaits (s.channel ch)) {m : Message}
    (pending : (s.bundle ch).pendingMsg = some m) (room : m.room ≤ 24 - (s.channel ch).queue.length) :
    exec (.bundleMessagePlaced ch) s = .next (composeBundle ch (settleReports
      (afterPlacing ch (finalMessage (s.bundle ch) m) (queued ch (finalMessage (s.bundle ch) m) s)))) := by
  have next : nextWaiter s ch = some .bundle := by
    rw [nextWaiter_bundle only, if_pos ((bundleFits_iff pending).mpr room)]
  rw [exec_bundleMessagePlaced free, placeIfNext_of_next next]
  simp only [place, placeBundleMessage, pending]
  rfl

/-- The bundle with its pending message placed. -/
def Bundle.sent (b : Bundle) : Bundle := { b with pendingMsg := none }

theorem composeBundle_set (s : State) (ch : Fin 4) (b : Bundle) :
    composeBundle ch (s.setBundle ch b) = s.setBundle ch (composeNext (s.setBundle ch b) b) := by
  rw [composeBundle, bundle_setBundle_same, setBundle_setBundle]

theorem composeBundle_fixed (same : composeNext s (s.bundle ch) = s.bundle ch) : composeBundle ch s = s := by
  rw [composeBundle, same, setBundle_self]

theorem composeBundle_onlyReads (ch : Fin 4) (s : State) : OnlyReads s (composeBundle ch s) := rfl

theorem composeBundle_store (ch : Fin 4) (s : State) : (composeBundle ch s).store = s.store := rfl

theorem composeBundle_bundle (ch : Fin 4) (s : State) :
    (composeBundle ch s).bundle ch = composeNext s (s.bundle ch) := bundle_setBundle_same s ch _

/-- What a placing leaves when all it does beyond the queue is at the bundles. -/
theorem onlyReads_placed {m : Message} {t : State} (h : OnlyReads (queued ch m s) t) :
    (t.channel ch).queue = (s.channel ch).queue ++ [m] ∧ OtherChannelsSame ch s t :=
  ⟨(congrArg Channel.queue (h.channel ch)).trans (queued_queue ch m s),
    fun d other => (h.channel d).trans (queued_others ch m s d other)⟩

end

/-! ## A BLOCK (R140 to R142) -/

/-- The bundle after its front block was placed. -/
def Bundle.blockSent (b : Bundle) (damaged : Bool) : Bundle :=
  { b with pendingMsg := none, buffer := b.buffer.drop 1, blockCursor := b.blockCursor + 1
           damagedCount := if damaged then b.damagedCount + 1 else b.damagedCount }

theorem afterPlacing_block (ch : Fin 4) (i : Nat) (damaged : Bool) (content : List Byte) (s : State) :
    afterPlacing ch (.block i damaged content) s =
      issueReads ch (s.setBundle ch ((s.bundle ch).blockSent damaged)) := rfl

section
variable {s : State} {ch : Fin 4} {i : Nat} {damaged : Bool} {content : List Byte}

/-- The state after a BLOCK was placed. -/
def afterBlock (ch : Fin 4) (m : Message) (damaged : Bool) (s : State) : State :=
  composeBundle ch (settleReports
    (issueReads ch ((queued ch m s).setBundle ch ((s.bundle ch).blockSent damaged))))

theorem exec_block_placed (free : s.control.resetHeld = false) (only : OnlyBundleWaits (s.channel ch))
    (pending : (s.bundle ch).pendingMsg = some (.block i damaged content)) (room : (s.channel ch).queue.length ≤ 20) :
    exec (.bundleMessagePlaced ch) s = .next (afterBlock ch (.block i damaged content) damaged s) := by
  have fits : (Message.block i damaged content).room ≤ 24 - (s.channel ch).queue.length := by
    simp only [Message.room, Config.blockRoom]
    omega
  exact exec_bundle_placed free only pending fits

/-- Whatever reports the reads bring about, the block is queued and the cursor has moved. -/
theorem afterBlock_moves (running : s.control.running = true) (m : Message) :
    OnlyReads (queued ch m s) (afterBlock ch m damaged s) ∧
      ((s.bundle ch).blockSent damaged).Kept ((afterBlock ch m damaged s).bundle ch) := by
  have issued := issueReads_onlyReads ch ((queued ch m s).setBundle ch ((s.bundle ch).blockSent damaged))
  have issuedKept := issueReads_keptBundle ch ch ((queued ch m s).setBundle ch ((s.bundle ch).blockSent damaged))
  rw [bundle_setBundle_same] at issuedKept
  obtain ⟨delivered, kept⟩ := deliver_keptBundle
    (s := (issueReads ch ((queued ch m s).setBundle ch ((s.bundle ch).blockSent damaged))).1)
    (by rw [issued.control]; exact running) deliverFuel
    (issueReads ch ((queued ch m s).setBundle ch ((s.bundle ch).blockSent damaged))).2
  exact ⟨((setBundle_onlyReads (queued ch m s) ch _).trans issued).trans (delivered.trans (composeBundle_onlyReads ch _)),
    issuedKept.trans ((kept ch).trans (composeBundle_keptBundle ch ch _))⟩

/-- The last block leads to OVERLAY (R142). -/
theorem afterBlock_last {h : Handle} (m : Message) (state : (s.bundle ch).state = .stream)
    (placed : (s.bundle ch).head = .placed) (handle : (s.bundle ch).handle = some h)
    (last : h.blockCount = (s.bundle ch).blockCursor + 1) (read : h.blockCount ≤ (s.bundle ch).readCursor) :
    ((afterBlock ch m damaged s).bundle ch).state = .overlay := by
  have may : ((s.bundle ch).blockSent damaged).mayRead = false := by
    simp [Bundle.mayRead, Bundle.blockSent, handle, Nat.not_lt.mpr read]
  rw [afterBlock, issueReads_none may]
  change ((composeBundle ch ((queued ch m s).setBundle ch _)).bundle ch).state = _
  rw [composeBundle_set, bundle_setBundle_same,
    composeNext_done (b := (s.bundle ch).blockSent damaged) rfl state placed handle last.symm]
  rfl

/-- The place a BLOCK leaves in the buffer makes room for one read more (R141). -/
theorem afterBlock_reads {h : Handle} (m : Message) (state : (s.bundle ch).state = .stream)
    (handle : (s.bundle ch).handle = some h) (present : h.absent = false)
    (more : (s.bundle ch).readCursor < h.blockCount) (held : 1 ≤ (s.bundle ch).buffer.length)
    (full : (s.bundle ch).outstanding + (s.bundle ch).buffer.length = 2) (busy : s.store.engine ≠ .idle) :
    ((afterBlock ch m damaged s).bundle ch).readCursor = (s.bundle ch).readCursor + 1 ∧
      ((afterBlock ch m damaged s).bundle ch).outstanding = (s.bundle ch).outstanding + 1 ∧
      (afterBlock ch m damaged s).store = (s.store.request s.control.straps
        { who := .channel ch, what := .block, block := h.firstBlock + (s.bundle ch).readCursor, demand := true,
          urgent := (s.bundle ch).urgent }).1 := by
  have length : ((s.bundle ch).blockSent damaged).buffer.length = (s.bundle ch).buffer.length - 1 := by
    simp [Bundle.blockSent]
  have may : ((s.bundle ch).blockSent damaged).mayRead = true := by
    refine (Bundle.mayRead_iff _).mpr ⟨h, handle, state, present, more, ?_⟩
    rw [length]
    change (s.bundle ch).outstanding + _ < 2
    omega
  have enough : ((s.bundle ch).blockSent damaged).asking.mayRead = false := by
    rw [Bool.eq_false_iff, ne_eq, Bundle.mayRead_iff]
    rintro ⟨_, _, _, _, _, room⟩
    change (s.bundle ch).outstanding + 1 + ((s.bundle ch).blockSent damaged).buffer.length < 2 at room
    rw [length] at room
    omega
  have request : ((s.bundle ch).blockSent damaged).nextRead ch =
      { who := .channel ch, what := .block, block := h.firstBlock + (s.bundle ch).readCursor, demand := true,
        urgent := (s.bundle ch).urgent } := by
    simp [Bundle.nextRead, Bundle.blockSent, handle]
  have issued := issueReads_one (s := queued ch m s) (ch := ch) may enough
  rw [request_busy_block rfl (show (queued ch m s).store.engine ≠ .idle from busy)] at issued
  rw [afterBlock, issued]
  obtain ⟨_, reads, out, _⟩ := composeNext_kept
    (((queued ch m s).withStore ((queued ch m s).store.enter
      { ((s.bundle ch).blockSent damaged).nextRead ch with
        block := reduceBlock (((s.bundle ch).blockSent damaged).nextRead ch).block })).setBundle ch
      ((s.bundle ch).blockSent damaged).asking) ((s.bundle ch).blockSent damaged).asking
  change ((composeBundle ch (State.setBundle _ ch _)).bundle ch).readCursor = _ ∧
    ((composeBundle ch (State.setBundle _ ch _)).bundle ch).outstanding = _ ∧ (composeBundle ch _).store = _
  rw [composeBundle_set, bundle_setBundle_same]
  refine ⟨reads, out, ?_⟩
  rw [request_busy_block rfl busy, ← request]
  rfl

end

/-! ## A message that brings no report about -/

section
variable {s : State} {ch : Fin 4} {m : Message} {b : Bundle}

/-- The state after a message whose placing is at its bundle alone. -/
def afterMessage (ch : Fin 4) (m : Message) (b : Bundle) (s : State) : State :=
  (queued ch m s).setBundle ch (composeNext ((queued ch m s).setBundle ch b) b)

theorem exec_placed_quietly (free : s.control.resetHeld = false) (only : OnlyBundleWaits (s.channel ch))
    (pending : (s.bundle ch).pendingMsg = some m) (one : m.room = 1) (final : finalMessage (s.bundle ch) m = m)
    (room : (s.channel ch).queue.length < 24)
    (placed : afterPlacing ch m (queued ch m s) = ((queued ch m s).setBundle ch b, [])) :
    exec (.bundleMessagePlaced ch) s = .next (afterMessage ch m b s) := by
  rw [exec_bundle_placed free only pending (by omega), final, placed]
  exact congrArg Host.Outcome.next (composeBundle_set _ ch b)

theorem afterMessage_onlyReads : OnlyReads (queued ch m s) (afterMessage ch m b s) := rfl

theorem afterMessage_store : (afterMessage ch m b s).store = s.store := rfl

theorem afterMessage_bundle : (afterMessage ch m b s).bundle ch = composeNext ((queued ch m s).setBundle ch b) b :=
  bundle_setBundle_same _ _ _

end

/-! ## A late mark (R147) -/

theorem lateMark_addr (s : State) (sheet : Nat) (a : Address) :
    ∃ removal m, lateMark s sheet a = .markUpdate .late removal m ∧ m.addr = a := by
  unfold lateMark
  split
  case h_1 e held =>
    split
    · exact ⟨_, _, rfl, addr_of_entryAt held⟩
    · exact ⟨_, _, rfl, addr_of_entryAt held⟩
  case h_2 => exact ⟨_, _, rfl, rfl⟩

/-- A late mark tells of the entry while it is on the sheet, and is a removal otherwise (R147). -/
theorem lateMark_onSheet {s : State} {sheet : Nat} {a : Address} {e : Entry} (held : s.entryAt a = some e)
    (on : sheetOf e.place = some sheet) : lateMark s sheet a = .markUpdate .late false (s.markOf e) := by
  simp only [lateMark, held, if_pos on]

theorem lateMark_offSheet {s : State} {sheet : Nat} {a : Address}
    (off : ∀ e, s.entryAt a = some e → sheetOf e.place ≠ some sheet) :
    ∃ k, lateMark s sheet a = .markUpdate .late true k ∧ k.addr = a := by
  unfold lateMark
  split
  case h_1 e held => exact ⟨_, if_neg (off e held), addr_of_entryAt held⟩
  case h_2 => exact ⟨_, rfl, rfl⟩

section
variable {s : State} {ch : Fin 4}

theorem afterPlacing_late_more {removal : Bool} {m : Mark} (more : (s.bundle ch).late ≠ []) :
    afterPlacing ch (.markUpdate .late removal m) s = (s.setBundle ch (s.bundle ch).sent, []) :=
  if_neg fun k => more k.2

theorem afterPlacing_late_last {removal : Bool} {m : Mark} (closing : (s.bundle ch).state = .closing)
    (none_ : (s.bundle ch).late = []) (unasked : (s.bundle ch).pendingSheet = none) :
    afterPlacing ch (.markUpdate .late removal m) s = (s.setBundle ch { (s.bundle ch).sent with state := .idle }, []) := by
  refine (if_pos ⟨closing, none_⟩).trans ?_
  simp only [unasked, Bundle.sent]

theorem afterPlacing_late_next {removal : Bool} {m : Mark} {p : Nat} (closing : (s.bundle ch).state = .closing)
    (none_ : (s.bundle ch).late = []) (asked : (s.bundle ch).pendingSheet = some p) :
    afterPlacing ch (.markUpdate .late removal m) s =
      beginBundle ch p (s.setBundle ch { (s.bundle ch).sent with state := .idle, pendingSheet := none }) := by
  refine (if_pos ⟨closing, none_⟩).trans ?_
  simp only [asked, Bundle.sent]

/-! ## The bundle of the pending sheet (R138) -/

/-- The state in which the bundle of the pending sheet begins. -/
def closedAt (ch : Fin 4) (m : Message) (s : State) : State :=
  (queued ch m s).setBundle ch { (s.bundle ch).sent with state := .idle, pendingSheet := none }

theorem closedAt_bundle (ch : Fin 4) (m : Message) (s : State) :
    (closedAt ch m s).bundle ch = { (s.bundle ch).sent with state := .idle, pendingSheet := none } :=
  bundle_setBundle_same _ _ _

theorem closedAt_onlyReads (ch : Fin 4) (m : Message) (s : State) : OnlyReads (queued ch m s) (closedAt ch m s) := rfl

/-- Whatever the HANDLE request comes to, the bundle of the sheet has begun with the sheet's urgency. -/
theorem begin_kept (running : s.control.running = true) (n : Nat) :
    OnlyReads s (settleReports (beginBundle ch n s)) ∧
      ((s.bundle ch).begun n (sheetUrgent s n)).Kept ((settleReports (beginBundle ch n s)).bundle ch) := by
  have begun : (beginBundle ch n s).1.bundle ch = (s.bundle ch).begun n (sheetUrgent s n) := begunAt_bundle ch n s
  obtain ⟨only, kept⟩ := deliver_keptBundle (s := (beginBundle ch n s).1) running deliverFuel (beginBundle ch n s).2
  have own := kept ch
  rw [begun] at own
  exact ⟨(beginBundle_onlyReads ch n s).trans only, own⟩

/-- A bundle that begins has its message or waits for its handle, so nothing more is composed. -/
theorem composeBundle_withoutPlan (t : State) (b : Bundle) (n : Nat) (urgent : Bool) (rev : Option Nat) :
    composeBundle ch (t.setBundle ch (b.withoutPlan n urgent rev)) = t.setBundle ch (b.withoutPlan n urgent rev) := by
  rw [composeBundle_set, composeNext_pending (Option.some_ne_none _)]

theorem composeBundle_begunAt (n : Nat) (p : PlanStore) :
    composeBundle ch ((begunAt ch n s).withStore p) = (begunAt ch n s).withStore p := by
  have bundle : ((begunAt ch n s).withStore p).bundle ch = (s.bundle ch).begun n (sheetUrgent s n) :=
    begunAt_bundle ch n s
  refine composeBundle_fixed ?_
  rw [bundle]
  exact composeNext_lookup rfl

end

/-! ## The END of a bundle (R146) -/

section
variable {s : State} {ch : Fin 4}

/-- The state after the END of a bundle that was not aborted. -/
def afterEnd (ch : Fin 4) (m : Message) (sheet : Nat) (s : State) : State :=
  composeBundle ch (((queued ch m s).setChannel ch
    { (queued ch m s).channel ch with currentSheet := some sheet }).setBundle ch (s.bundle ch).sent.ended)

theorem afterEnd_spec (m : Message) (sheet : Nat) :
    ((afterEnd ch m sheet s).channel ch).queue = (s.channel ch).queue ++ [m] ∧
      ((afterEnd ch m sheet s).channel ch).currentSheet = some sheet ∧
      OtherChannelsSame ch s (afterEnd ch m sheet s) ∧ (afterEnd ch m sheet s).store = s.store := by
  have own : (afterEnd ch m sheet s).channel ch = { (queued ch m s).channel ch with currentSheet := some sheet } :=
    channel_setChannel_same (queued ch m s) ch _
  rw [own]
  exact ⟨queued_queue ch m s, rfl,
    fun d other => (channel_setChannel_ne (queued ch m s) _ other).trans (queued_others ch m s d other), rfl⟩

theorem afterEnd_idle (m : Message) (sheet : Nat) (none_ : (s.bundle ch).late = []) :
    ((afterEnd ch m sheet s).bundle ch).state = .idle ∧ ((afterEnd ch m sheet s).bundle ch).pendingMsg = none := by
  have ended : (s.bundle ch).sent.ended = { (s.bundle ch).sent with state := .idle } :=
    if_pos (List.isEmpty_iff.mpr none_)
  rw [afterEnd, ended, composeBundle_set, bundle_setBundle_same, composeNext_idle rfl]
  exact ⟨rfl, rfl⟩

theorem afterEnd_closing (m : Message) (sheet : Nat) {a : Address} {l : List Address}
    (late : (s.bundle ch).late = a :: l) : ((afterEnd ch m sheet s).bundle ch).state = .closing ∧
      ((afterEnd ch m sheet s).bundle ch).late = l ∧
      ∃ removal k, ((afterEnd ch m sheet s).bundle ch).pendingMsg = some (.markUpdate .late removal k) ∧ k.addr = a := by
  have ended : (s.bundle ch).sent.ended = { (s.bundle ch).sent with state := .closing } :=
    if_neg (by rw [Bundle.sent, late]; exact Bool.false_ne_true)
  rw [afterEnd, ended, composeBundle_set, bundle_setBundle_same,
    composeNext_late (b := { (s.bundle ch).sent with state := .closing }) rfl rfl late]
  obtain ⟨removal, k, mark, addr⟩ := lateMark_addr _ (((s.bundle ch).sent).sheet.getD 0) a
  exact ⟨rfl, rfl, removal, k, congrArg some mark, addr⟩

end

/-! ## The HEAD of a bundle (R139, R142, R143) -/

theorem composeNext_stream {s : State} {b : Bundle} (state : b.state = .stream) (placed : b.head = .placed)
    {h : Handle} (handle : b.handle = some h) (more : b.blockCursor < h.blockCount) :
    (composeNext s b).state = .stream := by
  unfold composeNext
  split
  · exact state
  · simp only [state, placed, handle, Option.getD_some, Nat.ne_of_lt more, if_false]
    split
    · split <;> exact state
    · exact state

theorem enterOverlay_eq {s : State} {b : Bundle} {n : Nat} (named : b.sheet = some n) : enterOverlay s b =
    { b with state := .overlay, snapshot := (snapshotOf s n).1, matching := (snapshotOf s n).2, overlayCursor := 0 } := by
  simp only [enterOverlay, named, Option.getD_some]

/-- What a bundle composes on entering OVERLAY: the first eight marks of its snapshot, or its END (R144, R146). -/
theorem overlayNext_entered {s : State} {b : Bundle} {n : Nat} {h : Handle} (named : b.sheet = some n)
    (handle : b.handle = some h) : overlayNext (enterOverlay s b) =
      if (snapshotOf s n).1 = [] then .bundleEnd n 0 (snapshotOf s n).2 b.late.length b.damagedCount
        (if h.absent then .absent else .complete)
      else .overlay n ((snapshotOf s n).1.take 8) := by
  rw [enterOverlay_eq named]
  cases snap : (snapshotOf s n).1 with
  | nil => simp [overlayNext, endMessage, named, handle]
  | cons k l => simp [overlayNext, named]

/-! ## After a late mark (R138, R147) -/

/-- The state after a late mark was placed. -/
def afterLate (ch : Fin 4) (m : Message) (s : State) : State :=
  composeBundle ch (settleReports (afterPlacing ch m (queued ch m s)))

section
variable {s : State} {ch : Fin 4} {removal : Bool} {m : Mark} (closing : (s.bundle ch).state = .closing)
include closing

omit closing in
theorem afterLate_more {a : Address} {l : List Address} (late : (s.bundle ch).late = a :: l) :
    afterLate ch (.markUpdate .late removal m) s =
      afterMessage ch (.markUpdate .late removal m) (s.bundle ch).sent s := by
  have more : (s.bundle ch).late ≠ [] := by rw [late]; exact List.cons_ne_nil _ _
  have placed := afterPlacing_late_more (s := queued ch (.markUpdate .late removal m) s) (removal := removal) (m := m) more
  rw [afterLate, placed]
  exact composeBundle_set _ ch _

theorem afterLate_done (none_ : (s.bundle ch).late = []) (unasked : (s.bundle ch).pendingSheet = none) :
    afterLate ch (.markUpdate .late removal m) s =
      afterMessage ch (.markUpdate .late removal m) { (s.bundle ch).sent with state := .idle } s := by
  have placed := afterPlacing_late_last (s := queued ch (.markUpdate .late removal m) s) (removal := removal) (m := m)
    closing none_ unasked
  rw [afterLate, placed]
  exact composeBundle_set _ ch _

theorem afterLate_next {p : Nat} (none_ : (s.bundle ch).late = []) (asked : (s.bundle ch).pendingSheet = some p) :
    afterLate ch (.markUpdate .late removal m) s = composeBundle ch (settleReports
      (beginBundle ch p (closedAt ch (.markUpdate .late removal m) s))) := by
  have placed := afterPlacing_late_next (s := queued ch (.markUpdate .late removal m) s) (removal := removal) (m := m)
    closing none_ asked
  rw [afterLate, placed]
  rfl

/-- Whichever of the three comes next, the placing is at the queue and the bundles. -/
theorem afterLate_onlyReads (running : s.control.running = true) :
    OnlyReads (queued ch (.markUpdate .late removal m) s) (afterLate ch (.markUpdate .late removal m) s) := by
  cases late : (s.bundle ch).late with
  | cons a l =>
    rw [afterLate_more late]
    rfl
  | nil =>
    cases asked : (s.bundle ch).pendingSheet with
    | none =>
      rw [afterLate_done closing late asked]
      rfl
    | some p =>
      rw [afterLate_next closing late asked]
      exact ((closedAt_onlyReads ch _ s).trans (begin_kept (s := closedAt ch _ s) running p).1).trans
        (composeBundle_onlyReads ch _)

/-- The next late mark (R147). -/
theorem afterLate_mark {n : Nat} (named : (s.bundle ch).sheet = some n) {a : Address} {l : List Address}
    (late : (s.bundle ch).late = a :: l) :
    (afterLate ch (.markUpdate .late removal m) s).bundle ch =
      { (s.bundle ch).sent.awaiting (lateMark s n a) with late := l } := by
  rw [afterLate_more late, afterMessage_bundle,
    composeNext_late (b := (s.bundle ch).sent) rfl closing late]
  have sheet : (s.bundle ch).sent.sheet.getD 0 = n := by rw [Bundle.sent, named]; rfl
  rw [sheet]
  rfl

section
variable {p : Nat} (running : s.control.running = true) (none_ : (s.bundle ch).late = [])
  (asked : (s.bundle ch).pendingSheet = some p)
include none_ asked

section
include running

/-- The bundle of the pending sheet has begun, whatever its HANDLE request comes to (R138). -/
theorem afterLate_begun : ((s.bundle ch).sent.begun p (sheetUrgent s p)).sheet =
      ((afterLate ch (.markUpdate .late removal m) s).bundle ch).sheet ∧
    ((afterLate ch (.markUpdate .late removal m) s).bundle ch).pendingSheet = none ∧
    ((afterLate ch (.markUpdate .late removal m) s).bundle ch).urgent = sheetUrgent s p := by
  have kept := (begin_kept (s := closedAt ch (.markUpdate .late removal m) s) (ch := ch) running p).2.trans
    (composeBundle_keptBundle ch ch _)
  rw [closedAt_bundle] at kept
  rw [afterLate_next closing none_ asked]
  exact ⟨kept.sheet.symm, kept.pendingSheet, kept.urgent⟩

end

/-- No layout tells of the pending sheet: its HEAD is composed at once (R134, R139). -/
theorem afterLate_unlocated (nowhere : s.store.layout = none ∨ ∃ l, s.store.layout = some l ∧ l.sheetCount ≤ p) :
    afterLate ch (.markUpdate .late removal m) s = (closedAt ch (.markUpdate .late removal m) s).setBundle ch
      (((closedAt ch (.markUpdate .late removal m) s).bundle ch).withoutPlan p (sheetUrgent s p) s.ownRevision) := by
  have quiet : ((closedAt ch (.markUpdate .late removal m) s).bundle ch).pendingMsg = none := by
    rw [closedAt_bundle]
    rfl
  have begun := begin_unlocated (s := closedAt ch (.markUpdate .late removal m) s) (n := p) quiet nowhere
  rw [afterLate_next closing none_ asked, begun, composeBundle_withoutPlan]
  rfl

theorem afterLate_busy {l : Layout} (layout : s.store.layout = some l) (below : p < l.sheetCount)
    (busy : s.store.engine ≠ .idle) : (afterLate ch (.markUpdate .late removal m) s).bundle ch =
      ((closedAt ch (.markUpdate .late removal m) s).bundle ch).begun p (sheetUrgent s p) := by
  have begun := begin_busy (s := closedAt ch (.markUpdate .late removal m) s) (ch := ch) (n := p) layout below busy
  rw [afterLate_next closing none_ asked, begun, composeBundle_begunAt]
  exact begunAt_bundle ch p (closedAt ch (.markUpdate .late removal m) s)

section
variable {l : Layout} (layout : s.store.layout = some l) (below : p < l.sheetCount) (ok : s.store.EngineOk)
  (idle : s.store.engine = .idle)
include layout below ok idle

theorem afterLate_reading (at_ : populated s.control.straps (handleBlock l p) = true) :
    (afterLate ch (.markUpdate .late removal m) s).bundle ch =
        ((closedAt ch (.markUpdate .late removal m) s).bundle ch).begun p (sheetUrgent s p) ∧
      (afterLate ch (.markUpdate .late removal m) s).store = { s.store with
        engine := .first (handleRequest ch p (handleBlock l p) (sheetUrgent s p)) false } := by
  have begun := begin_reading (s := closedAt ch (.markUpdate .late removal m) s) (ch := ch) (n := p) layout below idle ok
    at_
  rw [afterLate_next closing none_ asked, begun, composeBundle_begunAt]
  exact ⟨begunAt_bundle ch p (closedAt ch (.markUpdate .late removal m) s), rfl⟩

theorem afterLate_unpopulated (nowhere : populated s.control.straps (handleBlock l p) = false) :
    (afterLate ch (.markUpdate .late removal m) s).bundle ch =
        ((closedAt ch (.markUpdate .late removal m) s).bundle ch).withoutPlan p (sheetUrgent s p) s.ownRevision ∧
      (afterLate ch (.markUpdate .late removal m) s).store =
        { s.store with absent := min (s.store.absent + 1) 65535 } := by
  have quiet : ((closedAt ch (.markUpdate .late removal m) s).bundle ch).pendingMsg = none := by
    rw [closedAt_bundle]
    rfl
  have begun := begin_unpopulated (s := closedAt ch (.markUpdate .late removal m) s) (ch := ch) (n := p) layout below
    idle ok quiet nowhere
  rw [afterLate_next closing none_ asked, begun, composeBundle_withoutPlan, ← satSucc_eq_min]
  exact ⟨bundle_setBundle_same _ ch _, rfl⟩

end

end

end

/-! ## The five messages -/

section
variable {s : State} {ch : Fin 4} (free : s.control.resetHeld = false) (only : OnlyBundleWaits (s.channel ch))
include free only

theorem block_noRoom {i : Nat} {damaged : Bool} {content : List Byte}
    (pending : (s.bundle ch).pendingMsg = some (.block i damaged content)) (full : 20 < (s.channel ch).queue.length) :
    exec (.bundleMessagePlaced ch) s = .next s := by
  refine exec_bundle_full free only ?_
  rw [Bool.eq_false_iff, ne_eq, bundleFits_iff pending]
  simp only [Message.room, Config.blockRoom]
  omega

theorem exec_end_placed {sheet shown matching late damaged : Nat} {code : Completion}
    (pending : (s.bundle ch).pendingMsg = some (.bundleEnd sheet shown matching late damaged code))
    (whole : code ≠ .aborted) (room : (s.channel ch).queue.length < 24) :
    exec (.bundleMessagePlaced ch) s = .next (afterEnd ch
      (.bundleEnd sheet shown matching (s.bundle ch).late.length damaged code) sheet s) := by
  have fits : (Message.bundleEnd sheet shown matching late damaged code).room ≤ 24 - (s.channel ch).queue.length := by
    simp only [Message.room]
    omega
  rw [exec_bundle_placed free only pending fits]
  cases code with
  | complete => rfl
  | absent => rfl
  | aborted => exact absurd rfl whole

/-- The bundle after an OVERLAY of `k` marks was placed. -/
def Bundle.overlaySent (b : Bundle) (k : Nat) : Bundle := { b.sent with overlayCursor := b.overlayCursor + k }

theorem overlay_placed {sheet : Nat} {marks : List Mark}
    (pending : (s.bundle ch).pendingMsg = some (.overlay sheet marks)) (state : (s.bundle ch).state = .overlay)
    (room : (s.channel ch).queue.length < 24) : ∃ t, exec (.bundleMessagePlaced ch) s = .next t ∧
      (t.channel ch).queue = (s.channel ch).queue ++ [.overlay sheet marks] ∧
      (t.bundle ch).overlayCursor = (s.bundle ch).overlayCursor + marks.length ∧ (t.bundle ch).state = .overlay := by
  have moved := exec_placed_quietly free only pending rfl rfl room
    (b := (s.bundle ch).overlaySent marks.length) rfl
  refine ⟨_, moved, (onlyReads_placed afterMessage_onlyReads).1, ?_⟩
  rw [afterMessage_bundle, composeNext_overlay (b := (s.bundle ch).overlaySent marks.length) rfl state]
  exact ⟨rfl, state⟩

/-- The bundle after its HEAD was placed. -/
def Bundle.headSent (b : Bundle) : Bundle := { b.sent with head := .placed }

/-- A HEAD leads to the first BLOCK that waits, or with no block at all to OVERLAY (R139, R142, R143). -/
theorem head_placed {sheet floor count : Nat} {rev : Option Nat} {absent urgent : Bool} {n : Nat} {h : Handle}
    {snap : List Mark}
    (pending : (s.bundle ch).pendingMsg = some (.bundleHead sheet floor count rev absent urgent))
    (state : (s.bundle ch).state = .stream) (named : (s.bundle ch).sheet = some n)
    (handle : (s.bundle ch).handle = some h) (taken : snap = (snapshotOf s n).1)
    (room : (s.channel ch).queue.length < 24) : ∃ t, exec (.bundleMessagePlaced ch) s = .next t ∧ t.store = s.store ∧
      OtherChannelsSame ch s t ∧ (t.channel ch).queue = (s.channel ch).queue ++
        [.bundleHead sheet floor count rev absent urgent] ∧
      ((s.bundle ch).blockCursor < h.blockCount → (t.bundle ch).state = .stream ∧
        ((s.bundle ch).buffer = [] → (t.bundle ch).pendingMsg = none) ∧
        (∀ k l, (s.bundle ch).buffer = k :: l → k.index = (s.bundle ch).blockCursor →
          (t.bundle ch).pendingMsg = some (.block k.index k.damaged k.content))) ∧
      ((s.bundle ch).blockCursor = h.blockCount → (t.bundle ch).state = .overlay ∧
        (t.bundle ch).snapshot = snap ∧ (t.bundle ch).matching = (snapshotOf s n).2 ∧
        (t.bundle ch).overlayCursor = 0 ∧ (t.bundle ch).pendingMsg = some
          (if snap = [] then .bundleEnd n 0 (snapshotOf s n).2 (s.bundle ch).late.length
              (s.bundle ch).damagedCount (if h.absent then .absent else .complete)
           else .overlay n (snap.take 8))) := by
  have moved := exec_placed_quietly free only pending rfl rfl room (b := (s.bundle ch).headSent) rfl
  obtain ⟨queue, others⟩ := onlyReads_placed (s := s) (afterMessage_onlyReads (s := s) (ch := ch)
    (m := .bundleHead sheet floor count rev absent urgent) (b := (s.bundle ch).headSent))
  refine ⟨_, moved, rfl, others, queue, fun more => ?_, fun done => ?_⟩
  · rw [afterMessage_bundle]
    refine ⟨composeNext_stream (b := (s.bundle ch).headSent) state rfl handle more, fun empty => ?_, fun k l front next => ?_⟩
    · rw [composeNext_noBlock (b := (s.bundle ch).headSent) rfl state rfl handle more empty]
      rfl
    · rw [composeNext_block (b := (s.bundle ch).headSent) rfl state rfl handle more front next]
      rfl
  · rw [afterMessage_bundle, composeNext_done (b := (s.bundle ch).headSent) rfl state rfl handle done]
    have entered : overlayNext (enterOverlay ((queued ch (.bundleHead sheet floor count rev absent urgent) s).setBundle ch
        (s.bundle ch).headSent) (s.bundle ch).headSent) = _ :=
      overlayNext_entered (s := s) (b := (s.bundle ch).headSent) named handle
    have snapshot : (enterOverlay s (s.bundle ch).headSent).snapshot = (snapshotOf s n).1 := by
      rw [enterOverlay_eq (b := (s.bundle ch).headSent) named]
    have matching : (enterOverlay s (s.bundle ch).headSent).matching = (snapshotOf s n).2 := by
      rw [enterOverlay_eq (b := (s.bundle ch).headSent) named]
    rw [taken]
    exact ⟨rfl, snapshot, matching, rfl, congrArg some entered⟩

theorem exec_late_placed {removal : Bool} {m : Mark}
    (pending : (s.bundle ch).pendingMsg = some (.markUpdate .late removal m)) (room : (s.channel ch).queue.length < 24) :
    exec (.bundleMessagePlaced ch) s = .next (afterLate ch (.markUpdate .late removal m) s) := by
  have fits : (Message.markUpdate .late removal m).room ≤ 24 - (s.channel ch).queue.length := by
    simp only [Message.room]
    omega
  exact exec_bundle_placed free only pending fits

end

/-- Settles O46, a message of the bundle at a time: each enters the queue, and the bundle goes on from where its
placing leaves it. -/
theorem bundleMessagePlacedAdvancesTheBundle : Obligations.BundleMessagePlacedAdvancesTheBundle := by
  intro ch s free running only
  refine ⟨fun i damaged content pending => ⟨fun room => ?_, block_noRoom free only pending⟩,
    fun sheet shown matching late damaged code pending whole room => ?_,
    fun sheet marks => overlay_placed free only,
    fun sheet floor count rev absent urgent n h snap => head_placed free only,
    fun removal m n pending closing named room => ?_⟩
  · obtain ⟨moved, kept⟩ := afterBlock_moves (ch := ch) (damaged := damaged) running (.block i damaged content)
    refine ⟨_, exec_block_placed free only pending room, (onlyReads_placed moved).1, kept.blockCursor, ?_, ?_, ?_⟩
    · rw [kept.damagedCount]
      cases damaged <;> rfl
    · rintro state placed ⟨h, handle, last, read⟩
      exact afterBlock_last _ state placed handle last read
    · intro h state handle present more held full busy
      exact afterBlock_reads _ state handle present more held full busy
  · obtain ⟨queue, current, others, store⟩ := afterEnd_spec (s := s) (ch := ch)
      (.bundleEnd sheet shown matching (s.bundle ch).late.length damaged code) sheet
    exact ⟨_, exec_end_placed free only pending whole room, queue, current, others, store, afterEnd_idle _ sheet,
      fun a l => afterEnd_closing _ sheet⟩
  · obtain ⟨queue, others⟩ := onlyReads_placed
      (afterLate_onlyReads (ch := ch) (removal := removal) (m := m) closing running)
    refine ⟨_, exec_late_placed free only pending room, others, queue, fun a l late => ?_, fun none_ unasked => ?_,
      fun p none_ asked => ?_⟩
    · have bundle := afterLate_mark (removal := removal) (m := m) closing named late
      rw [bundle]
      refine ⟨closing, rfl, by rw [afterLate_more late]; rfl,
        fun e held on => congrArg some (lateMark_onSheet held on), fun off => ?_⟩
      obtain ⟨k, mark, addr⟩ := lateMark_offSheet off
      exact ⟨k, congrArg some mark, addr⟩
    · rw [afterLate_done closing none_ unasked, afterMessage_bundle, composeNext_idle rfl]
      exact ⟨rfl, rfl, rfl⟩
    · obtain ⟨sheet, pendingSheet, urgent⟩ :=
        afterLate_begun (removal := removal) (m := m) closing running none_ asked
      refine ⟨fun nowhere => ?_, by rw [urgent, sheetUrgent_iff], ?_, ?_⟩
      · rw [urgent, afterLate_unlocated closing none_ asked nowhere, bundle_setBundle_same, closedAt_bundle]
        exact ⟨rfl, rfl, rfl, rfl, rfl, rfl⟩
      · rintro l _ layout below ok idle rfl
        refine ⟨sheet.symm, pendingSheet, fun at_ => ?_, fun nowhere => ?_⟩
        · obtain ⟨bundle, store⟩ := afterLate_reading (removal := removal) (m := m) closing none_ asked layout below ok idle at_
          rw [urgent, bundle, closedAt_bundle, store]
          exact ⟨rfl, rfl, rfl⟩
        · obtain ⟨bundle, store⟩ :=
            afterLate_unpopulated (removal := removal) (m := m) closing none_ asked layout below ok idle nowhere
          rw [bundle, closedAt_bundle]
          exact ⟨rfl, rfl, rfl, store⟩
      · intro l layout below busy
        have bundle := afterLate_busy (removal := removal) (m := m) closing none_ asked layout below busy
        rw [bundle, closedAt_bundle]
        exact ⟨rfl, rfl, rfl, rfl⟩

end Sys2Proof.Machine
end

section
/-!
PROOFS. The end of a transfer, and what the Bundle Engine does with an answer (R128, R130, R139, R141, R142, R150).
-/
namespace Sys2Proof.Machine

/-! ## The end of a transfer at the controller (R128, R130) -/

/-- A read that ends with a report; the engine then takes its next request. -/
def PlanStore.endWith (p : PlanStore) (st : Straps) (rep : StoreReport) : PlanStore × List StoreReport :=
  ((PlanStore.advance { p with engine := .idle } st).1, rep :: (PlanStore.advance { p with engine := .idle } st).2)

section
variable {p : PlanStore} {st : Straps} {b : BlockBytes} {r : ReadRequest} {o : Bool}

theorem endWith_spec (p : PlanStore) (st : Straps) (rep : StoreReport) :
    (p.endWith st rep).2.head? = some rep ∧ (p.endWith st rep).1.rereads = p.rereads ∧
      (p.endWith st rep).1.damaged = p.damaged := by
  obtain ⟨_, _, _, rereads, damaged⟩ := advance_spec { p with engine := .idle } st
  exact ⟨rfl, rereads, damaged⟩

theorem endWith_empty (main : p.mainQueue = []) (promote : p.promoteQueue = []) (rep : StoreReport) :
    p.endWith st rep = ({ p with engine := .idle }, [rep]) := by
  simp [PlanStore.endWith, PlanStore.advance, ReadEngine.isIdle, takeNext, main, promote]

theorem transferEnd_first (flight : p.engine = .first r o) : p.transferEnd st b =
    if blockIntact b then p.endWith st (endReport r o .intact (blockContent b))
    else if o then p.endWith st (endReport r o .damaged (blockContent b))
    else ({ p with engine := .second r o, rereads := sat16 p.rereads }, []) := by
  simp only [PlanStore.transferEnd, flight]
  rfl

theorem transferEnd_second (flight : p.engine = .second r o) : p.transferEnd st b =
    if blockIntact b then p.endWith st (endReport r o .intact (blockContent b))
    else PlanStore.endWith { p with damaged := sat16 p.damaged } st (endReport r o .damaged (blockContent b)) := by
  simp only [PlanStore.transferEnd, flight]
  rfl

theorem endReport_answered (r : ReadRequest) (code : ReadCode) (content : List Byte) :
    endReport r false code content = .answer r code (answerData r content) := rfl

theorem endReport_orphan {ch : Fin 4} (who : r.who = .channel ch) (code : ReadCode) (content : List Byte) :
    endReport r true code content = .orphanEnd ch := by
  simp only [endReport, who]

/-- An intact block completes its read, at the first transfer or the second. -/
theorem transferEnd_intact (flight : p.engine = .first r false ∨ p.engine = .second r false)
    (intact : blockIntact b = true) :
    p.transferEnd st b = p.endWith st (.answer r .intact (answerData r (b.val.take 254))) := by
  rcases flight with first | second
  · rw [transferEnd_first first, if_pos intact]
    rfl
  · rw [transferEnd_second second, if_pos intact]
    rfl

theorem transferEnd_reread (flight : p.engine = .first r false) (broken : blockIntact b = false) :
    p.transferEnd st b =
      ({ p with engine := .second r false, rereads := min (p.rereads + 1) 65535 }, []) := by
  rw [transferEnd_first flight, broken, ← satSucc_eq_min]
  rfl

theorem transferEnd_damaged (flight : p.engine = .second r false) (broken : blockIntact b = false) :
    p.transferEnd st b = PlanStore.endWith { p with damaged := min (p.damaged + 1) 65535 } st
      (.answer r .damaged (answerData r (b.val.take 254))) := by
  rw [transferEnd_second flight, broken, ← satSucc_eq_min]
  rfl

/-- The first transfer of an orphaned read ends it, intact or not. -/
theorem transferEnd_orphan_first {ch : Fin 4} (who : r.who = .channel ch) (flight : p.engine = .first r true) :
    p.transferEnd st b = p.endWith st (.orphanEnd ch) := by
  rw [transferEnd_first flight, endReport_orphan who, endReport_orphan who]
  cases blockIntact b <;> rfl

theorem transferEnd_orphan_second {ch : Fin 4} (who : r.who = .channel ch) (flight : p.engine = .second r true) :
    p.transferEnd st b = PlanStore.endWith
      { p with damaged := if blockIntact b then p.damaged else min (p.damaged + 1) 65535 } st (.orphanEnd ch) := by
  rw [transferEnd_second flight, endReport_orphan who, endReport_orphan who, ← satSucc_eq_min]
  cases blockIntact b <;> rfl

end

/-- The end of a transfer, case by case, with what leaves the controller first and the two counts. -/
theorem transferEnd_cases (p q : PlanStore) (st : Straps) (r : ReadRequest) (b : BlockBytes) (out : List StoreReport)
    (done : (q, out) = p.transferEnd st b) :
    (p.engine = .first r false → blockIntact b = true →
      out.head? = some (.answer r .intact (answerData r (b.val.take 254))) ∧
      q.rereads = p.rereads ∧ q.damaged = p.damaged) ∧
    (∀ o, p.engine = .first r o → blockIntact b = false → o = false →
      q = { p with engine := .second r false, rereads := min (p.rereads + 1) 65535 } ∧ out = []) ∧
    (p.engine = .second r false → blockIntact b = true →
      out.head? = some (.answer r .intact (answerData r (b.val.take 254))) ∧
      q.rereads = p.rereads ∧ q.damaged = p.damaged) ∧
    (p.engine = .second r false → blockIntact b = false →
      out.head? = some (.answer r .damaged (answerData r (b.val.take 254))) ∧
      q.rereads = p.rereads ∧ q.damaged = min (p.damaged + 1) 65535) ∧
    (∀ ch, r.who = .channel ch → p.engine = .first r true →
      out.head? = some (.orphanEnd ch) ∧ q.rereads = p.rereads ∧ q.damaged = p.damaged) ∧
    (∀ ch, r.who = .channel ch → p.engine = .second r true →
      out.head? = some (.orphanEnd ch) ∧ q.rereads = p.rereads ∧
      q.damaged = (if blockIntact b then p.damaged else min (p.damaged + 1) 65535)) := by
  have ended {v : PlanStore} {rep : StoreReport} (same : p.transferEnd st b = v.endWith st rep) :
      out.head? = some rep ∧ q.rereads = v.rereads ∧ q.damaged = v.damaged := by
    obtain ⟨rfl, rfl⟩ := Prod.mk.inj (done.trans same)
    exact endWith_spec v st rep
  refine ⟨fun first intact => ended (transferEnd_intact (.inl first) intact), ?_,
    fun second intact => ended (transferEnd_intact (.inr second) intact),
    fun second broken => ended (transferEnd_damaged second broken),
    fun ch who first => ended (transferEnd_orphan_first who first),
    fun ch who second => ended (transferEnd_orphan_second who second)⟩
  rintro _ first broken rfl
  exact Prod.mk.inj (done.trans (transferEnd_reread first broken))

section
variable {s u : State}

theorem exec_transferEnd (free : s.control.resetHeld = false) (settled : u = settle s) (b : BlockBytes) :
    exec (.transferEnd b) s = .next (transferEvent b u) := by
  change Host.Outcome.next (external _ s) = _
  rw [external_free free, ← settled]

/-- A transfer whose end brings one report about. -/
theorem transferEvent_one {b : BlockBytes} {p : PlanStore} {rep : StoreReport}
    (ended : u.store.transferEnd u.control.straps b = (p, [rep])) :
    transferEvent b u = deliver 63 (hears rep (u.withStore p)).2 (hears rep (u.withStore p)).1 := by
  rw [transferEvent, ended]
  rfl

end

/-! ## A handle in LOOKUP (R139, R141) -/

/-- The handle that an answer gives, by the bytes of its slot (R139, R188). -/
theorem handleFrom_eq (code : ReadCode) (data : List Byte) : handleFrom code data =
    if code = .intact ∧ (data.getD 7 0).getLsbD 0 = false ∧ 1 ≤ fieldAt data 4 ∧ fieldAt data 4 ≤ 2048 then
      ⟨longAt data 0 % 262144, fieldAt data 4, min (byteAt data 6) 127, false⟩ else ⟨0, 0, 127, true⟩ := by
  cases code with
  | damaged => rfl
  | absent => rfl
  | intact =>
    have floor : (if byteAt data 6 > 127 then 127 else byteAt data 6) = min (byteAt data 6) 127 := by
      split <;> omega
    have withdrawn : ((data.getD 7 0).getLsbD 0 || fieldAt data 4 == 0 || decide (fieldAt data 4 > 2048)) = true ↔
        ¬((data.getD 7 0).getLsbD 0 = false ∧ 1 ≤ fieldAt data 4 ∧ fieldAt data 4 ≤ 2048) := by
      cases (data.getD 7 0).getLsbD 0
      · simp only [Bool.or_eq_true, beq_iff_eq, decide_eq_true_eq, Bool.false_eq_true, false_or, true_and]
        omega
      · simp
    rw [handleFrom, handleOf, floor]
    by_cases good : (data.getD 7 0).getLsbD 0 = false ∧ 1 ≤ fieldAt data 4 ∧ fieldAt data 4 ≤ 2048
    · rw [if_neg (fun k => withdrawn.mp k good), if_pos ⟨rfl, good⟩]
      rfl
    · rw [if_pos (withdrawn.mpr good), if_neg fun k => good k.2]
      rfl

/-- A handle that is not absent tells of one block at least. -/
theorem handleFrom_blockCount {code : ReadCode} {data : List Byte} (present : (handleFrom code data).absent = false) :
    1 ≤ (handleFrom code data).blockCount := by
  rw [handleFrom_eq] at present ⊢
  split
  case isTrue good => exact good.2.2.1
  case isFalse bad => rw [if_neg bad] at present; exact nomatch present

section
variable {s : State} {ch : Fin 4} {r : ReadRequest} {code : ReadCode} {data : List Byte}

/-- A handle in LOOKUP: the reads that it makes room for are issued, and then the HEAD is composed. -/
theorem bundleHears_handle {n : Nat} (who : r.who = .channel ch) (what : r.what = .handle n)
    (lookup : (s.bundle ch).state = .lookup) : bundleHears (.answer r code data) s =
      (composeBundle ch (issueReads ch (s.setBundle ch (takeHandle (s.bundle ch) (handleFrom code data)))).1,
        (issueReads ch (s.setBundle ch (takeHandle (s.bundle ch) (handleFrom code data)))).2) := by
  simp only [bundleHears, who, what, lookup]

/-- A bundle that differs from one in its reads alone. -/
def Bundle.SameButReads (b d : Bundle) : Prop :=
  d = { b with readCursor := d.readCursor, outstanding := d.outstanding }

theorem issueReads_bundle (b : Bundle) :
    b.SameButReads ((issueReads ch (s.setBundle ch b)).1.bundle ch) := by
  cases may : b.mayRead with
  | false =>
    rw [issueReads_none may, bundle_setBundle_same]
    rfl
  | true =>
    cases again : b.asking.mayRead with
    | false =>
      rw [issueReads_one may again, bundle_setBundle_same]
      rfl
    | true =>
      simp only [issueReads, issueRead_one may, issueRead_one again, bundle_setBundle_same]
      rfl

/-- The HEAD that a bundle composes once its handle is known (R139). -/
theorem composed_head {t : State} {b d : Bundle} {h : Handle} (same : (takeHandle b h).SameButReads d)
    (owed : b.head = .owed) :
    (composeNext t d).state = .stream ∧ (composeNext t d).handle = some h ∧
      (b.pendingMsg = none → (composeNext t d).head = .waiting ∧ (composeNext t d).pendingMsg = some
        (.bundleHead (b.sheet.getD 0) h.floor h.blockCount t.ownRevision h.absent b.urgent)) ∧
      (b.pendingMsg ≠ none → (composeNext t d).pendingMsg = b.pendingMsg ∧ (composeNext t d).head = b.head) := by
  have eq : d = { takeHandle b h with readCursor := d.readCursor, outstanding := d.outstanding } := same
  have state : d.state = .stream := congrArg Bundle.state eq
  have handle : d.handle = some h := (congrArg Bundle.handle eq :)
  have message : d.pendingMsg = b.pendingMsg := (congrArg Bundle.pendingMsg eq :)
  have head : d.head = b.head := (congrArg Bundle.head eq :)
  have sheet : d.sheet = b.sheet := (congrArg Bundle.sheet eq :)
  have urgent : d.urgent = b.urgent := (congrArg Bundle.urgent eq :)
  by_cases quiet : b.pendingMsg = none
  · rw [composeNext_head (message.trans quiet) state (head.trans owed)]
    refine ⟨state, handle, fun _ => ⟨rfl, ?_⟩, fun waits => absurd quiet waits⟩
    simp only [Bundle.awaiting, headMessage, handle, sheet, urgent, Option.getD_some]
  · rw [composeNext_pending (by rw [message]; exact quiet)]
    exact ⟨state, handle, fun none_ => absurd none_ quiet, fun _ => ⟨message, head⟩⟩

/-- The two reads of the budget (R141). -/
theorem issueReads_two {b : Bundle} (may : b.mayRead = true) (again : b.asking.mayRead = true)
    {one two : PlanStore × List StoreReport} (first : one = s.store.request s.control.straps (b.nextRead ch))
    (second : two = one.1.request s.control.straps (b.asking.nextRead ch)) :
    issueReads ch (s.setBundle ch b) =
      ((s.withStore two.1).setBundle ch b.asking.asking, one.2 ++ two.2) := by
  subst first second
  simp only [issueReads, issueRead_one may, issueRead_one again]
  rfl

/-- A fresh bundle's handle makes room for one read or two: as many as the sheet has blocks and the budget
has places (R141). -/
theorem handleReads {h : Handle} (present : h.absent = false) (some_ : 1 ≤ h.blockCount)
    (read : (s.bundle ch).readCursor = 0) (placed : (s.bundle ch).blockCursor = 0) (empty : (s.bundle ch).buffer = [])
    (out : (s.bundle ch).outstanding = 1 ∨ (s.bundle ch).outstanding = 2) {reads : Nat}
    (count : reads = min h.blockCount (3 - (s.bundle ch).outstanding)) {X : State × List StoreReport}
    (issued : X = issueReads ch (s.setBundle ch (takeHandle (s.bundle ch) h))) :
    (X.1.bundle ch).readCursor = reads ∧ (X.1.bundle ch).outstanding = (s.bundle ch).outstanding - 1 + reads ∧
      ∀ one two : PlanStore × List StoreReport,
        one = s.store.request s.control.straps
          { who := .channel ch, what := .block, block := h.firstBlock, demand := true,
            urgent := (s.bundle ch).urgent } →
        two = one.1.request s.control.straps
          { who := .channel ch, what := .block, block := h.firstBlock + 1, demand := false,
            urgent := (s.bundle ch).urgent } →
        X.1.store = (if reads = 1 then one.1 else two.1) ∧ X.2 = (if reads = 1 then one.2 else one.2 ++ two.2) := by
  have room : (s.bundle ch).outstanding - 1 + (takeHandle (s.bundle ch) h).buffer.length < 2 := by
    simp only [takeHandle, empty, List.length_nil]
    omega
  have may : (takeHandle (s.bundle ch) h).mayRead = true := by
    refine (Bundle.mayRead_iff _).mpr ⟨h, rfl, rfl, present, ?_, room⟩
    simp only [takeHandle, read]
    omega
  have firstRead : (takeHandle (s.bundle ch) h).nextRead ch =
      { who := .channel ch, what := .block, block := h.firstBlock, demand := true, urgent := (s.bundle ch).urgent } := by
    simp [Bundle.nextRead, takeHandle, read]
  have secondRead : (takeHandle (s.bundle ch) h).asking.nextRead ch =
      { who := .channel ch, what := .block, block := h.firstBlock + 1, demand := false,
        urgent := (s.bundle ch).urgent } := by
    simp [Bundle.nextRead, takeHandle, Bundle.asking, read, placed]
  have again : (takeHandle (s.bundle ch) h).asking.mayRead = true ↔ reads = 2 := by
    rw [Bundle.mayRead_iff]
    constructor
    · rintro ⟨k, handle, _, _, more, place⟩
      obtain rfl := Option.some.inj handle
      simp only [Bundle.asking, takeHandle, read, empty, List.length_nil] at more place
      omega
    · rintro two
      refine ⟨h, rfl, rfl, present, ?_, ?_⟩
      · simp only [Bundle.asking, takeHandle, read]
        omega
      · simp only [Bundle.asking, takeHandle, empty, List.length_nil]
        omega
  by_cases two : reads = 2
  · have both := again.mpr two
    refine ⟨?_, ?_, fun first second isFirst isSecond => ?_⟩
    · rw [issued, issueReads_two may both rfl rfl, bundle_setBundle_same, two]
      simp only [Bundle.asking, takeHandle, read]
    · rw [issued, issueReads_two may both rfl rfl, bundle_setBundle_same, two]
      rfl
    · rw [← firstRead] at isFirst
      rw [← secondRead] at isSecond
      rw [issued, issueReads_two may both isFirst isSecond, two]
      exact ⟨rfl, rfl⟩
  · have one : reads = 1 := by omega
    have full : (takeHandle (s.bundle ch) h).asking.mayRead = false := by
      rw [Bool.eq_false_iff, ne_eq, again]
      exact two
    rw [issued, issueReads_one may full, bundle_setBundle_same, one]
    refine ⟨?_, rfl, fun first second isFirst _ => ?_⟩
    · simp only [Bundle.asking, takeHandle, read]
    · rw [isFirst, firstRead]
      exact ⟨rfl, rfl⟩

/-! ## A block in STREAM, and an orphaned read's end (R142, R150) -/

/-- A block of the sheet enters the buffer, and is composed where it is next (R142). -/
theorem bundleHears_block (who : r.who = .channel ch) (what : r.what = .block) (stream : (s.bundle ch).state = .stream) :
    bundleHears (.answer r code data) s =
      (composeBundle ch (s.setBundle ch (takeBlock (s.bundle ch) code data)), []) := by
  simp only [bundleHears, who, what, stream]

theorem blockFrom_eq (i : Nat) (code : ReadCode) (data : List Byte) : blockFrom i code data =
    { index := i, damaged := decide (code ≠ .intact)
      content := if code = .absent then List.replicate 254 0 else data } := by
  cases code <;> rfl

/-- An answer that no bundle waits for is discarded (R150). -/
theorem bundleHears_unawaited (who : r.who = .channel ch) (noHandle : ∀ n, r.what = .handle n → (s.bundle ch).state ≠ .lookup)
    (noBlock : r.what = .block → (s.bundle ch).state ≠ .stream) : bundleHears (.answer r code data) s = (s, []) := by
  unfold bundleHears
  dsimp only
  rw [who]
  dsimp only
  split
  case h_1 n what lookup => exact absurd lookup (noHandle n what)
  case h_2 what stream => exact absurd stream (noBlock what)
  case h_3 => rfl

theorem bundleHears_orphanEnd (ch : Fin 4) (s : State) : bundleHears (.orphanEnd ch) s =
    issueReads ch (s.setBundle ch { s.bundle ch with outstanding := (s.bundle ch).outstanding - 1 }) := rfl

/-- Outside STREAM the end of an orphaned read makes room for none (R141). -/
theorem orphanEnd_elsewhere (state : (s.bundle ch).state ≠ .stream) : bundleHears (.orphanEnd ch) s =
    (s.setBundle ch { s.bundle ch with outstanding := (s.bundle ch).outstanding - 1 }, []) := by
  have may : { s.bundle ch with outstanding := (s.bundle ch).outstanding - 1 }.mayRead = false := by
    rw [Bool.eq_false_iff, ne_eq, Bundle.mayRead_iff]
    rintro ⟨_, _, stream, _⟩
    exact state stream
  rw [bundleHears_orphanEnd, issueReads_none may]

/-- In STREAM the end of an orphaned read makes room for the next one (R141, R150). -/
theorem orphanEnd_stream {h : Handle} (state : (s.bundle ch).state = .stream) (handle : (s.bundle ch).handle = some h)
    (present : h.absent = false) (more : (s.bundle ch).readCursor < h.blockCount)
    (owed : 1 ≤ (s.bundle ch).outstanding) (full : (s.bundle ch).outstanding + (s.bundle ch).buffer.length = 2) :
    ((bundleHears (.orphanEnd ch) s).1.bundle ch) =
        { s.bundle ch with readCursor := (s.bundle ch).readCursor + 1 } ∧
      ((bundleHears (.orphanEnd ch) s).1.store, (bundleHears (.orphanEnd ch) s).2) =
        s.store.request s.control.straps
          { who := .channel ch, what := .block, block := h.firstBlock + (s.bundle ch).readCursor,
            demand := !((s.bundle ch).readCursor == 1 && (s.bundle ch).blockCursor == 0),
            urgent := (s.bundle ch).urgent } := by
  have may : { s.bundle ch with outstanding := (s.bundle ch).outstanding - 1 }.mayRead = true :=
    (Bundle.mayRead_iff _).mpr ⟨h, handle, state, present, more, by dsimp only; omega⟩
  have enough : (Bundle.asking { s.bundle ch with outstanding := (s.bundle ch).outstanding - 1 }).mayRead = false := by
    rw [Bool.eq_false_iff, ne_eq, Bundle.mayRead_iff]
    rintro ⟨_, _, _, _, _, room⟩
    simp only [Bundle.asking] at room
    omega
  have request : Bundle.nextRead { s.bundle ch with outstanding := (s.bundle ch).outstanding - 1 } ch =
      { who := .channel ch, what := .block, block := h.firstBlock + (s.bundle ch).readCursor,
        demand := !((s.bundle ch).readCursor == 1 && (s.bundle ch).blockCursor == 0),
        urgent := (s.bundle ch).urgent } := by
    simp only [Bundle.nextRead, handle, Option.map_some, Option.getD_some]
  rw [bundleHears_orphanEnd, issueReads_one may enough, request, bundle_setBundle_same]
  refine ⟨?_, rfl⟩
  have again : (s.bundle ch).outstanding - 1 + 1 = (s.bundle ch).outstanding := Nat.sub_add_cancel owed
  simp only [Bundle.asking, again]

end

/-- Settles O42: the controller's end of a transfer, the answer delivered, and what the bundle does with it. -/
theorem transferEndCompletesOrRereads : Obligations.TransferEndCompletesOrRereads := by
  refine ⟨transferEnd_cases, fun r b s u free settled flight broken => ?_,
    fun r b ch s u free settled who intact flight main promote out isOut => ?_, ?_, ?_⟩
  · rw [exec_transferEnd free settled, transferEvent, transferEnd_reread flight broken]
    rfl
  · have ended := transferEnd_intact (st := u.control.straps) flight intact
    rw [endWith_empty main promote] at ended
    rw [exec_transferEnd free settled, transferEvent_one ended, hears_channel who, isOut]
  · rintro r code data ch s out _ _ who rfl rfl rfl
    refine ⟨fun n h reads what lookup owed isHandle count => ?_, fun k what stream isBlock => ?_,
      fun noHandle noBlock => bundleHears_unawaited who noHandle noBlock⟩
    · rw [← handleFrom_eq] at isHandle
      subst isHandle
      have control := ((setBundle_onlyReads s ch (takeHandle (s.bundle ch) (handleFrom code data))).trans
        (issueReads_onlyReads ch _)).control
      generalize issued : issueReads ch (s.setBundle ch (takeHandle (s.bundle ch) (handleFrom code data))) = X at control
      have same : (takeHandle (s.bundle ch) (handleFrom code data)).SameButReads (X.1.bundle ch) := by
        rw [← issued]
        exact issueReads_bundle _
      have heard : bundleHears (.answer r code data) s = (composeBundle ch X.1, X.2) := by
        rw [bundleHears_handle who what lookup, issued]
      obtain ⟨_, reads_, out_, _⟩ := composeNext_kept X.1 (X.1.bundle ch)
      obtain ⟨state, handle, quiet, waits⟩ := composed_head (t := X.1) same owed
      have revision : X.1.ownRevision = if s.hasCondition .plan then none else s.control.revision := by
        rw [State.ownRevision, State.hasCondition, control]
        rfl
      rw [revision] at quiet
      rw [heard, composeBundle_bundle, composeBundle_store]
      refine ⟨state, handle, quiet, waits, fun absent => ?_, fun present read placed empty owing => ?_⟩
      · have may : (takeHandle (s.bundle ch) (handleFrom code data)).mayRead = false := by
          simp [Bundle.mayRead, takeHandle, absent]
        rw [out_, ← issued, issueReads_none may, bundle_setBundle_same]
        exact ⟨rfl, rfl, rfl⟩
      · rw [reads_, out_]
        exact handleReads present (handleFrom_blockCount present) read placed empty owing count issued.symm
    · rw [bundleHears_block who what stream, composeBundle_set, bundle_setBundle_same]
      obtain ⟨_, _, outstanding, _, buffer⟩ := composeNext_kept
        (s.setBundle ch (takeBlock (s.bundle ch) code data)) (takeBlock (s.bundle ch) code data)
      rw [outstanding, buffer, isBlock, ← blockFrom_eq]
      refine ⟨rfl, rfl, rfl, rfl, ?_, fun waits => ?_⟩
      · rintro quiet placed empty ⟨h, handle, more⟩
        have front : (takeBlock (s.bundle ch) code data).buffer =
            blockFrom ((s.bundle ch).blockCursor + (s.bundle ch).buffer.length) code data :: [] := by
          simp only [takeBlock, empty, List.nil_append]
        have next : (blockFrom ((s.bundle ch).blockCursor + (s.bundle ch).buffer.length) code data).index =
            (s.bundle ch).blockCursor := by
          rw [blockFrom_eq, empty]
          rfl
        rw [composeNext_block (b := takeBlock (s.bundle ch) code data) quiet stream placed handle more front next]
        exact ⟨stream, rfl⟩
      · rw [composeNext_pending (b := takeBlock (s.bundle ch) code data) waits]
        rfl
  · rintro ch s out _ rfl rfl
    exact ⟨orphanEnd_elsewhere, fun h state handle present more owed full =>
      orphanEnd_stream state handle present more owed full⟩

end Sys2Proof.Machine
end

section
/-!
PROOFS. What the part encodes it reads back (R180 to R184).
-/
namespace Sys2Proof.Machine

/-! ## Bytes and fields (R179) -/

theorem byte_toNat_of_lt {n : Nat} (small : n < 256) : (byte n).toNat = n := by
  simp only [byte, BitVec.toNat_ofNat]
  omega

theorem PointState.rank_lt (p : PointState) : p.rank < 8 := by
  cases p <;> decide

/-- The state code of a first byte whose high half is a kind code (R183). -/
theorem PointState.ofCode_rank (p : PointState) (k : Nat) : PointState.ofCode (16 * k + p.rank) = p := by
  have low : (16 * k + p.rank) % 8 = p.rank := by
    have := p.rank_lt
    omega
  rw [PointState.ofCode, low]
  cases p <;> rfl

section
variable {p : Option Place} (inRange : ∀ q, p = some q → q.InRange)
include inRange

theorem sheetField_le : sheetField p ≤ 1023 := by
  cases p with
  | none => exact Nat.le_refl _
  | some q => exact (inRange q rfl).1.trans (by decide)

theorem xField_le : xField p ≤ 4095 := by
  cases p with
  | none => exact Nat.zero_le _
  | some q => exact (inRange q rfl).2.1

theorem yField_le : yField p ≤ 4095 := by
  cases p with
  | none => exact Nat.zero_le _
  | some q => exact (inRange q rfl).2.2

/-- The sheet, x and y fields of a place give the place (R179). -/
theorem placeOfFields_fields : placeOfFields (sheetField p) (xField p) (yField p) = p := by
  cases p with
  | none => rfl
  | some q =>
    have other : q.sheet ≠ 1023 := Nat.ne_of_lt (Nat.lt_succ_of_le (inRange q rfl).1)
    exact if_neg other

theorem fieldsInRange_fields {l : Location} (floor : l.floor ≤ 127) (compartment : l.compartment ≤ 15) :
    fieldsInRange (sheetField p) (xField p) (yField p) l.floor l.compartment = true :=
  decide_eq_true ⟨sheetField_le inRange, floor, compartment, .inr ⟨xField_le inRange, yField_le inRange⟩⟩

end

/-! ## Records (R183, R184) -/

/-- The bytes of a point or a marker record, its first byte given (R183). -/
def placedBytes (first index value : Nat) (place : Option Place) (loc : Location) (age : Nat) : List Byte :=
  [byte first, byte index] ++ be16 value ++ be16 (sheetField place) ++ be16 (xField place) ++ be16 (yField place)
    ++ [byte loc.floor, byte loc.compartment] ++ be16 age

section
variable {first index value age : Nat} {state : PointState} {place : Option Place} {loc : Location}

theorem encodeRecord_point (level : value ≤ 255) :
    encodeRecord ⟨.point, index, state, value, place, loc, age⟩ =
      placedBytes (16 + state.rank) index value place loc age := by
  have high : byte (value / 256) = 0 := by rw [Nat.div_eq_of_lt (Nat.lt_succ_of_le level)]; rfl
  simp only [encodeRecord, placedBytes, be16, high, List.cons_append, List.nil_append]

theorem encodeRecord_marker : encodeRecord ⟨.marker, index, state, value, place, loc, age⟩ =
    placedBytes (32 + state.rank) index value place loc age := rfl

/-- The fields of such a record read back (R183). -/
theorem placedBytes_fields (small : first ≤ 255) (indexed : index ≤ 79) (valued : value ≤ 4095)
    (inRange : ∀ p, place = some p → p.InRange) (floor : loc.floor ≤ 127) (compartment : loc.compartment ≤ 15)
    (young : age ≤ 65535) {b : List Byte} (bytes : b = placedBytes first index value place loc age) :
    byteAt b 0 = first ∧ byteAt b 1 = index ∧ fieldAt b 2 = value ∧
      placeOfFields (fieldAt b 4) (fieldAt b 6) (fieldAt b 8) = place ∧ byteAt b 10 = loc.floor ∧
      byteAt b 11 = loc.compartment ∧ fieldAt b 12 = age ∧
      fieldsInRange (fieldAt b 4) (fieldAt b 6) (fieldAt b 8) (byteAt b 10) (byteAt b 11) = true := by
  have sheet : fieldAt b 4 = sheetField place := by
    have := sheetField_le inRange
    rw [bytes]
    exact ofBe16_be16 (sheetField place) (by omega)
  have x : fieldAt b 6 = xField place := by
    have := xField_le inRange
    rw [bytes]
    exact ofBe16_be16 (xField place) (by omega)
  have y : fieldAt b 8 = yField place := by
    have := yField_le inRange
    rw [bytes]
    exact ofBe16_be16 (yField place) (by omega)
  have tenth : byteAt b 10 = loc.floor := by rw [bytes]; exact byte_toNat_of_lt (n := loc.floor) (by omega)
  have eleventh : byteAt b 11 = loc.compartment := by
    rw [bytes]
    exact byte_toNat_of_lt (n := loc.compartment) (by omega)
  rw [sheet, x, y, tenth, eleventh, placeOfFields_fields inRange, fieldsInRange_fields inRange floor compartment, bytes]
  exact ⟨byte_toNat_of_lt (n := first) (by omega), byte_toNat_of_lt (n := index) (by omega),
    ofBe16_be16 value (by omega), rfl, rfl, rfl, ofBe16_be16 age (by omega), rfl⟩

theorem decode_encode_point (small : index ≤ 63) (suits : state.suitsLoop = true) (level : value ≤ 255)
    (inRange : ∀ p, place = some p → p.InRange) (floor : loc.floor ≤ 127) (compartment : loc.compartment ≤ 15)
    (young : age ≤ 65535) : decodeRecord (encodeRecord ⟨.point, index, state, value, place, loc, age⟩) =
      some ⟨.point, index, state, value, place, loc, age⟩ := by
  have rank := state.rank_lt
  have datum : byteAt (encodeRecord ⟨.point, index, state, value, place, loc, age⟩) 3 = value :=
    byte_toNat_of_lt (n := value) (by omega)
  obtain ⟨head, second, _, located, tenth, eleventh, aged, ok⟩ := placedBytes_fields (by omega) (by omega) (by omega)
    inRange floor compartment young (encodeRecord_point (index := index) (state := state) level)
  have kind : byteAt (encodeRecord ⟨.point, index, state, value, place, loc, age⟩) 0 / 16 = 1 := by omega
  have code : PointState.ofCode (byteAt (encodeRecord ⟨.point, index, state, value, place, loc, age⟩) 0) = state := by
    rw [head]
    exact state.ofCode_rank 1
  rw [tenth, eleventh] at ok
  simp only [decodeRecord, kind, code, second, datum, located, tenth, eleventh, aged, ok, suits, small, decide_true,
    Bool.and_self, if_true]

theorem decode_encode_marker (low : 64 ≤ index) (high : index ≤ 79) (suits : state.suitsMarker = true)
    (crewLow : 1 ≤ value) (crewHigh : value ≤ 4095) (inRange : ∀ p, place = some p → p.InRange)
    (floor : loc.floor ≤ 127) (compartment : loc.compartment ≤ 15) (young : age ≤ 65535) :
    decodeRecord (encodeRecord ⟨.marker, index, state, value, place, loc, age⟩) =
      some ⟨.marker, index, state, value, place, loc, age⟩ := by
  have rank := state.rank_lt
  obtain ⟨head, second, datum, located, tenth, eleventh, aged, ok⟩ := placedBytes_fields (by omega) high crewHigh
    inRange floor compartment young (encodeRecord_marker (index := index) (state := state) (value := value))
  have kind : byteAt (encodeRecord ⟨.marker, index, state, value, place, loc, age⟩) 0 / 16 = 2 := by omega
  have code : PointState.ofCode (byteAt (encodeRecord ⟨.marker, index, state, value, place, loc, age⟩) 0) = state := by
    rw [head]
    exact state.ofCode_rank 2
  rw [tenth, eleventh] at ok
  simp only [decodeRecord, kind, code, second, datum, located, tenth, eleventh, aged, ok, suits, low, high, crewLow,
    crewHigh, and_self, decide_true, Bool.and_self, if_true]

theorem decode_encode_level (small : index ≤ 63) (level : value ≤ 255) :
    decodeRecord (encodeRecord ⟨.level, index, .cleared, value, none, ⟨0, 0⟩, 0⟩) =
      some ⟨.level, index, .cleared, value, none, ⟨0, 0⟩, 0⟩ := by
  have head : byteAt (encodeRecord ⟨.level, index, .cleared, value, none, ⟨0, 0⟩, 0⟩) 0 = 48 :=
    byte_toNat_of_lt (n := 48) (by decide)
  have kind : byteAt (encodeRecord ⟨.level, index, .cleared, value, none, ⟨0, 0⟩, 0⟩) 0 / 16 = 3 := by omega
  have second : byteAt (encodeRecord ⟨.level, index, .cleared, value, none, ⟨0, 0⟩, 0⟩) 1 = index :=
    byte_toNat_of_lt (n := index) (by omega)
  have datum : byteAt (encodeRecord ⟨.level, index, .cleared, value, none, ⟨0, 0⟩, 0⟩) 3 = value :=
    byte_toNat_of_lt (n := value) (by omega)
  simp only [decodeRecord, kind, second, datum, small, decide_true, if_true]

end

theorem decode_encode {r : Record} (inRange : r.InRange) : decodeRecord (encodeRecord r) = some r := by
  obtain ⟨kind, index, state, value, place, loc, age⟩ := r
  cases kind with
  | point =>
    obtain ⟨small, suits, level, placed, floor, compartment, young⟩ := inRange
    exact decode_encode_point small suits level placed floor compartment young
  | marker =>
    obtain ⟨low, high, suits, crewLow, crewHigh, placed, floor, compartment, young⟩ := inRange
    exact decode_encode_marker low high suits crewLow crewHigh placed floor compartment young
  | level =>
    obtain ⟨small, cleared, level, unplaced, unlocated, new⟩ := inRange
    dsimp only at small cleared level unplaced unlocated new
    subst cleared unplaced unlocated new
    exact decode_encode_level small level

theorem length_encodeRecord (r : Record) : (encodeRecord r).length = 14 := by
  unfold encodeRecord
  split <;> rfl

/-- The runs of 14 bytes of a body of records are its records (R181). -/
theorem recordChunks_records : ∀ l : List Record,
    recordChunks l.length (l.map encodeRecord).flatten = l.map encodeRecord
  | [] => rfl
  | r :: l => by
    have length := length_encodeRecord r
    rw [List.map_cons, List.flatten_cons, List.length_cons, recordChunks, List.take_left' length,
      List.drop_left' length, recordChunks_records l]

theorem length_records (l : List Record) : (l.map encodeRecord).flatten.length = 14 * l.length := by
  induction l with
  | nil => rfl
  | cons r l ih =>
    rw [List.map_cons, List.flatten_cons, List.length_append, length_encodeRecord, ih, List.length_cons]
    omega

/-! ## Frames (R180 to R182) -/

theorem FrameKind.ofCode_code (k : FrameKind) : FrameKind.ofCode k.code = some k := by
  cases k <;> rfl

/-- The first byte of a header: its high half the kind, its low bits the flags (R181). -/
theorem firstByte_fields (k : FrameKind) (first last start : Bool) :
    let b := byte (k.code * 16 + bit first * 4 + bit last * 2 + bit start)
    b.toNat / 16 = k.code ∧ b.getLsbD 2 = first ∧ b.getLsbD 1 = last ∧ b.getLsbD 0 = start := by
  cases k <;> cases first <;> cases last <;> cases start <;> decide

section
variable {f : TxFrame}

/-- A body that suits its kind has the length that its count requires, and at most twelve to count (R182). -/
theorem bodyOk_length (ok : f.BodyOk) :
    (encodeBody f.body).length + 8 = requiredLength f.kind (bodyCount f.body) ∧ bodyCount f.body ≤ 12 := by
  unfold TxFrame.BodyOk at ok
  split at ok
  case h_1 l kind body =>
    simp only [kind, body, encodeBody, bodyCount, requiredLength, length_records]
    omega
  case h_2 l kind body =>
    simp only [kind, body, encodeBody, bodyCount, requiredLength, length_records]
    omega
  case h_3 kind body =>
    simp only [kind, body, bodyCount, requiredLength]
    exact ⟨rfl, by decide⟩
  case h_4 l kind body =>
    simp only [kind, body, encodeBody, bodyCount, requiredLength, List.length_map]
    omega
  case h_5 => exact ok.elim

theorem length_encodeFrame (f : TxFrame) : (encodeFrame f).length = (encodeBody f.body).length + 8 := by
  simp only [encodeFrame, withCheck, encodeHeader, be16, List.length_append, List.length_cons, List.length_nil]
  omega

theorem parseFrame_encodeFrame (inRange : f.InRange) : parseFrame (encodeFrame f) = some f.received := by
  obtain ⟨station, seq, seed, ok⟩ := inRange
  obtain ⟨required, few⟩ := bodyOk_length ok
  obtain ⟨kind, first, last, start⟩ := firstByte_fields f.kind f.first f.last f.start
  have length := length_encodeFrame f
  have body : ((encodeFrame f).drop 6).take ((encodeFrame f).length - 8) = encodeBody f.body := by
    rw [length, Nat.add_sub_cancel]
    change (encodeBody f.body ++ be16 _).take _ = _
    exact List.take_left
  generalize encoded : encodeFrame f = b at length body
  have head : b.getD 0 0 = byte (f.kind.code * 16 + bit f.first * 4 + bit f.last * 2 + bit f.start) := by
    subst encoded; rfl
  have code : byteAt b 0 / 16 = f.kind.code := by rw [byteAt, head, kind]
  have second : byteAt b 1 = f.station := by subst encoded; exact byte_toNat_of_lt (n := f.station) (by omega)
  have sequence : fieldAt b 2 = f.seq := by subst encoded; exact ofBe16_be16 f.seq (by omega)
  have fourth : byteAt b 4 = f.seed := by subst encoded; exact byte_toNat_of_lt (n := f.seed) (by omega)
  have count : byteAt b 5 = bodyCount f.body := by subst encoded; exact byte_toNat_of_lt (n := bodyCount f.body) (by omega)
  have wrapped : f.seq % 4096 = f.seq := Nat.mod_eq_of_lt (by omega)
  simp only [parseFrame, code, FrameKind.ofCode_code, count, ← required, if_pos length, second, sequence, fourth, head,
    first, last, start, body, wrapped]
  rfl

end

/-- Settles O60: each field of a record and of a header reads back, and the check word holds. -/
theorem encodedFramesReadBack : Obligations.EncodedFramesReadBack := by
  refine ⟨fun r => decode_encode, fun l inRange => ?_, fun f inRange => ?_⟩
  · rw [encodeBody, recordChunks_records, List.map_map]
    exact List.map_congr_left fun r inside => decode_encode (inRange r inside)
  · have holds : checkHolds (encodeFrame f) = true := checkHolds_withCheck _
    have long : ¬(encodeFrame f).length < Config.shortestFrame := by
      rw [length_encodeFrame, Config.shortestFrame]
      omega
    simp only [frameFate, Bool.false_or, decide_eq_true_eq, if_neg long, holds, Bool.not_true, Bool.false_eq_true,
      if_false, parseFrame_encodeFrame inRange]

end Sys2Proof.Machine
end

section
/-!
PROOFS. The load sequence and the entry to RUNNING (R174 to R176, R187, R188).
-/
namespace Sys2Proof.Machine

/-! ## The content of a block (R124) -/

theorem byteAt_take {l : List Byte} {n i : Nat} (inside : i < n) : byteAt (l.take n) i = byteAt l i := by
  simp [byteAt, List.getD_eq_getElem?_getD, inside]

theorem fieldAt_take {l : List Byte} {n i : Nat} (inside : i + 1 < n) : fieldAt (l.take n) i = fieldAt l i := by
  rw [fieldAt, byteAt_take (Nat.lt_of_succ_lt inside), byteAt_take inside, fieldAt]

theorem longAt_take {l : List Byte} {n i : Nat} (inside : i + 3 < n) : longAt (l.take n) i = longAt l i := by
  rw [longAt, fieldAt_take (by omega), fieldAt_take (by omega), longAt]

theorem slotBytes_take (l : List Byte) {k : Nat} (slot : k < 31) :
    slotBytes (l.take 254) k = (l.drop (8 * k)).take 8 := by
  rw [slotBytes, List.drop_take, List.take_take, Nat.min_eq_left (by omega)]

/-- The image mark of a header (R187). -/
theorem hasImageMark_iff (l : List Byte) :
    hasImageMark (l.take 254) = true ↔ l.take 4 = [0x5A, 0x3C, 0xA5, 0xC3] := by
  rw [hasImageMark, List.take_take, beq_iff_eq]
  rfl

theorem layoutOf_take (l : List Byte) : layoutOf (l.take 254) =
    { configStart := longAt l 8 % 262144, dirStart := longAt l 12 % 262144, handleStart := longAt l 16 % 262144,
      sheetCount := min (fieldAt l 6) 1023 } := by
  have count : (if fieldAt l 6 > 1023 then 1023 else fieldAt l 6) = min (fieldAt l 6) 1023 := by
    split <;> omega
  rw [layoutOf, longAt_take (by decide), longAt_take (by decide), longAt_take (by decide), fieldAt_take (by decide), count]
  rfl

/-! ## The loader's read (R125, R174) -/

/-- The controller with its read done and nothing waiting. -/
structure PlanStore.Spent (p q : PlanStore) : Prop where
  layout : q.layout = p.layout
  engine : q.engine = .idle
  main : q.mainQueue = []
  promote : q.promoteQueue = []

section
variable {u : State} {r : ReadRequest} {second : Bool} {b : BlockBytes}

/-- The code of an answer to a read that ends: intact, or damaged at its second transfer. -/
def answerCode (b : BlockBytes) : ReadCode := if blockIntact b then .intact else .damaged

/-- A read of the loader that ends is taken at its load step. -/
theorem transferEvent_loader (who : r.who = .loader) (what : r.what = .block)
    (flight : u.store.engine = (if second then .second r false else .first r false))
    (main : u.store.mainQueue = []) (promote : u.store.promoteQueue = [])
    (ends : blockIntact b = true ∨ second = true) : ∃ p, u.store.Spent p ∧ transferEvent b u =
      deliver 63 (loaderHears (answerCode b) (b.val.take 254) (u.withStore p)).2
        (loaderHears (answerCode b) (b.val.take 254) (u.withStore p)).1 := by
  have data : answerData r (b.val.take 254) = b.val.take 254 := by rw [answerData, what]
  have heard {p : PlanStore} (ended : u.store.transferEnd u.control.straps b =
      (p, [.answer r (answerCode b) (answerData r (b.val.take 254))])) : transferEvent b u =
      deliver 63 (loaderHears (answerCode b) (b.val.take 254) (u.withStore p)).2
        (loaderHears (answerCode b) (b.val.take 254) (u.withStore p)).1 := by
    rw [transferEvent_one ended, data]
    simp only [hears, who]
  cases intact : blockIntact b with
  | true =>
    have engine : u.store.engine = .first r false ∨ u.store.engine = .second r false := by
      cases second
      · exact .inl flight
      · exact .inr flight
    refine ⟨{ u.store with engine := .idle }, ⟨rfl, rfl, main, promote⟩, heard ?_⟩
    rw [transferEnd_intact engine intact, endWith_empty main promote, answerCode, if_pos intact]
  | false =>
    have again : second = true := ends.resolve_left fun k => Bool.noConfusion (intact.symm.trans k)
    subst again
    refine ⟨{ u.store with damaged := min (u.store.damaged + 1) 65535, engine := .idle },
      ⟨rfl, rfl, main, promote⟩, heard ?_⟩
    rw [transferEnd_damaged flight intact,
      endWith_empty (p := { u.store with damaged := min (u.store.damaged + 1) 65535 }) main promote, answerCode,
      if_neg (by rw [intact]; exact Bool.false_ne_true)]

theorem reduceBlock_idem (n : Nat) : reduceBlock (reduceBlock n) = reduceBlock n :=
  Nat.mod_mod n 262144

/-- The loader's next read starts at once (R125, R127). -/
theorem askStore_loader {v : State} (engine : v.store.engine = .idle) (main : v.store.mainQueue = [])
    (promote : v.store.promoteQueue = []) {n : Nat} (at_ : populated v.control.straps (reduceBlock n) = true) :
    askStore (loaderRequest (reduceBlock n)) v =
      (v.withStore { v.store with engine := .first (loaderRequest (reduceBlock n)) false }, []) := by
  have reduced : reduceBlock (loaderRequest (reduceBlock n)).block = reduceBlock n := reduceBlock_idem n
  have same : { loaderRequest (reduceBlock n) with block := reduceBlock n } = loaderRequest (reduceBlock n) := rfl
  rw [askStore, request_block rfl, reduced, same, enter_advance engine main promote,
    if_pos (show populated v.control.straps (loaderRequest (reduceBlock n)).block = true from at_)]

end

/-! ## The entry to RUNNING (R176, R16) -/

theorem enterRunning_frame (s : State) : (enterRunning s).control = { s.control with running := true } ∧
    (enterRunning s).scanner = { s.scanner with cfg := s.newScanConfig } ∧
    (enterRunning s).table.clearHold = s.newClearHold ∧
    (enterRunning s).pub.seed = s.newSeed ∧ (enterRunning s).pub.summaryCounter = Config.summaryInterval s.newSeed ∧
    (enterRunning s).incident = s.newIncident ∧ (enterRunning s).crew.notifyVector = s.newNotifyVector ∧
    (enterRunning s).store = s.store := by
  obtain ⟨l, placed⟩ := rewriteSupplyPlace_entries
    (((s.withControl { s.control with running := true }).withScanner { s.scanner with cfg := s.newScanConfig }))
  have eq : enterRunning s = _ := rfl
  unfold enterRunning at eq
  dsimp only at eq
  change enterRunning s = State.withCrew _ _ at eq
  rw [show (s.withControl { s.control with running := true }).scanner = s.scanner from rfl, placed] at eq
  rw [eq]
  exact ⟨rfl, rfl, rfl, rfl, rfl, rfl, rfl, rfl⟩

/-- The state in which point 0 is placed as the station enters RUNNING. -/
def configured (s : State) : State :=
  (s.withControl { s.control with running := true }).withScanner { s.scanner with cfg := s.newScanConfig }

theorem enterRunning_entryAt (s : State) (a : Address) :
    (enterRunning s).entryAt a = (rewriteSupplyPlace (configured s)).entryAt a := rfl

theorem ownAt_addr {s : State} {i : Nat} {e : Entry} (held : s.ownAt i = some e) : e.addr = ⟨s.own, i⟩ :=
  addr_of_entryAt held

theorem rewriteSupplyPlace_other {s : State} {a : Address} (other : a ≠ ⟨s.own, 0⟩) :
    (rewriteSupplyPlace s).entryAt a = s.entryAt a := by
  unfold rewriteSupplyPlace
  split
  case h_1 e held => exact entryAt_putEntry_ne s _ a fun k => other (Eq.trans k (show e.addr = _ from ownAt_addr held))
  case h_2 => rfl

theorem rewriteSupplyPlace_own {s : State} {e : Entry} (held : s.ownAt 0 = some e) :
    (rewriteSupplyPlace s).entryAt ⟨s.own, 0⟩ =
      some { e with loc := (s.scanner.config 0).loc, place := (s.scanner.config 0).place } := by
  have eq : rewriteSupplyPlace s =
      s.putEntry { e with loc := (s.scanner.config 0).loc, place := (s.scanner.config 0).place } := by
    rw [rewriteSupplyPlace, held]
  have put := entryAt_putEntry_same s { e with loc := (s.scanner.config 0).loc, place := (s.scanner.config 0).place }
  rw [eq, ← ownAt_addr held]
  exact put

/-- The configuration of each channel from the loaded record and the directory (R1, R187, R188). -/
theorem scanConfigOf_channel {n : Scanner} {rec : List Byte} {dir : List (Option (List Byte))}
    (cfg : n.cfg = scanConfigOf rec dir) {i : Nat} (inside : i < 64) : n.config i = channelConfigOf rec dir i := by
  rw [Scanner.config, cfg, scanConfigOf, List.getD_eq_getElem?_getD]
  simp [inside]

theorem channelConfigOf_damaged {rec : List Byte} {dir : List (Option (List Byte))} {i : Nat}
    (damaged : dir.getD i none = none) :
    (channelConfigOf rec dir i).loc = ⟨127, 0⟩ ∧ (channelConfigOf rec dir i).place = none := by
  unfold channelConfigOf
  rw [damaged]
  exact ⟨rfl, rfl⟩

theorem channelConfigOf_entry {rec : List Byte} {dir : List (Option (List Byte))} {i : Nat} {e : List Byte}
    (given : dir.getD i none = some e) :
    (channelConfigOf rec dir i).loc = ⟨min (byteAt e 0) 127, byteAt e 1 % 16⟩ ∧
      (channelConfigOf rec dir i).place = if 1022 < fieldAt e 2 then none
        else some ⟨fieldAt e 2, min (fieldAt e 4) 4095, min (fieldAt e 6) 4095⟩ := by
  have floor : (if byteAt e 0 > 127 then 127 else byteAt e 0) = min (byteAt e 0) 127 := by
    split <;> omega
  unfold channelConfigOf
  rw [given, ← floor]
  exact ⟨rfl, rfl⟩

/-! ## The defaults (R174, R176, R178) -/

/-- Without a configuration every block takes its built-in default (R176). -/
theorem newValues_none {s : State} (none_ : s.configuration = none) : s.newScanConfig = .default ∧
    s.newClearHold = Config.defaultClearHold ∧ s.newSeed = Config.defaultSeed ∧
    s.newIncident = { s.incident with
      incidentHold := Config.defaultIncidentHold, spreadFloors := Config.defaultSpreadFloors
      groups := List.replicate 16 0 } ∧
    s.newNotifyVector = 0xFFFF := by
  refine ⟨?_, ?_, ?_, ?_, ?_⟩
  · simp only [State.newScanConfig, none_]
  · simp only [State.newClearHold, none_]
  · simp only [State.newSeed, none_]
  · simp only [State.newIncident, none_]
  · simp only [State.newNotifyVector, none_]

/-- With one each block takes its values of the record (R176, R187). -/
theorem newValues_some {s : State} {rec : List Byte} (loaded : s.configuration = some rec) :
    s.newScanConfig = scanConfigOf rec s.control.loadedDirectory ∧ s.newClearHold = fieldAt rec 84 ∧
    s.newSeed = byteAt rec 83 ∧
    s.newIncident = { s.incident with
      incidentHold := fieldAt rec 86, spreadFloors := min (byteAt rec 88) 7
      groups := (List.range 16).map (fun c => byteAt rec (89 + c) % 4) } ∧
    s.newNotifyVector = BitVec.ofNat 16 (fieldAt rec 105) := by
  refine ⟨?_, ?_, ?_, ?_, ?_⟩
  · simp only [State.newScanConfig, loaded]
  · simp only [State.newClearHold, loaded]
  · simp only [State.newSeed, loaded]
  · simp only [State.newIncident, loaded]
  · simp only [State.newNotifyVector, loaded]

/-- A station that runs on the built-in defaults, its image's values let go. -/
structure RunsOnDefaults (s t : State) : Prop where
  running : t.control.running = true
  defaults : t.control.defaultsInUse = true
  revision : t.control.revision = s.control.revision
  store : t.store = s.store
  config : t.hasCondition .config = true
  plan : t.hasCondition .plan = s.hasCondition .plan
  values : t.scanner.cfg = ScanConfig.default ∧ t.table.clearHold = 600 ∧ t.pub.seed = 193 ∧
    t.pub.summaryCounter = 64 ∧ t.incident.incidentHold = 3000 ∧ t.incident.spreadFloors = 2 ∧
    t.crew.notifyVector = 0xFFFF

theorem runOnDefaults_spec (s : State) : RunsOnDefaults s (runOnDefaults s) := by
  have flagged := setCondition_told s .config
  generalize same : (s.setCondition .config).withControl
    { (s.setCondition .config).control with defaultsInUse := true } = v
  have eq : runOnDefaults s = enterRunning v := by rw [← same]; rfl
  have config : v.hasCondition .config = true := by
    rw [← same]
    exact hasCondition_setCondition s .config
  have plan : v.hasCondition .plan = s.hasCondition .plan := by
    rw [← same]
    exact hasCondition_setCondition_other (by decide) s
  have revision : v.control.revision = s.control.revision := by
    rw [← same]
    exact (congrArg StationControl.revision flagged.control :)
  have store : v.store = s.store := by
    rw [← same]
    exact flagged.store
  have none_ : v.configuration = none := by rw [← same]; rfl
  obtain ⟨control, scanner, hold, seed, counter, incident, vector, kept⟩ := enterRunning_frame v
  rw [eq]
  refine ⟨by rw [control], ?_, by rw [control]; exact revision, kept.trans store, ?_, ?_, ?_⟩
  · rw [control, ← same]
    rfl
  · rw [State.hasCondition, control]
    exact config
  · rw [State.hasCondition, control]
    exact plan
  · obtain ⟨newScan, newHold, newSeed, newIncident, newVector⟩ := newValues_none none_
    rw [scanner, hold, seed, counter, incident, vector, newScan, newHold, newSeed, newIncident, newVector]
    exact ⟨rfl, rfl, rfl, rfl, rfl, rfl, rfl⟩

end Sys2Proof.Machine
end

section
/-!
PROOFS. The loader's answers at the load steps (R174 to R176).
-/
namespace Sys2Proof.Machine

section
variable {s : State} {code : ReadCode} {c : List Byte}

/-! ## The three load steps -/

theorem loaderHears_header (off : s.control.running = false) (step : s.control.step = .header) :
    loaderHears code c s = takeHeader code c s := by
  simp only [loaderHears, off, step, Bool.false_eq_true, if_false]

theorem loaderHears_config (off : s.control.running = false) (step : s.control.step = .config) :
    loaderHears code c s = takeConfig code c s := by
  simp only [loaderHears, off, step, Bool.false_eq_true, if_false]

theorem loaderHears_directory {k : Nat} (off : s.control.running = false) (step : s.control.step = .directory k) :
    loaderHears code c s = takeDirectory k code c s := by
  simp only [loaderHears, off, step, Bool.false_eq_true, if_false]

/-- The state with a good header's values taken (R174). -/
def headerTaken (c : List Byte) (s : State) : State :=
  ((s.withStore { s.store with layout := some (layoutOf c) }).withControl
    { s.control with revision := some (revisionOf c) }).atStep .config

theorem takeHeader_good (mark : hasImageMark c = true) : takeHeader .intact c s =
    askStore (loaderRequest (configBlock (layoutOf c) s.own)) (headerTaken c s) :=
  if_pos ⟨rfl, mark⟩

theorem takeHeader_bad (bad : ¬(code = .intact ∧ hasImageMark c = true)) :
    takeHeader code c s = (runOnDefaults (s.setCondition .plan), []) := if_neg bad

/-- The state with a good configuration record taken (R175). -/
def configTaken (c : List Byte) (s : State) : State :=
  (s.withControl { s.control with loadedRecord := some c }).atStep (.directory 0)

section
variable {l : Layout} (layout : s.store.layout = some l)
include layout

theorem takeConfig_good (own : byteAt c 0 = s.own) : takeConfig .intact c s =
    askStore (loaderRequest (dirBlock l s.own 0)) (configTaken c s) := by
  unfold takeConfig
  rw [layout]
  exact if_pos ⟨rfl, own⟩

theorem takeConfig_bad (bad : ¬(code = .intact ∧ byteAt c 0 = s.own)) :
    takeConfig code c s = (runOnDefaults s, []) := by
  unfold takeConfig
  rw [layout]
  exact if_neg bad

/-- The state with a directory block's entries taken (R134, R175). -/
def directoryTaken (k : Nat) (code : ReadCode) (c : List Byte) (s : State) : State :=
  s.withControl { s.control with loadedDirectory := s.control.loadedDirectory ++ dirEntries code c s.own k }

theorem takeDirectory_more {k : Nat} (more : k + 1 < dirBlockCount s.own) : takeDirectory k code c s =
    askStore (loaderRequest (dirBlock l s.own (k + 1))) ((directoryTaken k code c s).atStep (.directory (k + 1))) := by
  unfold takeDirectory
  dsimp only
  rw [layout]
  exact if_pos more

theorem takeDirectory_last {k : Nat} (last : ¬k + 1 < dirBlockCount s.own) :
    takeDirectory k code c s = (enterRunning (directoryTaken k code c s), []) := by
  unfold takeDirectory
  dsimp only
  rw [layout]
  exact if_neg last

end

end

/-- The directory's last block of a station is the one of its last entry (R134). -/
theorem more_iff (own k : Nat) : k + 1 < dirBlockCount own ↔
    (own - 1) * 64 / 31 + k < ((own - 1) * 64 + 63) / 31 := by
  simp only [dirBlockCount, firstDirEntry]
  omega

/-- The entries that a directory block gives, in rising index (R134). -/
theorem dirEntries_eq (b : BlockBytes) (own k : Nat) : dirEntries (answerCode b) (b.val.take 254) own k =
    ((List.range 64).filter (fun i => ((own - 1) * 64 + i) / 31 == (own - 1) * 64 / 31 + k)).map
      (fun i => if blockIntact b then some ((b.val.drop (8 * (((own - 1) * 64 + i) % 31))).take 8) else none) := by
  have which : (fun e => e / 31 == firstDirEntry own / 31 + k) ∘ (· + firstDirEntry own) =
      fun i => ((own - 1) * 64 + i) / 31 == (own - 1) * 64 / 31 + k := by
    funext i
    simp only [Function.comp, firstDirEntry, Nat.add_comm i]
  rw [dirEntries, dirSlots, List.filter_map, which, List.map_map, List.map_map]
  refine List.map_congr_left fun i _ => ?_
  have slot : ((own - 1) * 64 + i) % 31 < 31 := Nat.mod_lt _ (by decide)
  simp only [Function.comp, firstDirEntry, Nat.add_comm i, answerCode]
  cases blockIntact b with
  | true => exact congrArg some (slotBytes_take _ slot)
  | false => rfl

section
variable {u : State} {b : BlockBytes} {p : PlanStore}

theorem answerCode_intact (intact : blockIntact b = true) : answerCode b = .intact := if_pos intact

theorem answerCode_ne (broken : blockIntact b = false) : answerCode b ≠ .intact := by
  rw [answerCode, broken]
  exact fun k => nomatch k

/-! ## The header (R174) -/

theorem header_good (off : u.control.running = false) (step : u.control.step = .header) (spent : u.store.Spent p)
    (intact : blockIntact b = true) (mark : b.val.take 4 = [0x5A, 0x3C, 0xA5, 0xC3])
    (at_ : populated u.control.straps (configBlock (layoutOf (b.val.take 254)) u.own) = true) {t : State}
    (done : t = deliver 63 (loaderHears (answerCode b) (b.val.take 254) (u.withStore p)).2
      (loaderHears (answerCode b) (b.val.take 254) (u.withStore p)).1) :
    t.control.running = false ∧ t.control.step = .config ∧ t.control.revision = some (fieldAt b.val 4) ∧
      t.control.conditions = u.control.conditions ∧
      t.store.layout = some
        { configStart := longAt b.val 8 % 262144, dirStart := longAt b.val 12 % 262144,
          handleStart := longAt b.val 16 % 262144, sheetCount := min (fieldAt b.val 6) 1023 } ∧
      t.store.engine = .first
        { who := .loader, what := .block, demand := true, urgent := false,
          block := (longAt b.val 8 % 262144 + (u.own - 1)) % 262144 } false := by
  have asked := askStore_loader (v := headerTaken (b.val.take 254) (u.withStore p)) spent.engine spent.main spent.promote
    (n := (layoutOf (b.val.take 254)).configStart + (u.own - 1)) at_
  have heard := (loaderHears_header (s := u.withStore p) (code := .intact) (c := b.val.take 254) off step).trans
    ((takeHeader_good ((hasImageMark_iff _).mpr mark)).trans asked)
  rw [answerCode_intact intact] at done
  have revision : revisionOf (b.val.take 254) = fieldAt b.val 4 := fieldAt_take (by decide)
  rw [heard, deliver_nil] at done
  subst done
  exact ⟨off, rfl, congrArg some revision, rfl, congrArg some (layoutOf_take b.val),
    by rw [layoutOf_take]; rfl⟩

/-- A station that could not load its image or its record runs on the defaults, its read done. -/
theorem fallen_back {s t : State} (runs : RunsOnDefaults s t) (store : s.store = p) (spent : u.store.Spent p)
    (revision : s.control.revision = u.control.revision) :
    t.control.running = true ∧ t.control.defaultsInUse = true ∧ t.control.revision = u.control.revision ∧
      t.store.layout = u.store.layout ∧ t.hasCondition .config = true ∧ t.store.engine = .idle := by
  have kept : t.store = p := runs.store.trans store
  exact ⟨runs.running, runs.defaults, runs.revision.trans revision, by rw [kept]; exact spent.layout, runs.config,
    by rw [kept]; exact spent.engine⟩

theorem header_bad (off : u.control.running = false) (step : u.control.step = .header) (spent : u.store.Spent p)
    (bad : (blockIntact b = true ∧ b.val.take 4 ≠ [0x5A, 0x3C, 0xA5, 0xC3]) ∨ blockIntact b = false) {t : State}
    (done : t = deliver 63 (loaderHears (answerCode b) (b.val.take 254) (u.withStore p)).2
      (loaderHears (answerCode b) (b.val.take 254) (u.withStore p)).1) :
    t.control.running = true ∧ t.control.defaultsInUse = true ∧ t.control.revision = u.control.revision ∧
      t.store.layout = u.store.layout ∧ t.hasCondition .plan = true ∧
      t.hasCondition .config = true ∧ t.scanner.cfg = ScanConfig.default ∧
      t.table.clearHold = 600 ∧ t.pub.seed = 193 ∧ t.pub.summaryCounter = 64 ∧
      t.incident.incidentHold = 3000 ∧ t.incident.spreadFloors = 2 ∧
      t.crew.notifyVector = 0xFFFF ∧ t.store.engine = .idle := by
  have unfit : ¬(answerCode b = .intact ∧ hasImageMark (b.val.take 254) = true) := by
    rintro ⟨code, mark⟩
    rcases bad with ⟨_, other⟩ | broken
    · exact other ((hasImageMark_iff _).mp mark)
    · exact answerCode_ne broken code
  have flagged := setCondition_told (u.withStore p) .plan
  have heard := loaderHears_header (s := u.withStore p) (code := answerCode b) (c := b.val.take 254) off step
  rw [takeHeader_bad unfit] at heard
  rw [heard, deliver_nil] at done
  subst done
  have runs := runOnDefaults_spec ((u.withStore p).setCondition .plan)
  obtain ⟨running, defaults, revision, layout, config, engine⟩ := fallen_back runs flagged.store spent
    ((congrArg StationControl.revision flagged.control :))
  obtain ⟨cfg, hold, seed, counter, incidentHold, spread, vector⟩ := runs.values
  exact ⟨running, defaults, revision, layout, runs.plan.trans (hasCondition_setCondition _ _), config, cfg, hold, seed,
    counter, incidentHold, spread, vector, engine⟩

/-! ## The configuration record (R175) -/

section
variable {l : Layout} (layout : u.store.layout = some l)
include layout

theorem config_good (off : u.control.running = false) (step : u.control.step = .config) (spent : u.store.Spent p)
    (intact : blockIntact b = true) (own : byteAt b.val 0 = u.own)
    (at_ : populated u.control.straps ((l.dirStart + (u.own - 1) * 64 / 31) % 262144) = true) {t : State}
    (done : t = deliver 63 (loaderHears (answerCode b) (b.val.take 254) (u.withStore p)).2
      (loaderHears (answerCode b) (b.val.take 254) (u.withStore p)).1) :
    t.control.running = false ∧ t.control.step = .directory 0 ∧ t.control.loadedRecord = some (b.val.take 254) ∧
      t.control.conditions = u.control.conditions ∧
      t.store.engine = .first
        { who := .loader, what := .block, demand := true, urgent := false,
          block := (l.dirStart + (u.own - 1) * 64 / 31) % 262144 } false := by
  have asked := askStore_loader (v := configTaken (b.val.take 254) (u.withStore p)) spent.engine spent.main spent.promote
    (n := l.dirStart + ((u.own - 1) * 64 / 31 + 0)) at_
  have named : byteAt (b.val.take 254) 0 = (u.withStore p).own := (byteAt_take (by decide)).trans own
  have heard := (loaderHears_config (s := u.withStore p) (code := .intact) (c := b.val.take 254) off step).trans
    ((takeConfig_good (s := u.withStore p) (spent.layout.trans layout) named).trans asked)
  rw [answerCode_intact intact] at done
  rw [heard, deliver_nil] at done
  subst done
  exact ⟨off, rfl, rfl, rfl, rfl⟩

theorem config_bad (off : u.control.running = false) (step : u.control.step = .config) (spent : u.store.Spent p)
    (bad : (blockIntact b = true ∧ byteAt b.val 0 ≠ u.own) ∨ blockIntact b = false) {t : State}
    (done : t = deliver 63 (loaderHears (answerCode b) (b.val.take 254) (u.withStore p)).2
      (loaderHears (answerCode b) (b.val.take 254) (u.withStore p)).1) :
    t.control.running = true ∧ t.control.defaultsInUse = true ∧ t.control.revision = u.control.revision ∧
      t.store.layout = u.store.layout ∧ t.hasCondition .plan = u.hasCondition .plan ∧
      t.hasCondition .config = true ∧ t.scanner.cfg = ScanConfig.default ∧
      t.table.clearHold = 600 ∧ t.pub.seed = 193 ∧ t.pub.summaryCounter = 64 ∧
      t.incident.incidentHold = 3000 ∧ t.incident.spreadFloors = 2 ∧
      t.crew.notifyVector = 0xFFFF ∧ t.store.engine = .idle := by
  have unfit : ¬(answerCode b = .intact ∧ byteAt (b.val.take 254) 0 = (u.withStore p).own) := by
    rintro ⟨code, named⟩
    rcases bad with ⟨_, other⟩ | broken
    · exact other ((byteAt_take (by decide)).symm.trans named)
    · exact answerCode_ne broken code
  have heard := loaderHears_config (s := u.withStore p) (code := answerCode b) (c := b.val.take 254) off step
  rw [takeConfig_bad (s := u.withStore p) (spent.layout.trans layout) unfit] at heard
  rw [heard, deliver_nil] at done
  subst done
  have runs := runOnDefaults_spec (u.withStore p)
  obtain ⟨running, defaults, revision, kept, config, engine⟩ := fallen_back runs rfl spent rfl
  obtain ⟨cfg, hold, seed, counter, incidentHold, spread, vector⟩ := runs.values
  exact ⟨running, defaults, revision, kept, runs.plan, config, cfg, hold, seed, counter, incidentHold, spread, vector,
    engine⟩

/-! ## The directory (R134, R175) -/

theorem directory_more {k : Nat} {dir : List (Option (List Byte))} (off : u.control.running = false)
    (step : u.control.step = .directory k) (spent : u.store.Spent p)
    (taken : dir = u.control.loadedDirectory ++ dirEntries (answerCode b) (b.val.take 254) u.own k)
    (more : (u.own - 1) * 64 / 31 + k < ((u.own - 1) * 64 + 63) / 31)
    (at_ : populated u.control.straps ((l.dirStart + ((u.own - 1) * 64 / 31 + (k + 1))) % 262144) = true) {t : State}
    (done : t = deliver 63 (loaderHears (answerCode b) (b.val.take 254) (u.withStore p)).2
      (loaderHears (answerCode b) (b.val.take 254) (u.withStore p)).1) :
    t.control.running = false ∧ t.control.step = .directory (k + 1) ∧ t.control.loadedDirectory = dir ∧
      t.control.conditions = u.control.conditions ∧
      t.store.engine = .first
        { who := .loader, what := .block, demand := true, urgent := false,
          block := (l.dirStart + ((u.own - 1) * 64 / 31 + (k + 1))) % 262144 } false := by
  have asked := askStore_loader
    (v := (directoryTaken k (answerCode b) (b.val.take 254) (u.withStore p)).atStep (.directory (k + 1)))
    spent.engine spent.main spent.promote (n := l.dirStart + ((u.own - 1) * 64 / 31 + (k + 1))) at_
  have heard := (loaderHears_directory (s := u.withStore p) (code := answerCode b) (c := b.val.take 254) off step).trans
    ((takeDirectory_more (s := u.withStore p) (spent.layout.trans layout) ((more_iff _ _).mpr more)).trans asked)
  rw [heard, deliver_nil] at done
  subst done taken
  exact ⟨off, rfl, rfl, rfl, rfl⟩

theorem directory_last {k : Nat} (off : u.control.running = false)
    (step : u.control.step = .directory k) (spent : u.store.Spent p)
    (last : ((u.own - 1) * 64 + 63) / 31 ≤ (u.own - 1) * 64 / 31 + k) :
    deliver 63 (loaderHears (answerCode b) (b.val.take 254) (u.withStore p)).2
        (loaderHears (answerCode b) (b.val.take 254) (u.withStore p)).1 =
      enterRunning (directoryTaken k (answerCode b) (b.val.take 254) (u.withStore p)) := by
  rw [loaderHears_directory (s := u.withStore p) off step, takeDirectory_last (s := u.withStore p)
    (spent.layout.trans layout) fun more => Nat.not_lt.mpr last ((more_iff _ _).mp more), deliver_nil]

end

end

/-! ## The entry to RUNNING with the loaded configuration (R176, R187, R188) -/

/-- Every value of a loaded configuration, as the station that enters RUNNING holds it. -/
theorem enterRunning_loaded {s : State} {rec : List Byte} {dir : List (Option (List Byte))}
    (loaded : s.configuration = some rec) (taken : s.control.loadedDirectory = dir) {t : State}
    (done : t = enterRunning s) :
    t.control.running = true ∧ t.control.conditions = s.control.conditions ∧
      t.control.revision = s.control.revision ∧ t.scanner.channels = s.scanner.channels ∧
      t.scanner.cfg = scanConfigOf rec dir ∧ t.pub.seed = byteAt rec 83 ∧
      t.pub.summaryCounter = (255 - byteAt rec 83) + 2 ∧ t.table.clearHold = fieldAt rec 84 ∧
      t.incident = { s.incident with
        incidentHold := fieldAt rec 86, spreadFloors := min (byteAt rec 88) 7
        groups := (List.range 16).map (fun c => byteAt rec (89 + c) % 4) } ∧
      t.crew.notifyVector = BitVec.ofNat 16 (fieldAt rec 105) ∧ t.store = s.store := by
  obtain ⟨control, scanner, hold, seed, counter, incident, vector, store⟩ := enterRunning_frame s
  obtain ⟨newScan, newHold, newSeed, newIncident, newVector⟩ := newValues_some loaded
  rw [taken] at newScan
  subst done
  rw [control, scanner, hold, seed, counter, incident, vector, newScan, newHold, newSeed, newIncident, newVector]
  exact ⟨rfl, rfl, rfl, rfl, rfl, rfl, rfl, rfl, rfl, rfl, store⟩

/-- Point 0 takes its place from the new configuration copy, and no other entry moves (R16). -/
theorem enterRunning_entries (s : State) :
    (∀ e, s.ownAt 0 = some e → (enterRunning s).ownAt 0 = some { e with
      loc := ((enterRunning s).scanner.config 0).loc, place := ((enterRunning s).scanner.config 0).place }) ∧
    (∀ a, a ≠ ⟨s.own, 0⟩ → (enterRunning s).entryAt a = s.entryAt a) := by
  obtain ⟨control, scanner, _⟩ := enterRunning_frame s
  refine ⟨fun e held => ?_, fun a other => ?_⟩
  · have own : (enterRunning s).ownAt 0 = (rewriteSupplyPlace (configured s)).entryAt ⟨s.own, 0⟩ := by
      rw [State.ownAt, State.own, control]
      rfl
    rw [own, scanner]
    exact rewriteSupplyPlace_own (s := configured s) held
  · rw [enterRunning_entryAt]
    exact rewriteSupplyPlace_other (s := configured s) other

/-- The configuration of a channel from the loaded bytes (R1, R187, R188). -/
theorem loadedChannel {n : Scanner} {rec : List Byte} {dir : List (Option (List Byte))}
    (cfg : n.cfg = scanConfigOf rec dir) {i : Nat} (inside : i < 64) {c : ChannelConfig} (named : c = n.config i) :
    c.kind = kindOfCode (byteAt rec (1 + i)) ∧
      c.latched = (rec.getD (1 + i) 0).getLsbD 3 ∧ c.invert = (rec.getD (1 + i) 0).getLsbD 4 ∧
      (dir.getD i none = none → c.loc = ⟨127, 0⟩ ∧ c.place = none) ∧
      (∀ e, dir.getD i none = some e →
        c.loc = ⟨min (byteAt e 0) 127, byteAt e 1 % 16⟩ ∧
        c.place = if 1022 < fieldAt e 2 then none
          else some ⟨fieldAt e 2, min (fieldAt e 4) 4095, min (fieldAt e 6) 4095⟩) := by
  rw [named, scanConfigOf_channel cfg inside]
  exact ⟨rfl, rfl, rfl, channelConfigOf_damaged, fun e => channelConfigOf_entry⟩

/-- Settles O43: the loader's answer at each load step, with the values the station then holds. -/
theorem headerAnswerLoadsOrFallsBack : Obligations.HeaderAnswerLoadsOrFallsBack := by
  intro r second b s u free settled off who what flight main promote
  have exec_eq := exec_transferEnd free settled b
  have ended := transferEvent_loader (b := b) who what flight main promote
  refine ⟨fun step => ⟨fun intact mark at_ => ?_, fun bad => ?_⟩,
    fun l step layout => ⟨fun intact own at_ => ?_, fun bad => ?_⟩,
    fun k l _ dir step layout isFirst ends taken => ?_⟩
  · obtain ⟨p, spent, done⟩ := ended (.inl intact)
    exact ⟨_, exec_eq, header_good off step spent intact mark at_ done⟩
  · obtain ⟨p, spent, done⟩ := ended (bad.imp And.left And.right)
    exact ⟨_, exec_eq, header_bad off step spent (bad.imp id And.left) done⟩
  · obtain ⟨p, spent, done⟩ := ended (.inl intact)
    exact ⟨_, exec_eq, config_good layout off step spent intact own at_ done⟩
  · obtain ⟨p, spent, done⟩ := ended (bad.imp And.left And.right)
    exact ⟨_, exec_eq, config_bad layout off step spent (bad.imp id And.left) done⟩
  · subst isFirst
    rw [← dirEntries_eq] at taken
    obtain ⟨p, spent, done⟩ := ended ends
    refine ⟨fun more at_ => ⟨_, exec_eq, directory_more layout off step spent taken more at_ done⟩,
      fun rec last loading record => ⟨_, exec_eq, ?_⟩⟩
    rw [directory_last layout off step spent last] at done
    have loaded : (directoryTaken k (answerCode b) (b.val.take 254) (u.withStore p)).configuration = some rec := by
      have given : (u.withStore p).configuration = some rec := by
        rw [State.configuration, if_neg (by rw [withStore_control, loading]; exact Bool.false_ne_true)]
        exact record
      exact given
    obtain ⟨running, conditions, revision, channels, cfg, seed, counter, hold, incident, vector, store⟩ :=
      enterRunning_loaded loaded taken.symm done
    obtain ⟨zero, others⟩ := enterRunning_entries (directoryTaken k (answerCode b) (b.val.take 254) (u.withStore p))
    rw [← done] at zero others
    refine ⟨running, conditions, revision, channels, fun i inside c named => loadedChannel cfg inside named, ?_⟩
    rw [cfg, store]
    exact ⟨rfl, rfl, rfl, rfl, rfl, rfl, rfl, rfl, rfl, rfl, seed, counter, hold, incident, vector, spent.engine,
      zero, others⟩

end Sys2Proof.Machine
end
